-- ==== Sys2Proof/Word.lean ====
section
/-! DEFINITION. The words of the CT-1 (R41, R257) and the sparse tables its state is held in. -/

namespace Sys2Proof

/-- The smallest addressable unit of every memory (R41). -/
abbrev Byte := BitVec 8

/-- A register, counter or message word of 64 bits. -/
abbrev Word := BitVec 64

/-- A sparse table: (key, value) pairs with strictly rising keys, holding no default value.
The operations are in Machine/Store.lean. -/
abbrev Table (α : Type) := List (Nat × α)

end Sys2Proof
end

