-- ==== Sys2Proof/Syntax.lean ====
section
/-! DEFINITION. The commands of the CT-1: one constructor per row of spec/opcode_table.json, with the
operands that its source decides. A tile instruction carries its 256-bit word without the opcode bits
[255:246], which the constructor fixes (R127, R128). A command of R412 carries its packet (R401).
An event carries the received symbol, the physical fault or the moment's measurement. -/

namespace Sys2Proof

/-- The three instruction streams of a tile (R120). -/
inductive Stream where
  | F | B | U
  deriving DecidableEq, Repr

/-- Where and when an instruction comes to issue: device tile, stream, and the earliest arithmetic
cycle of the issue (R121; log 6). -/
structure Issue where
  tile   : Fin 64
  stream : Stream
  cycle  : Nat
  deriving DecidableEq, Repr

/-- The three routes on which packets reach the firmware (R408). -/
inductive Route where
  | slot (k : Fin 64)
  | mctp (endpoint : BitVec 8)
  | fabric (src : BitVec 16)
  deriving DecidableEq, Repr

/-- A command packet (R401) as its route delivers it; its opcode is the constructor's. -/
structure Packet where
  route   : Route
  path    : Word
  fireAt  : Word
  tag     : BitVec 32
  flags   : BitVec 16
  payload : List Byte
  deriving DecidableEq, Repr

/-- The outcome of a protected read (R225, R237, R251): the failing or corrected place. -/
inductive ReadFault where
  | clean
  | corrected (addr : BitVec 48)
  | uncorrectable (addr : BitVec 48)
  deriving DecidableEq, Repr

/-- What a vector-unit start meets (R191, R225). -/
inductive VectorFault where
  | clean
  | regCorrected (n : Nat)
  | regDouble (v : Fin 32) (word : Fin 128)
  | spCorrected (addr : BitVec 22)
  | spDouble (addr : BitVec 22)
  deriving DecidableEq, Repr

/-- What the checks of an array instruction find by its drain (R112, R113, R225). -/
inductive DrainCheck where
  | sound
  | residue (member : Fin 4) (array : Fin 4) (column : Fin 64) (index : BitVec 22)
  | parity
  | operandEcc (addr : BitVec 22)
  | operandCorrected (addr : BitVec 22)
  deriving DecidableEq, Repr

/-- The lane of a Withy overflow or drain timeout (R103). -/
structure EdgeLane where
  edge   : Fin 4
  array  : Fin 4
  member : Fin 4
  lane   : Fin 64
  deriving DecidableEq, Repr

/-- The phases in which a ring carries a block (R330, R334, R335, R336, R338). -/
inductive HopPhase where
  | reduce | gather | scaleReturn | sizing | sizingReturn | raw
  deriving DecidableEq, Repr

/-- A block of a collective item on the ring (R332, R337): a Q8 block stands in the low 32 bytes of `p`, a raw unit of R338 fills it.
`block` counts within the half, or names the unit; the first block of a half brings the item header, the last one the trailer's S. -/
structure Hop where
  phase  : HopPhase
  minus  : Bool
  seg    : Nat
  block  : Nat
  number : BitVec 16
  header : Option (BitVec 128)
  p      : BitVec 512
  level  : BitVec 8
  sum    : BitVec 32
  deriving DecidableEq, Repr

/-- A barrier message (R321). -/
structure BarrierMsg where
  tree   : Fin 16
  round  : BitVec 16
  step   : Bool
  second : Bool
  value  : BitVec 128
  deriving DecidableEq, Repr

/-- One strand of one port (R268). -/
structure StrandId where
  port   : Fin 8
  strand : Fin 4
  deriving DecidableEq, Repr

/-- A container: header, payload area and trailer (R284, R285). -/
structure Container where
  header  : BitVec 128
  payload : BitVec 4096
  trailer : BitVec 128
  deriving DecidableEq, Repr

/-- A packet at its destination: container header and payload (R284, R286). -/
structure FabPacket where
  header  : BitVec 128
  payload : BitVec 4096
  deriving DecidableEq, Repr

/-- A routed Q message (R274). -/
structure QMsg where
  dst   : BitVec 16
  src   : BitVec 16
  qtype : BitVec 8
  slice : BitVec 6
  tag   : BitVec 32
  body  : List Byte
  deriving DecidableEq, Repr

/-- What a COMMAND message carries (R370, R408): a packet, the execution of a validated packet at an
epoch, a member's generation report, or a new generation state. -/
inductive CommandMsg where
  | packet (opcode : BitVec 16) (p : Packet)
  | validate (opcode : BitVec 16) (p : Packet)
  | execute (opcode : BitVec 16) (p : Packet)
  | report (gen : BitVec 32) (state : BitVec 8) (failed : BitVec 16)
  | genState (gen : BitVec 32) (state : BitVec 8)
  deriving DecidableEq, Repr

/-- A member's reply to a forwarded packet, its completion, or a member record that the forwarding module writes for it: of
the unit at `member` (R27, R408). -/
structure MemberReply where
  tag     : BitVec 32
  ordinal : Nat
  member  : Option Word
  status  : BitVec 8
  detail  : Word
  result  : List Word
  data    : List Byte
  deriving DecidableEq, Repr

/-- A device event (R403, R417). -/
structure EventBody where
  code : BitVec 16
  cls  : BitVec 8
  path : Word
  body : BitVec 256
  deriving DecidableEq, Repr

/-- A message along a hop list (R296, R297, R300, R301): `pos` hops already taken. -/
structure PathMsg where
  src   : BitVec 16
  dst   : BitVec 16
  slice : BitVec 6
  tag   : BitVec 32
  hops  : List Byte
  pos   : Nat
  vc    : Fin 2 := 0
  deriving DecidableEq, Repr

/-- Where a routed message came in: the port, and the virtual channel whose buffer held it (R276). -/
structure QVia where
  port : Fin 8
  vc   : Fin 2
  deriving DecidableEq, Repr

/-- A circuit's handle: source node and index 4p + k of its first strand (R296). -/
structure Handle where
  node   : BitVec 16
  strand : BitVec 5
  deriving DecidableEq, Repr

/-- A circuit codeword with its CIRCUIT symbol (R298). -/
structure Codeword where
  cseq  : BitVec 32
  valid : BitVec 16
  flags : BitVec 8
  item  : BitVec 32
  crc   : BitVec 32
  data  : List Byte
  deriving DecidableEq, Repr

/-- A quench message (R302). -/
structure QuenchMsg where
  slice     : BitVec 6
  number    : BitVec 16
  origin    : BitVec 16
  dead      : BitVec 16
  deadValid : Bool
  reason    : BitVec 8
  deriving DecidableEq, Repr

/-- A HELLO symbol (R305). -/
structure HelloSym where
  serial : Word
  port   : BitVec 8
  grade  : BitVec 8
  phase  : BitVec 8
  lowest : Word
  hops   : BitVec 16
  deriving DecidableEq, Repr

/-- Torus coordinates (R308). -/
structure Coords where
  x : BitVec 5
  y : BitVec 5
  z : BitVec 5
  w : BitVec 4
  deriving DecidableEq, Repr

/-- Extents on the four axes (R24, R308). -/
structure Extents where
  nx : BitVec 6
  ny : BitVec 6
  nz : BitVec 6
  nw : BitVec 6
  deriving DecidableEq, Repr

/-- A TIME symbol (R343). -/
structure TimeSym where
  stratum : BitVec 8
  tTx     : BitVec 40
  echoTx  : BitVec 40
  echoRx  : BitVec 40
  hi      : BitVec 40
  deriving DecidableEq, Repr

/-- How the programming of an extent ends (R373, R387). -/
inductive ExtentEnd where
  | programmed | sourceEcc (a : BitVec 48) | noSpace
  deriving DecidableEq, Repr

/-- A mirror extent that the buddy has received whole over the circuit (R376): its generation and index, whether it is the manifest,
and the digest of the sender's manifest entry. -/
structure MirrorExtent where
  gen    : BitVec 32
  index  : Nat
  last   : Bool
  digest : BitVec 512
  deriving DecidableEq, Repr

/-- A flash block (R354). -/
structure BlockId where
  channel : Fin 32
  die     : Fin 4
  plane   : Fin 4
  block   : Fin 2732
  deriving DecidableEq, Repr

/-- An error in the tag of a cache line (R237): the set and the way, and whether it is a double-bit error. -/
structure TagError where
  set    : Fin 16384
  way    : Fin 80
  double : Bool
  deriving DecidableEq, Repr

/-- A row repair of one pseudo-channel (R255, R256): the row, which of its 16 lines could not be corrected, and whether the stack
still has a spare row. -/
structure RowRepair where
  pc       : Fin 64
  row      : BitVec 20
  lost     : BitVec 16
  spare    : Bool
  deriving DecidableEq, Repr

/-- Who reads an HBM line (R253). -/
inductive HbmReader where
  | dma (t : Fin 64) (st : Stream) (seq : BitVec 32)
  | fetch (t : Fin 64) (st : Stream)
  | collective (ax : Fin 4) (ch : Fin 8)
  | hamper
  | host (txid : BitVec 12)
  deriving DecidableEq, Repr

/-- A unit of the march engines (R239). -/
inductive MarchUnit where
  | tile (t : Fin 64)
  | llm (sl : Fin 16)
  deriving DecidableEq, Repr

/-- A failing row of a bank; `tag` for a tag array (R239, R242). -/
structure BankRow where
  bank : Fin 32
  row  : BitVec 13
  tag  : Bool
  deriving DecidableEq, Repr

/-- A host request over the Vorkiux Link (R392). -/
structure HostReq where
  txid   : BitVec 12
  addr   : BitVec 52
  len    : Fin 64
  poison : Bool
  deriving DecidableEq, Repr

/-- A host response over the Vorkiux Link (R392, R396). -/
structure HostRsp where
  txid   : BitVec 12
  resp   : BitVec 4
  poison : Bool
  state  : BitVec 2
  deriving DecidableEq, Repr

/-- Failing causes of start-up phase 1 (R425). -/
inductive PhaseOneFault where
  | inputRange
  | rail (n : BitVec 4)
  deriving DecidableEq, Repr

/-- How the Vorkiux Link trains (R389, R398). -/
structure LinkTrain where
  ok    : Bool
  speed : BitVec 8
  lanes : BitVec 8
  deriving DecidableEq, Repr

/-- How a CXL link trains and what it finds (R260, R266): capacity in 256 MiB units. -/
structure CxlDevice where
  link     : Fin 4
  ok       : Bool
  capacity : Nat
  lanes    : BitVec 8
  speed    : BitVec 8
  deriving DecidableEq, Repr

/-- How a fabric port trains (R268, R303, R309). -/
structure PortTrain where
  port    : Fin 8
  trained : Bool
  failed  : BitVec 4
  txSpare : BitVec 5
  rxSpare : BitVec 5
  deriving DecidableEq, Repr

/-- Readings of the power and thermal sensors (R446, R454). -/
structure Sensors where
  tj     : BitVec 8
  inlet  : BitVec 8
  pin10  : BitVec 16
  pin100 : BitVec 16
  vin    : BitVec 16
  deriving DecidableEq, Repr

/-- The commands of the CT-1, in the order of spec/opcode_table.json, but that `illegalOpcode` stands with the other
tile instructions. -/
inductive Instr where
  /-- NOP (R134): Sequencer instruction with no effect. -/
  | nop (i : Issue) (w : BitVec 246)
  /-- END (R134): Stream reaches its end and issues no further instruction. -/
  | endStream (i : Issue) (w : BitVec 246)
  /-- JMP (R126): Jump to an absolute aligned instruction address. -/
  | jmp (i : Issue) (w : BitVec 246)
  /-- BNZ (R126): Jump when a scalar register is non-zero. -/
  | bnz (i : Issue) (w : BitVec 246)
  /-- LOOP (R125): Repeat the next L instructions c times, up to four nesting levels. -/
  | loop (i : Issue) (w : BitVec 246)
  /-- SLI (R134): Load a 64-bit immediate into a scalar register. -/
  | sli (i : Issue) (w : BitVec 246)
  /-- ALI (R134): Load a 48-bit immediate into an address register. -/
  | ali (i : Issue) (w : BitVec 246)
  /-- SOP (R134): Scalar ALU operation on registers or an immediate. -/
  | sop (i : Issue) (w : BitVec 246)
  /-- AADD (R134): Add to an address register modulo 2^48. -/
  | aadd (i : Issue) (w : BitVec 246)
  /-- SLD (R134): Load 8 scratchpad bytes into a scalar register as a consumer. -/
  | sld (i : Issue) (w : BitVec 246)
  /-- SST (R134): Store a scalar register to 8 scratchpad bytes as a producer. -/
  | sst (i : Issue) (w : BitVec 246)
  /-- NUTSET (R135): Set the stream's Nutmeg step and element counters. -/
  | nutset (i : Issue) (w : BitVec 246)
  /-- SEALSET (R135): Set the seals of a page range, acting as producer. -/
  | sealset (i : Issue) (w : BitVec 246)
  /-- WAIT (R311): Stall the stream head until a counter reaches a threshold, optionally acquiring or releasing shared grants. -/
  | wait (i : Issue) (w : BitVec 246)
  /-- WAIT_SATISFIED (R311): A waiting WAIT completes when its counter reaches the threshold and its named units are free, subtracting the threshold. -/
  | waitSatisfied (t : Fin 64) (st : Stream)
  /-- SIGNAL (R136): Add an increment to a tile, cluster, die or peer-tile counter. -/
  | signal (i : Issue) (w : BitVec 246)
  /-- SIGNAL_ARRIVAL (R312): A cluster, die or peer-tile signal takes effect at its counter after its latency, or halts the signaller on overflow. -/
  | signalArrival (t : Fin 64) (st : Stream)
  /-- ARRIVE (R317): Arrive on a barrier tree, optionally with a 128-bit payload, holding or signalling on release. -/
  | arrive (i : Issue) (w : BitVec 246)
  /-- SLOT (R144): Move the stream to a named slot-map phase, releasing grants the phase does not give. -/
  | slot (i : Issue) (w : BitVec 246)
  /-- DMA (R138): Queue one DMA descriptor as a work item. -/
  | dma (i : Issue) (w : BitVec 246)
  /-- DMA_DESCRIPTOR_START (R138): The DMA engine starts the next queued descriptor in issue order, up to four at once. -/
  | dmaDescriptorStart (t : Fin 64)
  /-- DMA_COMPLETE (R138): A descriptor completes DONE or FAILED when its last byte is written or a failure ends it. -/
  | dmaComplete (t : Fin 64) (st : Stream) (seq : BitVec 32) (e : ReadFault)
  /-- MMA (R139): Issue an array instruction in block, panel or reference mode. -/
  | mma (i : Issue) (w : BitVec 246)
  /-- MMA_COUT_COMPLETE (R142): A continued chain instruction completes when cell (63,63) folds its last block. -/
  | mmaCoutComplete (t : Fin 64) (st : Stream) (seq : BitVec 32) (c : DrainCheck)
  /-- MMA_DRAIN_COMPLETE (R98): The drain writes the last output row, stamps output seals and writes the completion record. -/
  | mmaDrainComplete (t : Fin 64) (st : Stream) (seq : BitVec 32) (c : DrainCheck)
  /-- FENCED_REISSUE (R114): After the ledger drains, the firmware enters fenced mode, reissues failed items in issue order and resumes the streams. -/
  | fencedReissue (t : Fin 64)
  /-- WITHY_OVERFLOW (R103): A feeder writes into a full Withy buffer after 16 lost cycles and halts all three streams. -/
  | withyOverflow (t : Fin 64) (st : Stream) (seq : BitVec 32)
  /-- DRAIN_TIMEOUT (R105): An array or composer holds undeliverable results for 4,096 cycles and halts the tile. -/
  | drainTimeout (t : Fin 64) (st : Stream) (seq : BitVec 32) (at_ : EdgeLane)
  /-- STREAM_WATCHDOG (R157): A stream waits longer than the watchdog limit and the tile halts with WATCHDOG. -/
  | streamWatchdog (t : Fin 64) (st : Stream)
  /-- CONTEXT_SWITCH (R32): A switchable context is saved and the next runnable context in program tile order is restored. -/
  | contextSwitch (t : Fin 64)
  /-- CONTEXT_TAKE_UP (R32): An idling tile takes up the first carried context that becomes able to run. -/
  | contextTakeUp (t : Fin 64)
  /-- FETCH_LINE_ARRIVAL (R124): A refilled instruction line arrives in the stream's instruction buffer, ending any fetch bubble. -/
  | fetchLineArrival (t : Fin 64) (st : Stream) (line : BitVec 42)
  /-- VLD (R174): Load lanes from the scratchpad into a vector register. -/
  | vld (i : Issue) (w : BitVec 246)
  /-- VST (R174): Store vector lanes to the scratchpad as a producer. -/
  | vst (i : Issue) (w : BitVec 246)
  /-- VCVTL (R176): Convert a stored operand into vector lanes. -/
  | vcvtl (i : Issue) (w : BitVec 246)
  /-- VCVTS (R176): Convert vector lanes into a stored operand, deriving or taking block exponents. -/
  | vcvts (i : Issue) (w : BitVec 246)
  /-- VCVT (R176): Convert between two lane formats. -/
  | vcvt (i : Issue) (w : BitVec 246)
  /-- VADD (R173): Wrapping integer lane addition. -/
  | vadd (i : Issue) (w : BitVec 246)
  /-- VSUB (R173): Wrapping integer lane subtraction. -/
  | vsub (i : Issue) (w : BitVec 246)
  /-- VADDS (R177): Saturating integer lane addition. -/
  | vadds (i : Issue) (w : BitVec 246)
  /-- VSUBS (R177): Saturating integer lane subtraction. -/
  | vsubs (i : Issue) (w : BitVec 246)
  /-- VMUL (R173): Wrapping integer lane multiplication. -/
  | vmul (i : Issue) (w : BitVec 246)
  /-- VMULH (R177): Rounded, shifted and saturated integer product. -/
  | vmulh (i : Issue) (w : BitVec 246)
  /-- VSRS (R177): Rounding right shift of integer lanes. -/
  | vsrs (i : Issue) (w : BitVec 246)
  /-- VSRN (R177): Rounding right shift narrowing to half width with saturation. -/
  | vsrn (i : Issue) (w : BitVec 246)
  /-- VSHLS (R177): Saturating left shift of integer lanes. -/
  | vshls (i : Issue) (w : BitVec 246)
  /-- VWID (R177): Widen integer lanes to double width. -/
  | vwid (i : Issue) (w : BitVec 246)
  /-- VMIN (R173): Signed or unsigned integer minimum. -/
  | vmin (i : Issue) (w : BitVec 246)
  /-- VMAX (R173): Signed or unsigned integer maximum. -/
  | vmax (i : Issue) (w : BitVec 246)
  /-- VAND (R173): Bitwise and of lanes. -/
  | vand (i : Issue) (w : BitVec 246)
  /-- VOR (R173): Bitwise or of lanes. -/
  | vor (i : Issue) (w : BitVec 246)
  /-- VXOR (R173): Bitwise exclusive or of lanes. -/
  | vxor (i : Issue) (w : BitVec 246)
  /-- VCMPLT (R173): Lane-wise less-than comparison mask. -/
  | vcmplt (i : Issue) (w : BitVec 246)
  /-- VCMPEQ (R173): Lane-wise equality comparison mask. -/
  | vcmpeq (i : Issue) (w : BitVec 246)
  /-- VSEL (R165): Select lanes from two registers under a mask. -/
  | vsel (i : Issue) (w : BitVec 246)
  /-- VBCAST (R173): Broadcast an immediate or scalar register to lanes. -/
  | vbcast (i : Issue) (w : BitVec 246)
  /-- VMOV (R165): Copy lanes between registers. -/
  | vmov (i : Issue) (w : BitVec 246)
  /-- VABSS (R177): Saturating absolute value of signed lanes. -/
  | vabss (i : Issue) (w : BitVec 246)
  /-- VNEGS (R177): Saturating negation of signed lanes. -/
  | vnegs (i : Issue) (w : BitVec 246)
  /-- VFADD (R180): Floating-point lane addition with one rounding. -/
  | vfadd (i : Issue) (w : BitVec 246)
  /-- VFSUB (R180): Floating-point lane subtraction with one rounding. -/
  | vfsub (i : Issue) (w : BitVec 246)
  /-- VFMUL (R180): Floating-point lane multiplication with one rounding. -/
  | vfmul (i : Issue) (w : BitVec 246)
  /-- VFMA (R180): Fused multiply-add with one rounding. -/
  | vfma (i : Issue) (w : BitVec 246)
  /-- VFNMA (R180): Negated fused multiply-add with one rounding. -/
  | vfnma (i : Issue) (w : BitVec 246)
  /-- VFDIV (R180): Floating-point lane division. -/
  | vfdiv (i : Issue) (w : BitVec 246)
  /-- VFSQRT (R180): Floating-point lane square root. -/
  | vfsqrt (i : Issue) (w : BitVec 246)
  /-- VFMIN (R181): Floating-point lane minimum. -/
  | vfmin (i : Issue) (w : BitVec 246)
  /-- VFMAX (R181): Floating-point lane maximum. -/
  | vfmax (i : Issue) (w : BitVec 246)
  /-- VFSCALE (R182): Multiply lanes by a power of two with one rounding. -/
  | vfscale (i : Issue) (w : BitVec 246)
  /-- VRSUM (R183): Exact sum of lanes into a 128-bit accumulator. -/
  | vrsum (i : Issue) (w : BitVec 246)
  /-- VRSSQ (R183): Exact sum of squares into a 128-bit accumulator. -/
  | vrssq (i : Issue) (w : BitVec 246)
  /-- VRDOT (R183): Exact dot product into a 128-bit accumulator. -/
  | vrdot (i : Issue) (w : BitVec 246)
  /-- VRAMAX (R185): Running largest magnitude in lane 0. -/
  | vramax (i : Issue) (w : BitVec 246)
  /-- VPEXP (R186): Running panel exponent over a chunk. -/
  | vpexp (i : Issue) (w : BitVec 246)
  /-- VPSLICE (R187): Cut a panel chunk into slice or class bytes. -/
  | vpslice (i : Issue) (w : BitVec 246)
  /-- VPHDR (R188): Write a panel header word into a lane. -/
  | vphdr (i : Issue) (w : BitVec 246)
  /-- VECTOR_START (R168): A queued vector-unit instruction starts on the datapath after its predecessor's occupancy. -/
  | vectorStart (t : Fin 64) (lost : Nat) (e : VectorFault)
  /-- VECTOR_COMPLETE (R169): A vector-unit instruction completes, writing its record, seal and completion signal. -/
  | vectorComplete (t : Fin 64)
  /-- TLAYER (R204): Set the stream's layer tag and block base. -/
  | tlayer (i : Issue) (w : BitVec 246)
  /-- RCMP (R215): Open or close a recompute window on the stream's Nutmeg draws. -/
  | rcmp (i : Issue) (w : BitVec 246)
  /-- NPACK (R209): Pack a stored exact accumulator as a 128-bit barrier payload or overflow token. -/
  | npack (i : Issue) (w : BitVec 246)
  /-- NCLIP (R210): Derive the global-norm clip factor from the slice sum. -/
  | nclip (i : Issue) (w : BitVec 246)
  /-- SOPEN (R214): Open a FREE sample slot into FORWARD with its cursor and tag. -/
  | sopen (i : Issue) (w : BitVec 246)
  /-- SSTEP (R214): Advance a sample slot between FORWARD, HELD, BACKWARD and FREE. -/
  | sstep (i : Issue) (w : BitVec 246)
  /-- SKADDR (R214): Give the HBM address of a keep entry for a sample slot. -/
  | skaddr (i : Issue) (w : BitVec 246)
  /-- TUPD (R200): Apply the exact stochastically rounded weight update and accumulate Clove statistics. -/
  | tupd (i : Issue) (w : BitVec 246)
  /-- TCLOSE (R202): Close a layer record's step, set alarms and adjust the learning-rate exponent. -/
  | tclose (i : Issue) (w : BitVec 246)
  /-- TRECRD (R195): Copy a layer record to the scratchpad. -/
  | trecrd (i : Issue) (w : BitVec 246)
  /-- TRECWR (R199): Write words 0 and 1 of a layer record from the scratchpad. -/
  | trecwr (i : Issue) (w : BitVec 246)
  /-- TSCALE (R207): Raise the scales of blocks that overflowed this step and mark their log entries applied. -/
  | tscale (i : Issue) (w : BitVec 246)
  /-- CRS (R330): Q8 reduce-scatter on an axis collective channel. -/
  | crs (i : Issue) (w : BitVec 246)
  /-- CAR (R330): Q8 all-reduce on an axis collective channel. -/
  | car (i : Issue) (w : BitVec 246)
  /-- CAG (R338): All-gather of raw bytes around a ring. -/
  | cag (i : Issue) (w : BitVec 246)
  /-- CXCH (R338): Neighbour exchange of raw bytes. -/
  | cxch (i : Issue) (w : BitVec 246)
  /-- FPUT (R340): Write packets to a remote node. -/
  | fput (i : Issue) (w : BitVec 246)
  /-- FGET (R340): Read from a remote node with READ packets. -/
  | fget (i : Issue) (w : BitVec 246)
  /-- FSIG (R340): Send a SIGNAL packet to a remote counter. -/
  | fsig (i : Issue) (w : BitVec 246)
  /-- ILLEGAL_OPCODE (R128): An instruction word whose opcode is unassigned reaches issue and halts the tile with ILLEGAL_OPCODE. -/
  | illegalOpcode (i : Issue) (w : BitVec 256)
  /-- COLLECTIVE_ITEM_START (R329): A channel item starts after its predecessor's last byte, or at its epoch, else fails late. -/
  | collectiveItemStart (ax : Fin 4) (ch : Fin 8)
  /-- COLLECTIVE_HOP (R332): A member combines a received partial block with its own contribution and forwards it. -/
  | collectiveHop (ax : Fin 4) (ch : Fin 8)
  /-- COLLECTIVE_ITEM_COMPLETE (R339): An item completes DONE when its result is written and acknowledged, or FAILED. -/
  | collectiveItemComplete (ax : Fin 4) (ch : Fin 8)
  /-- COLLECTIVE_TIMEOUT (R339): No byte of an item is received for CE.TIMEOUT.limit and the item fails with WATCHDOG. -/
  | collectiveTimeout (ax : Fin 4) (ch : Fin 8)
  /-- BARRIER_UP (R318): A child's UP message adds its sum and may complete the round at this module. -/
  | barrierUp (port : Fin 8) (m : BarrierMsg)
  /-- BARRIER_DOWN (R318): A DOWN message releases the round locally and is forwarded to children. -/
  | barrierDown (port : Fin 8) (m : BarrierMsg)
  /-- BARRIER_UP_REPEAT (R322): A module that sent UP repeats it every 2 µs until it releases the round. -/
  | barrierUpRepeat (tree : Fin 16)
  /-- ROUTING_CYCLE (R289): Each of 32 routing cycles per 140 ns frame ejects, routes, injects and replays containers. -/
  | routingCycle (k : Fin 32)
  /-- CONTAINER_ARRIVAL (R290): A container arrives on a strand, its CRC and lseq are checked and acks and naks are taken. -/
  | containerArrival (l : StrandId) (first : BitVec 32) (cws : List (List Byte)) (off : Nat)
  /-- NAK_REPEAT (R290): A gap still missing after 4 frames is named again in nak_seq. -/
  | nakRepeat (l : StrandId)
  /-- REPLAY_PENDING_TIMEOUT (R290): A replay copy pending for 64 frames, or a full replay buffer, fails the strand. -/
  | replayPendingTimeout (l : StrandId)
  /-- PACKET_WRITE (R286): A WRITE packet accepted at its destination writes its payload. -/
  | packetWrite (p : FabPacket)
  /-- PACKET_SIGNAL (R286): A SIGNAL packet adds its increment to a counter, or bounces. -/
  | packetSignal (p : FabPacket)
  /-- PACKET_READ (R286): A READ packet reads its length and returns READ_DATA packets. -/
  | packetRead (p : FabPacket)
  /-- PACKET_READ_DATA (R286): A READ_DATA packet is written at the requester. -/
  | packetReadData (p : FabPacket)
  /-- PACKET_MESSAGE (R286): A MESSAGE packet is placed in the destination firmware's queue. -/
  | packetMessage (p : FabPacket)
  /-- PACKET_ACK (R294): An ACK packet advances the source's acknowledged sequence and may complete items. -/
  | packetAck (p : FabPacket)
  /-- PACKET_BOUNCE (R295): A BOUNCE packet fails the sending item. -/
  | packetBounce (p : FabPacket)
  /-- PACKET_RESERVED_TYPE (R286): A packet of a reserved type is discarded, counted and raises a link event. -/
  | packetReservedType (p : FabPacket)
  /-- ACK_SEND (R294): A destination sends an ACK after 32 acceptances or 1 µs since the first unacknowledged one. -/
  | ackSend (src : BitVec 16)
  /-- FAB_ACK_TIMEOUT (R294): An item without a covering ACK within the limit fails with WATCHDOG and raises a fabric event. -/
  | fabAckTimeout (item : Nat)
  /-- Q_MESSAGE_FORWARD (R276): A routed Q message received whole at an intermediate router is forwarded by dimension order or hop list under credits. -/
  | qMessageForward (port : Fin 8) (vc : Fin 2) (m : QMsg)
  /-- RESERVED_CONTROL_SYMBOL (R273): A control symbol of a reserved kind is ignored and counted. -/
  | reservedControlSymbol (port : Fin 8) (kind : BitVec 8)
  /-- LINK_CREDIT (R276): A LINK credit symbol returns message buffer credits for a virtual channel. -/
  | linkCredit (port : Fin 8) (vc : Fin 2) (n : BitVec 8)
  /-- LINK_TABLE (R281): A LINK table symbol compares the neighbour's strand entry with the local one. -/
  | linkTable (l : StrandId) (entry : BitVec 16)
  /-- LINK_TABLE_TIMER (R275): Every 1 µs each strand's table entry is sent in a LINK table symbol. -/
  | linkTableTimer (l : StrandId)
  /-- LINK_MODE_CHANGE (R282): A LINK mode change proposes or confirms a strand mode change at frame F. -/
  | linkModeChange (l : StrandId) (entry : BitVec 16) (frame : BitVec 32)
  /-- MODE_CHANGE_FRAME (R282): At the end of frame F+3 pending replays move to the reroute queue and the strand takes its new entry. -/
  | modeChangeFrame (l : StrandId)
  /-- MODE_CHANGE_ABANDON (R282): A mode change not confirmed within 4 frames is abandoned and its command fails. -/
  | modeChangeAbandon (l : StrandId)
  /-- LINK_SPARE_REQUEST (R303): The transmitter repeats the named lane on the spare and sends a spare switch. -/
  | linkSpareRequest (port : Fin 8) (lane : Fin 16)
  /-- LINK_SPARE_SWITCH (R303): The receiver takes the lane from physical lane 16 from the named codeword. -/
  | linkSpareSwitch (port : Fin 8) (lane : Fin 16) (cw : BitVec 32)
  /-- LINK_STRAND_FAILED (R304): A peer's strand-failed notice sets the failed bit and stops use of the strand. -/
  | linkStrandFailed (l : StrandId)
  /-- LANE_LOSS_OF_LOCK (R303): A lane losing lock starts sparing, or fails its strand if sparing is spent. -/
  | laneLossOfLock (port : Fin 8) (lane : Fin 16)
  /-- LANE_ERROR_RATE (R303): A lane exceeding the corrected-byte rate over 1 s starts sparing. -/
  | laneErrorRate (port : Fin 8) (lane : Fin 16)
  /-- FABRIC_LINK_DOWN (R302): Loss of a module's links leads its neighbours to declare it dead and quench its slice. -/
  | fabricLinkDown (port : Fin 8) (dead : Bool)
  /-- COMMAND_MSG (R408): A COMMAND Q message delivers a command packet, execute message or state report to this module. -/
  | commandMsg (via : QVia) (src : BitVec 16) (m : CommandMsg)
  /-- REPLY_MSG (R408): A REPLY Q message carries a member's reply or result to the forwarding module. -/
  | replyMsg (via : QVia) (src : BitVec 16) (r : MemberReply)
  /-- MEMBER_REPLY_TIMEOUT (R27): A member silent past the member-reply timeout is recorded FAILED. -/
  | memberReplyTimeout (tag : BitVec 32)
  /-- EVENT_MSG (R277): A forwarded device event is taken toward the anchor. -/
  | eventMsg (via : QVia) (src : BitVec 16) (slice : BitVec 6) (e : EventBody)
  /-- CIRCUIT_SETUP (R297): A module checks and tentatively reserves its hop and forwards the setup. -/
  | circuitSetup (l : StrandId) (m : PathMsg)
  /-- CIRCUIT_READY (R297): The source learns the circuit is open and completes the open command. -/
  | circuitReady (via : QVia) (tag : BitVec 32)
  /-- CIRCUIT_FAIL (R297): The source sends a release along the path and fails the open command. -/
  | circuitFail (via : QVia) (tag : BitVec 32) (hop : BitVec 8) (cause : BitVec 8)
  /-- CIRCUIT_RELEASE (R297): Each module on the path clears its reservations for the circuit. -/
  | circuitRelease (l : StrandId) (m : PathMsg)
  /-- CIRCUIT_SETUP_TIMEOUT (R297): A setup with no reply within 1 ms fails with cause 6. -/
  | circuitSetupTimeout (tag : BitVec 32)
  /-- CIRCUIT_CODEWORD (R299): The destination decodes a circuit codeword and hands it in cseq order or discards until retransmission. -/
  | circuitCodeword (l : StrandId) (cw : List Byte)
  /-- CIRCUIT_ACK (R299): The source frees acknowledged codewords, goes back on a negative acknowledgement and completes covered items. -/
  | circuitAck (via : QVia) (h : Handle) (cum : BitVec 32) (nak : Option (BitVec 32))
  /-- CIRCUIT_ACK_TIMER (R299): The destination sends CIRCUIT_ACK every 64 codewords or 1 µs. -/
  | circuitAckTimer (h : Handle)
  /-- CIRCUIT_NAK_REPEAT (R299): A negative acknowledgement is repeated after 10 µs without the retransmission. -/
  | circuitNakRepeat (h : Handle)
  /-- CIRCUIT_BROKEN (R300): An end of a broken circuit fails its bound uncovered items and releases reservations. -/
  | circuitBroken (via : QVia) (h : Handle)
  /-- TRANSIT_SET (R301): Each link on the hop list changes the named strand to transit mode for the passing slice. -/
  | transitSet (l : StrandId) (m : PathMsg)
  /-- QUENCH_MSG (R302): A following quench number is adopted, the dead list updated, traffic held and the message flooded. -/
  | quenchMsg (port : Fin 8) (q : QuenchMsg)
  /-- UNQUENCH_MSG (R302): An unquench with the current number lifts the quench and floods. -/
  | unquenchMsg (port : Fin 8) (slice : BitVec 6) (number : BitVec 16)
  /-- UNASSIGNED_QTYPE (R277): A Q message of an unassigned type is ignored and counted. -/
  | unassignedQtype (port : Fin 8) (vc : Option (Fin 2)) (q : BitVec 8)
  /-- HELLO (R305): A HELLO symbol updates the lowest known serial and checks cabling. -/
  | hello (port : Fin 8) (m : HelloSym)
  /-- HELLO_TIMER (R305): Every 1 µs each trained port sends HELLO. -/
  | helloTimer (port : Fin 8)
  /-- DISCOVERY_ELECTION (R306): With no change for 100 µs the module holding the lowest serial becomes root and starts sizing. -/
  | discoveryElection
  /-- RING_PROBE (R306): A ring probe is counted and forwarded, or returns to the root with the axis extent. -/
  | ringProbe (port : Fin 8) (count : BitVec 8)
  /-- COORD (R306): A module takes its coordinates from the first COORD, checks later ones and sends its own. -/
  | coord (port : Fin 8) (c : Coords) (n : Extents)
  /-- DISC_DONE (R306): Discovery completion floods from the root. -/
  | discDone (port : Fin 8)
  /-- DISCOVERY_TIMEOUT (R306): No discovery completion within the timeout fails phase 8. -/
  | discoveryTimeout
  /-- TIME_SYMBOL (R344): A follower computes offset and delay from its upstream TIME symbol and steps or slews. -/
  | timeSymbol (port : Fin 8) (m : TimeSym) (r : BitVec 40)
  /-- TIME_SYMBOL_TIMER (R343): Every 1 µs each trained port sends a TIME symbol. -/
  | timeSymbolTimer (port : Fin 8)
  /-- PPS_IN_EDGE (R342): A PPS rising edge makes the module a master and steers its counter to the second. -/
  | ppsInEdge
  /-- PPS_LOSS (R342): No PPS edge for 2 s ends master status. -/
  | ppsLoss
  /-- HOLDOVER_ENTRY (R345): No valid upstream for 10 µs and no PPS puts the module in holdover. -/
  | holdoverEntry
  /-- DRIFT (R345): After 400 ms of holdover the drift bit is set and a time event raised. -/
  | drift
  /-- PPS_OUT_PULSE (R444): PPS_OUT pulses at each whole second of the counter while locked. -/
  | ppsOutPulse
  /-- EPOCH_QUEUE_ACT (R346): A pending epoch-queue entry acts when the counter reaches its epoch, or completes WRONG_STATE. -/
  | epochQueueAct
  /-- CHECKPOINT_WRITE_START (R373): Once in-flight items complete in CHECKPOINT, the controller appends GEN_BEGIN and starts writing extents. -/
  | checkpointWriteStart
  /-- EXTENT_COMMIT (R373): An extent whose pages and parity are programmed gets EXT_COMMIT, or fails. -/
  | extentCommit (e : ExtentEnd)
  /-- MIRROR_START (R376): After GEN_LOCAL the firmware opens a circuit to the buddy and sends committed extents. -/
  | mirrorStart
  /-- MIRROR_CIRCUIT_RETRY (R376): A busy mirror circuit open is retried every 10 ms. -/
  | mirrorCircuitRetry
  /-- MIRROR_TIMEOUT (R376): The mirror timeout passes and the copy becomes MIRROR_FAILED. -/
  | mirrorTimeout
  /-- MIRROR_EXTENT_RECEIVE (R376): The buddy programs a received extent and checks its digest. -/
  | mirrorExtentReceive (m : MirrorExtent)
  /-- PAGE_READ_COMPLETE (R358): A page read climbs the decode ladder and passes, rebuilds or is lost. -/
  | pageReadComplete (b : BlockId) (page : Fin 768) (step : Fin 13)
  /-- PROGRAM_OR_ERASE_FAIL (R359): A failed program or erase makes the block grown bad, rewrites its data and retires it. -/
  | programOrEraseFail (b : BlockId)
  /-- FOLD (R364): Background folding copies full pSLC blocks into TLC and erases them. -/
  | fold
  /-- REFRESH_CHECK (R362): Hourly, and at first lock after power-on, aged blocks join the refresh list. -/
  | refreshCheck
  /-- BLOCK_REFRESH (R362): A listed block's valid pages are rewritten and the old block erased. -/
  | blockRefresh
  /-- WEAR_LEVEL_MOVE (R360): At most once a second the least-worn full TLC block is moved when wear spread exceeds 2,000. -/
  | wearLevelMove
  /-- JOURNAL_COMPACTION (R378): A three-quarters full chain rewrites live records, writes SUMMARY and erases old blocks. -/
  | journalCompaction
  /-- RESTORE_EXTENT_READ (R382): A restored extent is read and digest-checked, falling back to the buddy copy. -/
  | restoreExtentRead (lost : Bool) (buddy : Option (List Byte))
  /-- RESTORE_COMPLETE (R382): When every member finishes, each enters PAUSED at the generation's step boundary. -/
  | restoreComplete
  /-- EXPORT_EXTENT (R383): The export writes the manifest and each extent in order to the destination. -/
  | exportExtent (lost : Bool)
  /-- TILE_PATROL_SCRUB (R226): Every interval each bank's next scratchpad word is scrubbed. -/
  | tilePatrolScrub (t : Fin 64) (bank : Fin 32) (e : ReadFault)
  /-- LLM_PATROL_SCRUB (R238): Every interval each LLM bank's next word and tags are scrubbed. -/
  | llmPatrolScrub (sl : Fin 16) (bank : Fin 32) (e : ReadFault) (tag : Option TagError)
  /-- HBM_PATROL_SCRUB (R254): Each stack reads its next line in P3 for the scrub pass. -/
  | hbmPatrolScrub (k : Fin 8) (bad : Fin 73) (ondie : Nat)
  /-- SP_CORRECTED_WRITEBACK (R225): A corrected scratchpad word is written back in the bank's next idle cycle. -/
  | spCorrectedWriteback (t : Fin 64)
  /-- HBM_CORRECTED_WRITEBACK (R253): A corrected HBM line is written back in P3 unless a write is queued. -/
  | hbmCorrectedWriteback (k : Fin 8)
  /-- HBM_ROW_REPAIR (R255): A repair candidate row is held, copied, soft-repaired and written back. -/
  | hbmRowRepair (k : Fin 8) (r : RowRepair)
  /-- HBM_SLOT_GRANT (R249): Each pseudo-channel slot is granted to a class by cap and weights. -/
  | hbmSlotGrant (ch : Fin 516) (busy : List (BitVec 42))
  /-- HBM_READ_COMPLETE (R253): An HBM read returns corrected data, or fails on an uncorrectable error or poison. -/
  | hbmReadComplete (line : BitVec 42) (bad : Fin 73) (ondie : Nat) (reader : HbmReader)
  /-- LLM_WRITEBACK_COMPLETE (R234): A dirty line's write-back completes, freeing a way for a held requester. -/
  | llmWritebackComplete (sl : Fin 16) (line : BitVec 42)
  /-- LLM_MODE_CHANGE_DONE (R230): A way-group's write-back and zero fill end and the mode change completes. -/
  | llmModeChangeDone
  /-- MARCH_COMPLETE (R241): A march run ends, repairing failing rows or marking them unrepairable. -/
  | marchComplete (u : MarchUnit) (failing : List BankRow)
  /-- CXL_RESPONSE (R263): A far-tier response returns data or poison to the requester. -/
  | cxlResponse (line : BitVec 42) (poison : Bool) (retries : Nat)
  /-- CXL_REQUEST_TIMEOUT (R263): A far-tier request without response takes its link down and fails its items. -/
  | cxlRequestTimeout (link : Fin 4)
  /-- FLIT_RECEIVED (R391): A Vorkiux flit is decoded, acked, credited or discarded with a nak. -/
  | flitReceived (f : BitVec 2048) (fecOk : Bool)
  /-- VKX_RETRAIN (R391): Eight naks or loss of lock retrain the link; three failures take it down. -/
  | vkxRetrain
  /-- VKX_REQUEST_TIMEOUT (R397): A request without response within VKX.TIMEOUT starts a retrain. -/
  | vkxRequestTimeout (txid : BitVec 12)
  /-- VKX_DOWN_RETRAIN_TIMER (R397): While the link is down the CT-1 retrains once per second. -/
  | vkxDownRetrainTimer
  /-- RD_UC (R393): Uncached host read of 1 to 64 bytes. -/
  | rdUc (m : HostReq)
  /-- RD_S (R394): Host reads a device line for a shared copy. -/
  | rdS (m : HostReq)
  /-- RD_X (R394): Host reads a device line for an exclusive copy. -/
  | rdX (m : HostReq)
  /-- WR_UC (R393): Uncached host write of 1 to 64 bytes. -/
  | wrUc (m : HostReq) (d : BitVec 512)
  /-- WR_LINE (R393): Host writes a whole line, invalidating cached copies. -/
  | wrLine (m : HostReq) (d : BitVec 512)
  /-- WB (R395): Host writes back a modified line and drops it. -/
  | wb (m : HostReq) (d : BitVec 512)
  /-- EVICT (R394): Host drops a clean copy. -/
  | evict (m : HostReq)
  /-- SNP_INV (R394): Host snoop invalidates a line in the CT-1 host-line cache. -/
  | snpInv (m : HostReq)
  /-- SNP_SH (R394): Host snoop demotes a line in the CT-1 host-line cache to shared. -/
  | snpSh (m : HostReq)
  /-- CMP (R395): Completion of a CT-1 write to host memory. -/
  | cmp (m : HostRsp)
  /-- SNP_ACK (R394): Host answers a device snoop without data. -/
  | snpAck (m : HostRsp)
  /-- DATA (R393): Host returns read data to the CT-1. -/
  | data (m : HostRsp) (d : BitVec 512)
  /-- SNP_DATA (R395): Host returns modified data for a device snoop. -/
  | snpData (m : HostRsp) (d : BitVec 512)
  /-- COMMAND_SLOT_TAKE (R400): A command slot whose word 3 became non-zero is taken, copied and checked. -/
  | commandSlotTake (k : Fin 64)
  /-- RING_ENTRY_WRITE (R403): A queued completion, member record or event is written when the ring has room. -/
  | ringEntryWrite
  /-- RING_HEAD_ADVANCE (R403): The host's ring head write frees ring positions. -/
  | ringHeadAdvance (head : BitVec 64)
  /-- STATUS_COPY (R404): DIE.STATUS is copied to the window at each change, at most once per microsecond. -/
  | statusCopy
  /-- MCTP_MESSAGE (R408): A vendor MCTP message delivers a command from the management controller. -/
  | mctpMessage (ep : BitVec 8) (bytes : List Byte)
  /-- DEV_INFO (R412): Return grade, serial and versions. -/
  | devInfo (p : Packet)
  /-- DEV_STATUS (R412): Return DIE.STATUS. -/
  | devStatus (p : Packet)
  /-- DEV_RESET (R428): Reset the module warm, to SAFE, or by firmware restart. -/
  | devReset (p : Packet)
  /-- FAULT_CLEAR (R412): Return a faulted module to LOADED and clear the ledger report. -/
  | faultClear (p : Packet)
  /-- LEDGER_READ (R418): Read ledger report records. -/
  | ledgerRead (p : Packet)
  /-- GROUP_DEFINE (R29): Create or append to a user group. -/
  | groupDefine (p : Packet)
  /-- GROUP_DELETE (R412): Delete a user group. -/
  | groupDelete (p : Packet)
  /-- GROUP_READ (R412): Read a user group's member unit paths. -/
  | groupRead (p : Packet)
  /-- CONFIG_COMMIT (R422): Verify and write a Slath image to a slot. -/
  | configCommit (p : Packet)
  /-- CONFIG_ROLLBACK (R422): Retire the live Slath slot for the next reset. -/
  | configRollback (p : Packet)
  /-- CONFIG_READ (R412): Return the live value of every Slath field. -/
  | configRead (p : Packet)
  /-- PROG_LOAD (R413): Load and check a program image and enter LOADED. -/
  | progLoad (p : Packet)
  /-- PROG_LOAD_DONE (R457): The image read and section copy finish and the load completes or is refused. -/
  | progLoadDone
  /-- PROG_START (R412): Start the loaded program. -/
  | progStart (p : Packet)
  /-- PROG_PAUSE (R412): Pause streams of a tile, cluster, die, slice or group. -/
  | progPause (p : Packet)
  /-- PAUSE_DRAIN_DONE (R412): A die-level pause enters PAUSED once in-flight items complete. -/
  | pauseDrainDone
  /-- PROG_RESUME (R412): Resume paused streams. -/
  | progResume (p : Packet)
  /-- PROG_UNLOAD (R412): Unload the program and return to IDLE. -/
  | progUnload (p : Packet)
  /-- PROG_STATUS (R412): Return program or tile status registers. -/
  | progStatus (p : Packet)
  /-- SYNC_WRITE (R412): Write a sync counter value. -/
  | syncWrite (p : Packet)
  /-- DEBUG_RESUME (R157): Resume a tile stopped at a breakpoint. -/
  | debugResume (p : Packet)
  /-- MEM_READ (R412): Read device memory into the slot. -/
  | memRead (p : Packet)
  /-- MEM_WRITE (R412): Write device memory from the payload. -/
  | memWrite (p : Packet)
  /-- MEM_COPY (R412): Copy between host and device memory asynchronously. -/
  | memCopy (p : Packet)
  /-- MEM_COPY_DONE (R412): A memory copy finishes and completes. -/
  | memCopyDone (tag : BitVec 32)
  /-- LLM_MODE (R229): Change way-group modes of every slice. -/
  | llmMode (p : Packet)
  /-- CXL_RETRAIN (R263): Retrain CXL links and restore access. -/
  | cxlRetrain (p : Packet)
  /-- SLICE_SET (R279): Set the slice layout at its epoch and derive strand tables. -/
  | sliceSet (p : Packet)
  /-- CIRCUIT_OPEN (R297): Open a circuit along a hop list. -/
  | circuitOpen (p : Packet)
  /-- CIRCUIT_CLOSE (R300): Close a circuit by its handle. -/
  | circuitClose (p : Packet)
  /-- TRANSIT_GRANT (R301): Grant transit strands to a passing slice. -/
  | transitGrant (p : Packet)
  /-- TRANSIT_REVOKE (R301): Return transit strands to their R279 modes. -/
  | transitRevoke (p : Packet)
  /-- QUENCH (R438): Quench the slice at the anchor. -/
  | quench (p : Packet)
  /-- UNQUENCH (R302): Lift the slice quench. -/
  | unquench (p : Packet)
  /-- PORT_RETRAIN (R304): Retrain fabric ports and restore failed strands. -/
  | portRetrain (p : Packet)
  /-- CE_BIND (R324): Bind a collective channel to its ring handles. -/
  | ceBind (p : Packet)
  /-- CE_UNBIND (R412): Unbind a collective channel. -/
  | ceUnbind (p : Packet)
  /-- TIME_SET (R341): Give the whole-second count of the current time. -/
  | timeSet (p : Packet)
  /-- TIME_CANCEL (R347): Remove a pending epoch-queue entry by tag. -/
  | timeCancel (p : Packet)
  /-- SNAPSHOT_AT (R349): Schedule a counter snapshot at an epoch. -/
  | snapshotAt (p : Packet)
  /-- HAMPER_ARM (R372): Arm a checkpoint for the first step-boundary release at or after fire_at. -/
  | hamperArm (p : Packet)
  /-- HAMPER_DISARM (R372): Remove a pending checkpoint arm. -/
  | hamperDisarm (p : Packet)
  /-- HAMPER_RESTORE (R381): Restore the slice from a generation. -/
  | hamperRestore (p : Packet)
  /-- HAMPER_EXPORT (R383): Export a complete generation to host memory or the far tier. -/
  | hamperExport (p : Packet)
  /-- MIRROR_RETRY (R376): Resend a failed mirror copy. -/
  | mirrorRetry (p : Packet)
  /-- GEN_PIN (R384): Pin a generation against automatic deletion. -/
  | genPin (p : Packet)
  /-- GEN_UNPIN (R384): Unpin a generation. -/
  | genUnpin (p : Packet)
  /-- GEN_DELETE (R384): Delete a generation. -/
  | genDelete (p : Packet)
  /-- GEN_LIST (R384): List generations and mirror copies with states. -/
  | genList (p : Packet)
  /-- CLOVE_READ (R199): Read layer records of a program tile. -/
  | cloveRead (p : Packet)
  /-- CLOVE_WRITE (R199): Write words 0 and 1 of a layer record. -/
  | cloveWrite (p : Packet)
  /-- SAMPLE_READ (R213): Read sample table entries. -/
  | sampleRead (p : Packet)
  /-- ABSENT_READ (R6): Read absent-access tallies. -/
  | absentRead (p : Packet)
  /-- MARCH_RUN (R240): Start a destructive or preserving march on chosen units. -/
  | marchRun (p : Packet)
  /-- REPAIR_LOG_READ (R242): Read repair log entries. -/
  | repairLogRead (p : Packet)
  /-- RETIRED_READ (R256): Read retired granule addresses. -/
  | retiredRead (p : Packet)
  /-- OVF_LOG_READ (R206): Read die block overflow log entries. -/
  | ovfLogRead (p : Packet)
  /-- SNAPSHOT_READ (R349): Read captured values of a register block from a snapshot. -/
  | snapshotRead (p : Packet)
  /-- ARRAY_UNFENCE (R116): Clear the fence of an array. -/
  | arrayUnfence (p : Packet)
  /-- ATTEST (R434): Write a signed attestation report to host memory. -/
  | attest (p : Packet)
  /-- IDENTITY_READ (R431): Return the device identity public key. -/
  | identityRead (p : Packet)
  /-- FW_UPDATE (R433): Verify and write a firmware image to a slot. -/
  | fwUpdate (p : Packet)
  /-- LEDGER_DRAIN_TIMEOUT (R419): When the drain timeout passes, remaining items are forced FAILED and recorded. -/
  | ledgerDrainTimeout
  /-- POWER_ON (R423): With input in range and PWR_GOOD and RESET_N high, phase 1 raises rails and locks PLLs. -/
  | powerOn (fault : Option PhaseOneFault)
  /-- FIRMWARE_SLOT_VERIFY (R426): Phase 2 trains the host link, verifies and starts firmware, then waits for FLOW_OK. -/
  | firmwareSlotVerify (v : LinkTrain)
  /-- CONFIGURATION_LOAD (R422): Phase 3 selects and loads the live Slath image. -/
  | configurationLoad
  /-- STARTUP_MARCH (R240): Phase 4 reapplies repairs and marches every scratchpad and LLM slice. -/
  | startupMarch (failing : List (MarchUnit × BankRow))
  /-- HBM_TRAINING (R246): Phase 5 trains HBM, hard-repairs, zeroes lines and trains CXL. -/
  | hbmTraining (failed : Option (Fin 8)) (cxl : List CxlDevice)
  /-- JOURNAL_REPLAY (R380): Phase 6 measures hold-up and replays the Hamper journal. -/
  | journalReplay (energy : Nat) (readable : Bool)
  /-- FABRIC_LINK_TRAINING (R423): Phase 7 trains every enabled fabric port. -/
  | fabricLinkTraining (r : List PortTrain)
  /-- COORDINATE_PLACEMENT (R305): Phase 8 obtains coordinates and node ID. -/
  | coordinatePlacement
  /-- TIME_LOCK (R423): Phase 9 locks the counter after TIME_SET, checks retention and enters IDLE. -/
  | timeLock
  /-- TIME_SET_TIMEOUT (R425): No TIME_SET within 10 s fails start-up. -/
  | timeSetTimeout
  /-- TIME_LOCK_TIMEOUT (R425): No lock within 2 s fails start-up. -/
  | timeLockTimeout
  /-- PHASE_BOUND_EXCEEDED (R424): A phase exceeding its bound fails start-up to SAFE. -/
  | phaseBoundExceeded
  /-- RESET_N_ASSERT (R419): RESET_N low holds the engines 2 ms, recording in-flight items FAILED. -/
  | resetNAssert
  /-- RESET_HOLD_EXPIRY (R419): The 2 ms engine hold after RESET_N assertion ends. -/
  | resetHoldExpiry
  /-- RESET_N_RELEASE (R428): RESET_N rising restarts at phase 2. -/
  | resetNRelease
  /-- MANAGEMENT_WATCHDOG (R428): Management cores silent for 1 s cause a mode 2 reset. -/
  | managementWatchdog
  /-- PWR_GOOD_FALL (R379): The Hamper flushes its buffer, journals extent outcomes and POWER_LOSS. -/
  | pwrGoodFall
  /-- FLOW_OK_FALL (R451): Outside BOOT the flow demand goes to step 4 and an event is raised. -/
  | flowOkFall
  /-- FLOW_OK_RISE (R451): The flow demand returns to step 0, or BOOT may proceed. -/
  | flowOkRise
  /-- FLOW_TRIP (R451): FLOW_OK low for 2 s makes a flow trip. -/
  | flowTrip
  /-- THERMAL_TRIP (R452): tj_max reaching 105 °C stops issue, drains, asserts THERMTRIP_N and powers off. -/
  | thermalTrip
  /-- POWER_TRIP (R448): Over-current or out-of-range input for 100 µs makes a power trip. -/
  | powerTrip
  /-- THERMAL_DEMAND_RISE (R449): tj_max at 95 °C raises the thermal demand one step, again per further 1 ms. -/
  | thermalDemandRise (m : Sensors)
  /-- THERMAL_DEMAND_FALL (R449): Below 90 °C for 100 ms the thermal demand falls one step per 100 ms. -/
  | thermalDemandFall (m : Sensors)
  /-- POWER_DEMAND_RISE (R449): A power window over its threshold raises the power demand one step. -/
  | powerDemandRise (m : Sensors)
  /-- POWER_DEMAND_FALL (R449): Both averages below fall thresholds for 100 ms lower the power demand one step. -/
  | powerDemandFall (m : Sensors)
  /-- INLET_OVER_TEMPERATURE (R451): An inlet above 40 °C raises a warning event. -/
  | inletOverTemperature (m : Sensors)
  /-- STBY_STATUS_READ (R446): SMBus block read 0xD0 returns STBY.STATUS. -/
  | stbyStatusRead
  /-- STBY_STATUS_CLEAR (R446): SMBus write 0xD1 clears latched trip bits, which reset if the condition holds. -/
  | stbyStatusClear (v : BitVec 64) (holding : BitVec 3)
  /-- CVT_FLAGS_WRITE (R65): A W1C write clears conversion flags, and clearing tally_sat zeroes the tally. -/
  | cvtFlagsWrite (t : Fin 64) (st : Stream) (v : BitVec 64)
  /-- ARRAY_LAG_CLEAR (R119): Writing clear to TILE.ARRAY_LAGn zeroes every high-water mark. -/
  | arrayLagClear (t : Fin 64) (n : Fin 4) (v : BitVec 64)
  /-- SP_SCRUB_WRITE (R227): A TILE.SP_SCRUB write sets enable and interval, clamped at 0x0040. -/
  | spScrubWrite (t : Fin 64) (v : BitVec 64)
  /-- LLM_SCRUB_WRITE (R245): An LLM.SCRUB write sets enable and interval, clamped at 0x0040. -/
  | llmScrubWrite (sl : Fin 16) (v : BitVec 64)
  /-- HBM_PRIO_WRITE (R264): An HBM.PRIO write sets cap and weights with clamping from the next frame. -/
  | hbmPrioWrite (v : BitVec 64)
  /-- HBM_SCRUB_WRITE (R265): An HBM.SCRUB write sets enable and pass hours, clamped to 1–168. -/
  | hbmScrubWrite (k : Fin 8) (v : BitVec 64)
  /-- CXL_TIMEOUT_WRITE (R266): A CXL.TIMEOUT write sets the limit, clamped to its range. -/
  | cxlTimeoutWrite (v : BitVec 64)
  /-- FAB_ACK_TIMEOUT_WRITE (R308): A FAB.ACK_TIMEOUT write sets the limit, clamped to its range. -/
  | fabAckTimeoutWrite (v : BitVec 64)
  /-- CE_TIMEOUT_WRITE (R352): A CE.TIMEOUT write sets the receive timeout, clamped to its range. -/
  | ceTimeoutWrite (ax : Fin 4) (v : BitVec 64)
  /-- HAMPER_REFRESH_WRITE (R388): A HAMPER.REFRESH write sets the refresh age, clamped to 1–60. -/
  | hamperRefreshWrite (v : BitVec 64)
  /-- VKX_WINDOW_WRITE (R398): A VKX.WINDOW write sets base and order, and enabling resets the ring tail. -/
  | vkxWindowWrite (v : BitVec 64)
  /-- VKX_TIMEOUT_WRITE (R398): A VKX.TIMEOUT write sets the limit, clamped to its range. -/
  | vkxTimeoutWrite (v : BitVec 64)
  /-- TIME_FEC_READ (R353): A read of TIME.FEC latches the Fabric Epoch Counter. -/
  | timeFecRead
  /-- REGISTER_WRITE (R259): Any other register write, refused unless 8 aligned bytes to a mapped writable register. -/
  | registerWrite (addr : BitVec 48) (len : Fin 65) (v : BitVec 64)
  /-- VKX_RETRAIN_COMPLETE (R397): A Vorkiux retrain ends, either bringing the link back up or counting a failed retrain toward link down. -/
  | vkxRetrainComplete (v : LinkTrain)
  /-- PORT_RETRAIN_COMPLETE (R304): Fabric port training ends outside phase 7, restoring failed strands and completing PORT_RETRAIN. -/
  | portRetrainComplete (r : List PortTrain)
  /-- CXL_RETRAIN_COMPLETE (R263): CXL link retraining ends, restoring access and updating CXL.STATUS, and the CXL_RETRAIN command completes. -/
  | cxlRetrainComplete (up : List CxlDevice)
  /-- SPI_NOR_WRITE_COMPLETE (R433): The write of a firmware or Slath slot to the SPI NOR flash finishes, and FW_UPDATE or CONFIG_COMMIT completes with slot and version. -/
  | spiNorWriteComplete
  /-- MCTP_COORDINATE_WRITE (R305): The management controller writes the module's coordinates and machine extents over MCTP before start-up phase 8. -/
  | mctpCoordinateWrite (c : Coords) (n : Extents)
  /-- REPLY_VALID_WORD_CLEAR (R400): Host software writes 0 to a reply slot's valid word, freeing the command slot and lowering replies_unread. -/
  | replyValidWordClear (k : Fin 64)
  /-- STANDBY_CONVERTER_START (R446): The input reaches the standby range and the standby converter starts, resetting STBY.STATUS and powering SMBus and the power island. -/
  | standbyConverterStart
  deriving DecidableEq, Repr

end Sys2Proof
end

