-- ==== Sys2Proof/Decode.lean ====
section
/-! DEFINITION. The words of the commands. spec/opcode_table.json gives no row any bits, so no word of the table
spells a command. A tile instruction has the 256-bit word of R127, whose opcode stands in bits [255:246]
(R128, R173, R194, R326): it is read and written here. -/

namespace Sys2Proof

/-- The command that a word spells by the bits of spec/opcode_table.json: the table gives no row any bits. -/
def decodeTableWord (_nbits _w : Nat) : Option Instr := none

/-- A 256-bit instruction word from its opcode and its other bits (R127). -/
def tileWord (op : Nat) (w : BitVec 246) : BitVec 256 := BitVec.ofNat 10 op ++ w

/-- The opcode of an instruction word (R127). -/
def wordOpcode (w : BitVec 256) : Nat := (w.extractLsb' 246 10).toNat

/-- The bits below the opcode (R127). -/
def wordBody (w : BitVec 256) : BitVec 246 := w.extractLsb' 0 246

/-- The instruction of a word that comes to issue (R128): an unassigned opcode is `illegalOpcode`. -/
def decodeTile (i : Issue) (w : BitVec 256) : Instr :=
  match wordOpcode w with
  | 0x000 => .nop i (wordBody w)
  | 0x001 => .endStream i (wordBody w)
  | 0x002 => .jmp i (wordBody w)
  | 0x003 => .bnz i (wordBody w)
  | 0x004 => .loop i (wordBody w)
  | 0x008 => .sli i (wordBody w)
  | 0x009 => .ali i (wordBody w)
  | 0x00A => .sop i (wordBody w)
  | 0x00B => .aadd i (wordBody w)
  | 0x00C => .sld i (wordBody w)
  | 0x00D => .sst i (wordBody w)
  | 0x010 => .nutset i (wordBody w)
  | 0x011 => .sealset i (wordBody w)
  | 0x040 => .wait i (wordBody w)
  | 0x041 => .signal i (wordBody w)
  | 0x042 => .arrive i (wordBody w)
  | 0x043 => .slot i (wordBody w)
  | 0x060 => .dma i (wordBody w)
  | 0x080 => .mma i (wordBody w)
  | 0x100 => .vld i (wordBody w)
  | 0x101 => .vst i (wordBody w)
  | 0x102 => .vcvtl i (wordBody w)
  | 0x103 => .vcvts i (wordBody w)
  | 0x104 => .vcvt i (wordBody w)
  | 0x110 => .vadd i (wordBody w)
  | 0x111 => .vsub i (wordBody w)
  | 0x112 => .vadds i (wordBody w)
  | 0x113 => .vsubs i (wordBody w)
  | 0x114 => .vmul i (wordBody w)
  | 0x115 => .vmulh i (wordBody w)
  | 0x116 => .vsrs i (wordBody w)
  | 0x117 => .vsrn i (wordBody w)
  | 0x118 => .vshls i (wordBody w)
  | 0x119 => .vwid i (wordBody w)
  | 0x11A => .vmin i (wordBody w)
  | 0x11B => .vmax i (wordBody w)
  | 0x11C => .vand i (wordBody w)
  | 0x11D => .vor i (wordBody w)
  | 0x11E => .vxor i (wordBody w)
  | 0x11F => .vcmplt i (wordBody w)
  | 0x120 => .vcmpeq i (wordBody w)
  | 0x121 => .vsel i (wordBody w)
  | 0x122 => .vbcast i (wordBody w)
  | 0x123 => .vmov i (wordBody w)
  | 0x124 => .vabss i (wordBody w)
  | 0x125 => .vnegs i (wordBody w)
  | 0x140 => .vfadd i (wordBody w)
  | 0x141 => .vfsub i (wordBody w)
  | 0x142 => .vfmul i (wordBody w)
  | 0x143 => .vfma i (wordBody w)
  | 0x144 => .vfnma i (wordBody w)
  | 0x145 => .vfdiv i (wordBody w)
  | 0x146 => .vfsqrt i (wordBody w)
  | 0x147 => .vfmin i (wordBody w)
  | 0x148 => .vfmax i (wordBody w)
  | 0x149 => .vfscale i (wordBody w)
  | 0x160 => .vrsum i (wordBody w)
  | 0x161 => .vrssq i (wordBody w)
  | 0x162 => .vrdot i (wordBody w)
  | 0x163 => .vramax i (wordBody w)
  | 0x170 => .vpexp i (wordBody w)
  | 0x171 => .vpslice i (wordBody w)
  | 0x172 => .vphdr i (wordBody w)
  | 0x200 => .crs i (wordBody w)
  | 0x201 => .car i (wordBody w)
  | 0x202 => .cag i (wordBody w)
  | 0x203 => .cxch i (wordBody w)
  | 0x210 => .fput i (wordBody w)
  | 0x211 => .fget i (wordBody w)
  | 0x212 => .fsig i (wordBody w)
  | 0x240 => .tlayer i (wordBody w)
  | 0x241 => .rcmp i (wordBody w)
  | 0x244 => .npack i (wordBody w)
  | 0x245 => .nclip i (wordBody w)
  | 0x248 => .sopen i (wordBody w)
  | 0x249 => .sstep i (wordBody w)
  | 0x24A => .skaddr i (wordBody w)
  | 0x250 => .tupd i (wordBody w)
  | 0x251 => .tclose i (wordBody w)
  | 0x252 => .trecrd i (wordBody w)
  | 0x253 => .trecwr i (wordBody w)
  | 0x254 => .tscale i (wordBody w)
  | _ => .illegalOpcode i w

/-- Is an opcode assigned (R128)? -/
def opcodeAssigned (op : Nat) : Bool :=
  op ≤ 4 || (8 ≤ op && op ≤ 0xD) || op == 0x10 || op == 0x11 || (0x40 ≤ op && op ≤ 0x43) || op == 0x60 || op == 0x80
  || (0x100 ≤ op && op ≤ 0x104) || (0x110 ≤ op && op ≤ 0x125) || (0x140 ≤ op && op ≤ 0x149)
  || (0x160 ≤ op && op ≤ 0x163) || (0x170 ≤ op && op ≤ 0x172) || (0x200 ≤ op && op ≤ 0x203)
  || (0x210 ≤ op && op ≤ 0x212) || op == 0x240 || op == 0x241 || op == 0x244 || op == 0x245
  || (0x248 ≤ op && op ≤ 0x24A) || (0x250 ≤ op && op ≤ 0x254)

/-- The place of issue and the instruction word of a tile instruction; none for every other command. -/
def wordOf : Instr → Option (Issue × BitVec 256)
  | .nop i w => some (i, tileWord 0x000 w)
  | .endStream i w => some (i, tileWord 0x001 w)
  | .jmp i w => some (i, tileWord 0x002 w)
  | .bnz i w => some (i, tileWord 0x003 w)
  | .loop i w => some (i, tileWord 0x004 w)
  | .sli i w => some (i, tileWord 0x008 w)
  | .ali i w => some (i, tileWord 0x009 w)
  | .sop i w => some (i, tileWord 0x00A w)
  | .aadd i w => some (i, tileWord 0x00B w)
  | .sld i w => some (i, tileWord 0x00C w)
  | .sst i w => some (i, tileWord 0x00D w)
  | .nutset i w => some (i, tileWord 0x010 w)
  | .sealset i w => some (i, tileWord 0x011 w)
  | .wait i w => some (i, tileWord 0x040 w)
  | .waitSatisfied _ _ => none
  | .signal i w => some (i, tileWord 0x041 w)
  | .signalArrival _ _ => none
  | .arrive i w => some (i, tileWord 0x042 w)
  | .slot i w => some (i, tileWord 0x043 w)
  | .dma i w => some (i, tileWord 0x060 w)
  | .dmaDescriptorStart _ => none
  | .dmaComplete _ _ _ _ => none
  | .mma i w => some (i, tileWord 0x080 w)
  | .mmaCoutComplete _ _ _ _ => none
  | .mmaDrainComplete _ _ _ _ => none
  | .fencedReissue _ => none
  | .withyOverflow _ _ _ => none
  | .drainTimeout _ _ _ _ => none
  | .streamWatchdog _ _ => none
  | .contextSwitch _ => none
  | .contextTakeUp _ => none
  | .fetchLineArrival _ _ _ => none
  | .vld i w => some (i, tileWord 0x100 w)
  | .vst i w => some (i, tileWord 0x101 w)
  | .vcvtl i w => some (i, tileWord 0x102 w)
  | .vcvts i w => some (i, tileWord 0x103 w)
  | .vcvt i w => some (i, tileWord 0x104 w)
  | .vadd i w => some (i, tileWord 0x110 w)
  | .vsub i w => some (i, tileWord 0x111 w)
  | .vadds i w => some (i, tileWord 0x112 w)
  | .vsubs i w => some (i, tileWord 0x113 w)
  | .vmul i w => some (i, tileWord 0x114 w)
  | .vmulh i w => some (i, tileWord 0x115 w)
  | .vsrs i w => some (i, tileWord 0x116 w)
  | .vsrn i w => some (i, tileWord 0x117 w)
  | .vshls i w => some (i, tileWord 0x118 w)
  | .vwid i w => some (i, tileWord 0x119 w)
  | .vmin i w => some (i, tileWord 0x11A w)
  | .vmax i w => some (i, tileWord 0x11B w)
  | .vand i w => some (i, tileWord 0x11C w)
  | .vor i w => some (i, tileWord 0x11D w)
  | .vxor i w => some (i, tileWord 0x11E w)
  | .vcmplt i w => some (i, tileWord 0x11F w)
  | .vcmpeq i w => some (i, tileWord 0x120 w)
  | .vsel i w => some (i, tileWord 0x121 w)
  | .vbcast i w => some (i, tileWord 0x122 w)
  | .vmov i w => some (i, tileWord 0x123 w)
  | .vabss i w => some (i, tileWord 0x124 w)
  | .vnegs i w => some (i, tileWord 0x125 w)
  | .vfadd i w => some (i, tileWord 0x140 w)
  | .vfsub i w => some (i, tileWord 0x141 w)
  | .vfmul i w => some (i, tileWord 0x142 w)
  | .vfma i w => some (i, tileWord 0x143 w)
  | .vfnma i w => some (i, tileWord 0x144 w)
  | .vfdiv i w => some (i, tileWord 0x145 w)
  | .vfsqrt i w => some (i, tileWord 0x146 w)
  | .vfmin i w => some (i, tileWord 0x147 w)
  | .vfmax i w => some (i, tileWord 0x148 w)
  | .vfscale i w => some (i, tileWord 0x149 w)
  | .vrsum i w => some (i, tileWord 0x160 w)
  | .vrssq i w => some (i, tileWord 0x161 w)
  | .vrdot i w => some (i, tileWord 0x162 w)
  | .vramax i w => some (i, tileWord 0x163 w)
  | .vpexp i w => some (i, tileWord 0x170 w)
  | .vpslice i w => some (i, tileWord 0x171 w)
  | .vphdr i w => some (i, tileWord 0x172 w)
  | .vectorStart _ _ _ => none
  | .vectorComplete _ => none
  | .tlayer i w => some (i, tileWord 0x240 w)
  | .rcmp i w => some (i, tileWord 0x241 w)
  | .npack i w => some (i, tileWord 0x244 w)
  | .nclip i w => some (i, tileWord 0x245 w)
  | .sopen i w => some (i, tileWord 0x248 w)
  | .sstep i w => some (i, tileWord 0x249 w)
  | .skaddr i w => some (i, tileWord 0x24A w)
  | .tupd i w => some (i, tileWord 0x250 w)
  | .tclose i w => some (i, tileWord 0x251 w)
  | .trecrd i w => some (i, tileWord 0x252 w)
  | .trecwr i w => some (i, tileWord 0x253 w)
  | .tscale i w => some (i, tileWord 0x254 w)
  | .crs i w => some (i, tileWord 0x200 w)
  | .car i w => some (i, tileWord 0x201 w)
  | .cag i w => some (i, tileWord 0x202 w)
  | .cxch i w => some (i, tileWord 0x203 w)
  | .fput i w => some (i, tileWord 0x210 w)
  | .fget i w => some (i, tileWord 0x211 w)
  | .fsig i w => some (i, tileWord 0x212 w)
  | .illegalOpcode i w => some (i, w)
  | .collectiveItemStart _ _ => none
  | .collectiveHop _ _ => none
  | .collectiveItemComplete _ _ => none
  | .collectiveTimeout _ _ => none
  | .barrierUp _ _ => none
  | .barrierDown _ _ => none
  | .barrierUpRepeat _ => none
  | .routingCycle _ => none
  | .containerArrival _ _ _ _ => none
  | .nakRepeat _ => none
  | .replayPendingTimeout _ => none
  | .packetWrite _ => none
  | .packetSignal _ => none
  | .packetRead _ => none
  | .packetReadData _ => none
  | .packetMessage _ => none
  | .packetAck _ => none
  | .packetBounce _ => none
  | .packetReservedType _ => none
  | .ackSend _ => none
  | .fabAckTimeout _ => none
  | .qMessageForward _ _ _ => none
  | .reservedControlSymbol _ _ => none
  | .linkCredit _ _ _ => none
  | .linkTable _ _ => none
  | .linkTableTimer _ => none
  | .linkModeChange _ _ _ => none
  | .modeChangeFrame _ => none
  | .modeChangeAbandon _ => none
  | .linkSpareRequest _ _ => none
  | .linkSpareSwitch _ _ _ => none
  | .linkStrandFailed _ => none
  | .laneLossOfLock _ _ => none
  | .laneErrorRate _ _ => none
  | .fabricLinkDown _ _ => none
  | .commandMsg _ _ _ => none
  | .replyMsg _ _ _ => none
  | .memberReplyTimeout _ => none
  | .eventMsg _ _ _ _ => none
  | .circuitSetup _ _ => none
  | .circuitReady _ _ => none
  | .circuitFail _ _ _ _ => none
  | .circuitRelease _ _ => none
  | .circuitSetupTimeout _ => none
  | .circuitCodeword _ _ => none
  | .circuitAck _ _ _ _ => none
  | .circuitAckTimer _ => none
  | .circuitNakRepeat _ => none
  | .circuitBroken _ _ => none
  | .transitSet _ _ => none
  | .quenchMsg _ _ => none
  | .unquenchMsg _ _ _ => none
  | .unassignedQtype _ _ _ => none
  | .hello _ _ => none
  | .helloTimer _ => none
  | .discoveryElection => none
  | .ringProbe _ _ => none
  | .coord _ _ _ => none
  | .discDone _ => none
  | .discoveryTimeout => none
  | .timeSymbol _ _ _ => none
  | .timeSymbolTimer _ => none
  | .ppsInEdge => none
  | .ppsLoss => none
  | .holdoverEntry => none
  | .drift => none
  | .ppsOutPulse => none
  | .epochQueueAct => none
  | .checkpointWriteStart => none
  | .extentCommit _ => none
  | .mirrorStart => none
  | .mirrorCircuitRetry => none
  | .mirrorTimeout => none
  | .mirrorExtentReceive _ => none
  | .pageReadComplete _ _ _ => none
  | .programOrEraseFail _ => none
  | .fold => none
  | .refreshCheck => none
  | .blockRefresh => none
  | .wearLevelMove => none
  | .journalCompaction => none
  | .restoreExtentRead _ _ => none
  | .restoreComplete => none
  | .exportExtent _ => none
  | .tilePatrolScrub _ _ _ => none
  | .llmPatrolScrub _ _ _ _ => none
  | .hbmPatrolScrub _ _ _ => none
  | .spCorrectedWriteback _ => none
  | .hbmCorrectedWriteback _ => none
  | .hbmRowRepair _ _ => none
  | .hbmSlotGrant _ _ => none
  | .hbmReadComplete _ _ _ _ => none
  | .llmWritebackComplete _ _ => none
  | .llmModeChangeDone => none
  | .marchComplete _ _ => none
  | .cxlResponse _ _ _ => none
  | .cxlRequestTimeout _ => none
  | .flitReceived _ _ => none
  | .vkxRetrain => none
  | .vkxRequestTimeout _ => none
  | .vkxDownRetrainTimer => none
  | .rdUc _ => none
  | .rdS _ => none
  | .rdX _ => none
  | .wrUc _ _ => none
  | .wrLine _ _ => none
  | .wb _ _ => none
  | .evict _ => none
  | .snpInv _ => none
  | .snpSh _ => none
  | .cmp _ => none
  | .snpAck _ => none
  | .data _ _ => none
  | .snpData _ _ => none
  | .commandSlotTake _ => none
  | .ringEntryWrite => none
  | .ringHeadAdvance _ => none
  | .statusCopy => none
  | .mctpMessage _ _ => none
  | .devInfo _ => none
  | .devStatus _ => none
  | .devReset _ => none
  | .faultClear _ => none
  | .ledgerRead _ => none
  | .groupDefine _ => none
  | .groupDelete _ => none
  | .groupRead _ => none
  | .configCommit _ => none
  | .configRollback _ => none
  | .configRead _ => none
  | .progLoad _ => none
  | .progLoadDone => none
  | .progStart _ => none
  | .progPause _ => none
  | .pauseDrainDone => none
  | .progResume _ => none
  | .progUnload _ => none
  | .progStatus _ => none
  | .syncWrite _ => none
  | .debugResume _ => none
  | .memRead _ => none
  | .memWrite _ => none
  | .memCopy _ => none
  | .memCopyDone _ => none
  | .llmMode _ => none
  | .cxlRetrain _ => none
  | .sliceSet _ => none
  | .circuitOpen _ => none
  | .circuitClose _ => none
  | .transitGrant _ => none
  | .transitRevoke _ => none
  | .quench _ => none
  | .unquench _ => none
  | .portRetrain _ => none
  | .ceBind _ => none
  | .ceUnbind _ => none
  | .timeSet _ => none
  | .timeCancel _ => none
  | .snapshotAt _ => none
  | .hamperArm _ => none
  | .hamperDisarm _ => none
  | .hamperRestore _ => none
  | .hamperExport _ => none
  | .mirrorRetry _ => none
  | .genPin _ => none
  | .genUnpin _ => none
  | .genDelete _ => none
  | .genList _ => none
  | .cloveRead _ => none
  | .cloveWrite _ => none
  | .sampleRead _ => none
  | .absentRead _ => none
  | .marchRun _ => none
  | .repairLogRead _ => none
  | .retiredRead _ => none
  | .ovfLogRead _ => none
  | .snapshotRead _ => none
  | .arrayUnfence _ => none
  | .attest _ => none
  | .identityRead _ => none
  | .fwUpdate _ => none
  | .ledgerDrainTimeout => none
  | .powerOn _ => none
  | .firmwareSlotVerify _ => none
  | .configurationLoad => none
  | .startupMarch _ => none
  | .hbmTraining _ _ => none
  | .journalReplay _ _ => none
  | .fabricLinkTraining _ => none
  | .coordinatePlacement => none
  | .timeLock => none
  | .timeSetTimeout => none
  | .timeLockTimeout => none
  | .phaseBoundExceeded => none
  | .resetNAssert => none
  | .resetHoldExpiry => none
  | .resetNRelease => none
  | .managementWatchdog => none
  | .pwrGoodFall => none
  | .flowOkFall => none
  | .flowOkRise => none
  | .flowTrip => none
  | .thermalTrip => none
  | .powerTrip => none
  | .thermalDemandRise _ => none
  | .thermalDemandFall _ => none
  | .powerDemandRise _ => none
  | .powerDemandFall _ => none
  | .inletOverTemperature _ => none
  | .stbyStatusRead => none
  | .stbyStatusClear _ _ => none
  | .cvtFlagsWrite _ _ _ => none
  | .arrayLagClear _ _ _ => none
  | .spScrubWrite _ _ => none
  | .llmScrubWrite _ _ => none
  | .hbmPrioWrite _ => none
  | .hbmScrubWrite _ _ => none
  | .cxlTimeoutWrite _ => none
  | .fabAckTimeoutWrite _ => none
  | .ceTimeoutWrite _ _ => none
  | .hamperRefreshWrite _ => none
  | .vkxWindowWrite _ => none
  | .vkxTimeoutWrite _ => none
  | .timeFecRead => none
  | .registerWrite _ _ _ => none
  | .vkxRetrainComplete _ => none
  | .portRetrainComplete _ => none
  | .cxlRetrainComplete _ => none
  | .spiNorWriteComplete => none
  | .mctpCoordinateWrite _ _ => none
  | .replyValidWordClear _ => none
  | .standbyConverterStart => none

end Sys2Proof
end

