-- ==== Sys2Proof/Machine/State.lean ====
section
/-! DEFINITION. The state of one CT-1 module, its faults and refusals, and the state after reset.
Every field names the rule of spec/ that gives it. Reset values are the spec's; a value of the model's
own carries the log entry's number. -/

namespace Sys2Proof.Machine

/-- Why the model stops with a fault: never. The spec stops the machine nowhere, so there is no reason to name. -/
inductive Fault where
  deriving DecidableEq, Repr

/-- Why the model refuses a command. -/
inductive Refusal where
  /-- Raised by an arm of Dispatch.lean for a row that has no meaning yet. Safe. -/
  | notModelled (mnemonic : String)
  deriving DecidableEq, Repr

/-- An error tally: 32 bits, saturating, with its sticky bit (R17). -/
structure Tally where
  count : BitVec 32 := 0
  sat   : Bool := false
  deriving DecidableEq, Repr

/-! ### Tile contexts (R30) -/

/-- One active loop of a stream (R125, R132). -/
structure LoopFrame where
  start : BitVec 48
  stop  : BitVec 48
  count : Nat
  iter  : Nat
  step  : BitVec 4
  deriving DecidableEq, Repr

/-- What a stream's head waits for (R124, R145, R116). -/
inductive WaitKind where
  | sync | arrive | interlock
  deriving DecidableEq, Repr

/-- A waiting stream head: counter or tree, threshold, requested grants (bits 0-3 arrays, bit 4 the
vector unit), and the cycles for which the watchdog has counted it (R157). -/
structure Waiting where
  kind      : WaitKind
  scope     : BitVec 2
  index     : BitVec 6
  threshold : BitVec 16
  acquire   : BitVec 5
  count     : Nat
  deriving DecidableEq, Repr

/-- The run state of a stream apart from waits, bubbles and pauses (R159). -/
inductive Run where
  | notStarted | active | ended | halted | atBreak
  deriving DecidableEq, Repr

/-- The sequencer state of one stream (R30, R122-R125, R143, R51): `lastIssue` is 4 cycles before the first in which it may issue again,
`issuedAt` the cycle of its last issue (R121, R312). -/
structure StreamCtx where
  pc        : BitVec 48 := 0
  s         : Table Word := []
  a         : Table (BitVec 48) := []
  loops     : List LoopFrame := []
  phase     : BitVec 6 := 0
  held      : BitVec 5 := 0
  seq       : BitVec 32 := 0
  nutStep   : BitVec 32 := 0
  nutElem   : Word := 0
  run       : Run := .notStarted
  wait      : Option Waiting := none
  paused    : Bool := false
  bubble    : Bool := false
  brkOnce   : Bool := false
  lastIssue : Option Nat := none
  issuedAt  : Option Nat := none
  deriving DecidableEq, Repr

/-- A layer record (R198), its reserved bits zero. -/
structure LayerRec where
  layer  : BitVec 16 := 0
  lam    : BitVec 8 := 0
  lamMin : BitVec 8 := 0
  lamMax : BitVec 8 := 0
  valid  : Bool := false
  auto   : Bool := false
  evt    : Bool := false
  limit  : BitVec 16 := 0
  rlo    : BitVec 16 := 0
  rhi    : BitVec 16 := 0
  zthr   : BitVec 16 := 0
  lsb    : BitVec 12 := 0
  uss    : BitVec 128 := 0
  wss    : BitVec 128 := 0
  n      : BitVec 32 := 0
  z      : BitVec 32 := 0
  ratio  : BitVec 16 := 0
  zfrac  : BitVec 16 := 0
  streak : BitVec 16 := 0
  adjusts : BitVec 8 := 0
  poison  : Bool := false
  cntSat  : Bool := false
  accSat  : Bool := false
  accTrunc : Bool := false
  alarmStreak : Bool := false
  alarmHigh : Bool := false
  alarmLow  : Bool := false
  deriving DecidableEq, Repr

/-- A block overflow log entry (R205). -/
structure OvfEntry where
  step    : BitVec 32
  block   : BitVec 32
  layer   : BitVec 16
  stream  : Stream
  source  : BitVec 3
  applied : Bool
  seq     : BitVec 32
  deriving DecidableEq, Repr

/-- A stream's word and recompute save in the Clove store (R197). -/
structure CloveStream where
  layer : BitVec 16 := 0
  base  : BitVec 32 := 0
  window : Bool := false
  save  : Word := 0
  deriving DecidableEq, Repr

/-- The Clove store of a context (R197). -/
structure Clove where
  words    : Table CloveStream := []
  records  : Table LayerRec := []
  log      : List OvfEntry := []
  lost     : Bool := false
  lostStep : BitVec 32 := 0
  deriving DecidableEq, Repr

/-- A tile context (R30), with the error marks of the words that it brings along: scratchpad words by address, and 64-bit words of the
vector registers, keyed 128 r + word (R191, R225). -/
structure Context where
  sp      : Table Byte := []
  spUe    : List Nat := []
  seals   : Table (BitVec 4) := []
  sync    : Table (BitVec 16) := []
  v       : Table (BitVec 8192) := []
  vBad    : List Nat := []
  f       : StreamCtx := {}
  b       : StreamCtx := {}
  u       : StreamCtx := {}
  clove   : Clove := {}
  deriving DecidableEq, Repr

/-! ### Device tiles -/

/-- The first halt since program load (R160), with the cycle in which it came (R154). -/
structure HaltInfo where
  valid  : Bool := false
  multi  : Bool := false
  stream : BitVec 2 := 3
  ptile  : BitVec 9 := 0
  reason : BitVec 8 := 0
  detail : BitVec 32 := 0
  addr   : BitVec 48 := 0
  cycle  : Nat := 0
  deriving DecidableEq, Repr

/-- A conversion flag register (R64). -/
structure CvtFlags where
  tally     : BitVec 32 := 0
  tallySat  : Bool := false
  poisonOut : Bool := false
  poisonIn  : Bool := false
  underflow : Bool := false
  sat       : Bool := false
  nonfinite : Bool := false
  deriving DecidableEq, Repr

/-- An IEEE flag register (R189). -/
structure IeeeFlags where
  fxsat     : Bool := false
  invalid   : Bool := false
  divzero   : Bool := false
  overflow  : Bool := false
  underflow : Bool := false
  inexact   : Bool := false
  deriving DecidableEq, Repr

/-- A completion signal (R136): scope 0b00 is none. -/
structure Csig where
  scope : BitVec 2
  index : BitVec 6
  deriving DecidableEq, Repr

/-- What a computation raises: conversion flags with the count of non-finite elements, IEEE flags, and
the flag blocks that overflowed, ascending (R64, R189, R205). -/
structure Raised where
  cvt       : CvtFlags := {}
  nonfinite : Nat := 0
  ieee      : IeeeFlags := {}
  overflow  : List Nat := []
  deriving DecidableEq, Repr

/-- The engines whose items are tile work items (R123). -/
inductive ItemKind where
  | dma | array | vector | collective | fabric
  deriving DecidableEq, Repr

/-- A tile work item in flight (R123, R418). `scalar` is the register value read at issue, `draw` the
first Nutmeg element counter, `reads` the operand pages with the seals expected, as (program tile, page, seal), `step`
the Nutmeg step, `window` the recompute window, `layer` and `base`
the overflow tag at issue (R51, R205, R215). `writes` are the scratchpad bytes the item is to write, by
device tile. `due` is the completion cycle where the spec fixes one, `applied` the overflowed flag blocks whose scales a `TSCALE` that
started later has raised (R196, R207). -/
structure Item where
  kind    : ItemKind
  stream  : Stream
  seq     : BitVec 32
  addr    : BitVec 48
  op      : BitVec 10
  w       : BitVec 246
  csig    : Csig
  issued  : Nat
  due     : Nat
  scalar  : Word
  draw    : Word
  step    : BitVec 32
  window  : Bool
  layer   : BitVec 16
  base    : BitVec 32
  iters   : List (Nat × BitVec 4)
  arrays  : List Nat
  reads   : List (Nat × Nat × Nat)
  writes  : List (Nat × Nat × Byte)
  raised  : Raised
  started : Bool
  failed  : Option (BitVec 8)
  fdetail : Word
  applied : List Nat
  deriving DecidableEq, Repr

/-- A page's consumer or producer in flight (R146, R149), by the page's and the item's program tile: `until_` is the cycle in which the period ends,
where the spec fixes it. -/
structure PageUse where
  ptile    : Nat
  owner    : Nat
  page     : BitVec 10
  producer : Bool
  sealed   : BitVec 4
  stream   : Stream
  seq      : BitVec 32
  issued   : Nat
  until_   : Option Nat
  deriving DecidableEq, Repr

/-- One cell's accumulator in block mode (R70). -/
structure Acc where
  acc  : BitVec 48 := 0
  le   : BitVec 12 := 0
  st   : Bool := false
  live : Bool := false
  pz   : Bool := false
  deriving DecidableEq, Repr

/-- An open chain on a program array (R142): `set` is the accumulator set that holds it (R91), `owner` the program tile whose stream
opened it. -/
structure Chain where
  stream : Stream
  seq    : BitVec 32
  owner  : Nat
  afmt   : BitVec 4
  bfmt   : BitVec 4
  bs     : Bool
  reads  : List (Nat × Nat × Nat)
  set    : Fin 2
  deriving DecidableEq, Repr

/-- What an accumulator set holds in the cells of an array, keyed 64 r + c: block-mode state or a pass sum (R91). -/
inductive AccSet where
  | block (accs : Table Acc)
  | pass (sums : Table Int)
  deriving DecidableEq, Repr

/-- What a feeder reads of one edge (R93-R96, R107): whether this array feeds the edge, the pace of its words (0 one a cycle,
1 one in two cycles, 2 the CK4 edge of a mixed pairing), their number, by pass the first addresses of the planes read together,
the exponent words with the cycles between two, and how long before its tokens are due the first word is read. -/
structure EdgeFeed where
  on    : Bool
  pace  : Nat
  words : Nat
  planes : List (List Nat)
  exps  : Option (Nat × Nat × Nat)
  lead  : Nat
  deriving DecidableEq, Repr

/-- An array instruction in flow on one array (R98, R101, R103): its item and the program tile that issued it, the stream code its
lost cycles are charged to (R224), the cycle from which its schedule counts, the cycles of one pass, from pass to pass and the passes, the
first accumulator set, whether it continues a chain and whether it is drained, the bank words of its output rows from the last
row on, the cycles that a row spends on its way to the writer, the neighbours of a gang that its waits reach, what the cells
have taken, and the cycle in which it was done. -/
structure Feed where
  stream : Stream
  seq    : BitVec 32
  owner  : Nat
  charge : Nat
  start  : Nat
  len    : Nat
  gap    : Nat
  passes : Nat
  set    : Fin 2
  cont   : Bool
  out    : Bool
  a      : EdgeFeed
  b      : EdgeFeed
  rows   : List (List Nat)
  lat    : Nat
  next   : List Nat
  pass   : Nat := 0
  taken  : Nat := 0
  done   : Option Nat := none
  deriving DecidableEq, Repr

/-- A row in a drain column's buffers, or a drain that waits for the drain plane (R98, R104): its item, the cycle from which it may
go on, its bank words, or its rows, and whether it is the item's last. -/
structure DrainRow where
  stream : Stream
  seq    : BitVec 32
  owner  : Nat
  charge : Nat
  ready  : Nat
  words  : List Nat
  last   : Bool
  deriving DecidableEq, Repr

/-- A completed accumulator set on its way through the drain plane (R98). -/
structure Drain where
  row    : DrainRow
  set    : Fin 2
  lat    : Nat
  rows   : List (List Nat)
  deriving DecidableEq, Repr

/-- A program array: its holder, whether it has released the unit, its last issue and open chain (R144, R142); its two accumulator
sets, the one to use next and for each the cycle from which it is free, none while it is held (R91, R101); the instructions in flow, the
words that the feeders were refused, the cycles in which cells will lack a token, the drain plane and the rows behind it, and
the lane buffer that overflowed, with its cycle (R102-R104). -/
structure ArrayUnit where
  holder    : Option Stream := none
  released  : Bool := false
  lastCycle : Option Nat := none
  lastSpan  : Nat := 0
  chain     : Option Chain := none
  sets      : Table AccSet := []
  nextSet   : Fin 2 := 0
  free0     : Option Nat := some 0
  free1     : Option Nat := some 0
  feeds     : List Feed := []
  leftA     : List Nat := []
  leftB     : List Nat := []
  late      : List Nat := []
  drains    : List Drain := []
  plane     : Option Drain := none
  fifo      : List DrainRow := []
  full      : Option (Stream × BitVec 32 × Nat) := none
  deriving DecidableEq, Repr

/-- The registers of one physical array (R119), and the cycles in which cell (0, 0) last formed a product and last waited. -/
structure PhysArray where
  busy    : Nat := 0
  stall   : Nat := 0
  drain   : BitVec 5 := 0
  b       : BitVec 5 := 0
  a       : BitVec 5 := 0
  formed  : Option Nat := none
  waited  : Option Nat := none
  residue : Tally := {}
  deriving DecidableEq, Repr

/-- A signal on its way to a counter (R312): `target` is the program tile of a tile counter or the
program cluster of a cluster counter. -/
structure SignalFlight where
  due    : Nat
  scope  : BitVec 2
  target : Nat
  index  : BitVec 6
  inc    : BitVec 16
  stream : Stream
  addr   : BitVec 48
  deriving DecidableEq, Repr

/-- The vector unit's queue and counters (R167, R168, R190), and the bank words that its started instructions are still to
access, with the earliest cycle (R222). -/
structure VecUnit where
  holder   : Option Stream := none
  released : Bool := false
  queue    : List Item := []
  started  : List Item := []
  lastCycle : Option Nat := none
  freeAt   : Nat := 0
  busy     : Nat := 0
  bankLoss : Nat := 0
  ecc      : Tally := {}
  access   : List (Nat × List Nat) := []
  deriving DecidableEq, Repr

/-- A march register (R244), and the cycle in which the run began (R240). -/
structure March where
  unrepaired : BitVec 8 := 0
  repaired   : BitVec 8 := 0
  sparesLeft : BitVec 8 := 4
  bank       : BitVec 5 := 0
  mode       : BitVec 2 := 0
  state      : BitVec 2 := 0
  since      : Nat := 0
  deriving DecidableEq, Repr

/-- A line of a stream's instruction buffer (R124, R236): line number, words, and its error mark. -/
structure FetchLine where
  stream : Stream
  line   : BitVec 42
  data   : BitVec 512
  bad    : Bool
  deriving DecidableEq, Repr

/-- A device tile: the loaded context and the tile's units and registers. `fresh` holds by stream what was last raised, with its cycle:
a clearing write of that cycle leaves it (R65, R189). -/
structure Tile where
  loaded    : Option Nat := none
  carried   : List Nat := []
  ctx       : Context := {}
  halt      : HaltInfo := {}
  brkEn     : Bool := false
  watchdog  : BitVec 48 := 0x9502F9000
  issued    : Table Nat := []
  waited    : Table Nat := []
  bubbles   : Table Nat := []
  switches  : Nat := 0
  move      : Nat := 0
  idle      : Nat := 0
  active    : Nat := 0
  ibuf      : List FetchLine := []
  cvt       : Table CvtFlags := []
  ieee      : Table IeeeFlags := []
  fresh     : Table (Nat × Raised) := []
  vec       : VecUnit := {}
  arrays    : Table ArrayUnit := []
  phys      : Table PhysArray := []
  fenced    : BitVec 4 := 0
  fencedMode : Bool := false
  reissue   : List Item := []
  items     : List Item := []
  dmaQ      : List Item := []
  dmaRun    : List Item := []
  pages     : List PageUse := []
  signals   : List SignalFlight := []
  conflict  : Table Nat := []
  spCe      : Tally := {}
  spUeTally : Tally := {}
  spUeAddr  : Option (BitVec 22) := none
  scrubEn   : Bool := true
  scrubInterval : BitVec 16 := 0x0400
  scrubPos  : Table Nat := []
  spCorrected : List (BitVec 22) := []
  march     : March := {}
  spares    : Table Nat := []
  unusable  : Bool := false
  ovfLost   : Tally := {}
  deriving DecidableEq, Repr

/-! ### The loaded program (R413) -/

/-- A declared barrier tree (R315): its step flag and the 3-bit participant mask of each program tile. -/
structure TreeDecl where
  step : Bool
  mask : List (BitVec 3)
  deriving DecidableEq, Repr

/-- A keep map entry (R212). -/
structure KeepEntry where
  layer : BitVec 16
  size  : Word
  deriving DecidableEq, Repr

/-- What a program image declares (R413), as far as it matters after the load: program tiles, slot maps and record counts by
program tile, the keep area and map, barrier trees, checkpoint regions and way-groups, the run seed and the digest. -/
structure Prog where
  p        : Nat := 0
  slotMaps : Table (List (BitVec 16)) := []
  recCount : Table Nat := []
  keepBase : BitVec 48 := 0
  keepSlots : Nat := 0
  keep     : List KeepEntry := []
  trees    : List TreeDecl := []
  ckpt     : List (Nat × Nat) := []
  ckptLlm  : List (BitVec 16) := []
  seed     : Word := 0
  digest   : BitVec 512 := 0
  deriving DecidableEq, Repr

/-- A sample table entry (R213): state 0 FREE, 1 FORWARD, 2 HELD, 3 BACKWARD. -/
structure Sample where
  cursor : Word := 0
  kept   : Word := 0
  tag    : BitVec 16 := 0
  state  : BitVec 3 := 0
  deriving DecidableEq, Repr

/-- A local arrival on a barrier tree (R317-R319). -/
structure Arrival where
  ptile   : Nat
  stream  : Stream
  hold    : Bool
  payload : Option (BitVec 5)
  counter : BitVec 6
  deriving DecidableEq, Repr

/-- The router's state of one barrier tree (R318, R323). -/
structure Tree where
  round : BitVec 16 := 0
  who   : List Arrival := []
  heard : List (Fin 8) := []
  acc   : BitVec 128 := 0
  sentUp : Bool := false
  lastDown : BitVec 128 := 0
  deriving DecidableEq, Repr

/-! ### Memories -/

/-- One LLM slice (R228-R245): `tags` holds line + 1 by 128 × set + way (R233), `tree` the bits of the sets' replacement trees by
128 × set + node (R234), `dirty` the cached lines that home memory does not hold yet, `snoop` the host's copies (R394). -/
structure Slice where
  scratch  : BitVec 16 := 0
  disabled : BitVec 16 := 0
  hits     : Nat := 0
  misses   : Nat := 0
  writebacks : Nat := 0
  fetch    : Nat := 0
  ce       : Tally := {}
  ue       : Tally := {}
  ueOff    : Option (BitVec 27) := none
  scrubEn  : Bool := true
  scrubInterval : BitVec 16 := 0x1000
  scrubPos : Table Nat := []
  march    : March := { sparesLeft := 0x20 }
  spares   : Table Nat := []
  tags     : Table Nat := []
  tree     : Table Nat := []
  dirty    : List Nat := []
  snoop    : List (Nat × BitVec 2) := []
  deriving DecidableEq, Repr

/-- One HBM stack (R246-R265): by row number 2^20 × pseudo-channel + row, the lines corrected in the present scrub pass,
the repair candidates and the soft repairs logged in the SPI NOR flash (R255); `scrubPos` is the next line of the pass. -/
structure Stack where
  softRepairs : BitVec 8 := 0
  sparesLeft : BitVec 8 := 0
  trained  : Bool := false
  ce       : Tally := {}
  ue       : Tally := {}
  ueAddr   : Option (BitVec 42) := none
  ondie    : Tally := {}
  poison   : Tally := {}
  scrubEn  : Bool := true
  hours    : BitVec 8 := 0x18
  scrubPos : Nat := 0
  corrected : List (BitVec 42) := []
  candidates : List (Nat × List Nat) := []
  ueRows   : List Nat := []
  soft     : List Nat := []
  deriving DecidableEq, Repr

/-- A request for a 64 B line of HBM or the far tier (R248-R250): the line, its offset within the pseudo-channel or the device
(R247, R262), whether it is a write, and its class. -/
structure MemReq where
  line  : Nat
  place : Nat
  write : Bool
  cls   : Nat
  deriving DecidableEq, Repr

/-- A pseudo-channel or a CXL link's request stream (R249, R260): the slots of the frame so far, the frame's `HBM.PRIO`, the slots
granted by class, and the requests, oldest first. -/
structure MemChan where
  slot : Nat := 0
  prio : Nat := 0
  used : Table Nat := []
  reqs : List MemReq := []
  deriving DecidableEq, Repr

/-- A CXL link's device (R266). -/
structure CxlDev where
  capacity : Nat := 0
  lanes    : BitVec 8 := 0
  speed    : BitVec 8 := 0
  present  : Bool := false
  deriving DecidableEq, Repr

/-- A repair log entry (R242). -/
structure RepairEntry where
  fec    : Word
  kind   : BitVec 4
  unit   : BitVec 8
  bank   : BitVec 5
  row    : BitVec 13
  spare  : BitVec 5
  test   : BitVec 3
  result : BitVec 2
  deriving DecidableEq, Repr

/-- The memories and their controllers. `dev` holds HBM, the LLM scratchpad window and the far tier by
device address; `host` is host memory by host physical address, as far as the module has read or written it, and `hostBad`
the lines of it that came with an error (R257, R396, R399). `poison` holds marked 64 B lines, `ue` lines or 8 B words with an uncorrectable error that no read has met (R252, R237). `onchip` and `offchip` say
that start-up phases 4 and 5 are complete: before that the memory is unmapped (R435). `chans` holds the request streams: 64 k + p is
pseudo-channel p of stack k, 512 + n CXL link n. `told` are the lines whose failed read has been counted and not yet met by its reader
(R253), `slotsMet` the save slots that a write has met since their context was set aside (R33; log 32). `bifur`, `ways` and `gran` are the
configuration with which the far tier was trained (R261, R266). -/
structure Memory where
  onchip   : Bool := false
  offchip  : Bool := false
  dev      : Table Byte := []
  host     : Table Byte := []
  hostBad  : List Nat := []
  poison   : List Nat := []
  ue       : List Nat := []
  slices   : Table Slice := []
  hbm      : Table Stack := []
  chans    : Table MemChan := []
  told     : List Nat := []
  slotsMet : List Nat := []
  p0cap    : BitVec 5 := 4
  w1       : BitVec 5 := 0x0C
  w2       : BitVec 5 := 4
  w3       : BitVec 5 := 2
  bytesP   : Table Nat := []
  retired  : List Nat := []
  retOvf   : BitVec 12 := 0
  retSat   : Bool := false
  bifur    : Nat := 0
  ways     : Nat := 1
  gran     : Nat := 0
  cxl      : Table CxlDev := []
  cxlDown  : BitVec 4 := 0
  cxlRetry : Tally := {}
  cxlLost  : Tally := {}
  cxlTimeout : BitVec 32 := 0x001E8480
  repair   : List RepairEntry := []
  repOvf   : BitVec 12 := 0
  repSat   : Bool := false
  deriving DecidableEq, Repr

/-! ### Fabric -/

/-- A change of a strand's mode under way (R282); `next` is the message along a hop list that waits for its confirmation, with its
Q type (log 89). -/
structure ModeChange where
  entry     : BitVec 16
  frame     : BitVec 32
  initiator : Bool
  confirmed : Bool
  next      : Option (BitVec 8 × PathMsg) := none
  deriving DecidableEq, Repr

/-- A replay copy (R290): the frame in which it was first sent, its lseq, and whether a nak names it. -/
structure Replay where
  frame : Nat := 0
  lseq : BitVec 16
  c    : Container
  wanted : Bool
  deriving DecidableEq, Repr

/-- A circuit's reservation of a strand direction (R296, R297). -/
structure Resv where
  handle : Handle
  dst    : BitVec 16
  slice  : BitVec 6
  deriving DecidableEq, Repr

/-- One strand of one port (R278-R291, R296): `txLseq` is the last lseq sent, `rxLseq` the last up to which all have
arrived, `rxHigh` the last that a good container named, `taken` those taken beyond `rxLseq`, and `toName` the missing
ones that a nak_seq is yet to name; `namedAt` is the frame in
which one was last named, and `rxCw` the number of the last codeword read. -/
structure Strand where
  entry    : BitVec 16 := 0
  differ   : Nat := 0
  change   : Option ModeChange := none
  out      : Option Resv := none
  inn      : Option Resv := none
  replay   : List Replay := []
  txLseq   : BitVec 16 := 0
  rxLseq   : BitVec 16 := 0
  rxHigh   : BitVec 16 := 0
  toName   : List (BitVec 16) := []
  taken    : List (BitVec 16) := []
  inbuf    : List Container := []
  rxCw     : BitVec 32 := 0xFFFFFFFF
  namedAt  : Nat := 0
  deriving DecidableEq, Repr

/-- One fabric port (R309, R276, R303, R305, R343): `upAt` is the nanosecond of its training, `txFrom` and `rxFrom` the codewords from
which the spare carries a lane. -/
structure Port where
  state    : BitVec 3 := 1
  txSpared : BitVec 5 := 0x1F
  rxSpared : BitVec 5 := 0x1F
  rxAsked  : BitVec 5 := 0x1F
  cwCorr   : Nat := 0
  cwUncorr : Tally := {}
  replays  : Nat := 0
  qSent    : Nat := 0
  credits  : Table Nat := []
  farPort  : Option (BitVec 8) := none
  farSerial : Word := 0
  stratum  : BitVec 8 := 0xFF
  lastTx   : BitVec 40 := 0
  lastRx   : BitVec 40 := 0
  echoValid : Bool := false
  upAt     : Nat := 0
  txFrom   : BitVec 32 := 0
  rxFrom   : BitVec 32 := 0
  deriving DecidableEq, Repr

/-- Order state toward and from one node (R292-R294): `accepted` counts the acceptances not yet acknowledged, and `since` is the
nanosecond of the first of them. -/
structure Order where
  send    : BitVec 24 := 0
  acked   : BitVec 24 := 0
  e       : BitVec 24 := 0
  window  : BitVec 64 := 0
  ackSent : BitVec 24 := 0
  accepted : Nat := 0
  since   : Nat := 0
  deriving DecidableEq, Repr

/-- An item that sends packets (R294, R340): its tile item, the packets put into the injection queue so far, those whose
delivery no `ACK` covers yet, all their seqs, and for an `FGET` the bytes written at this node. -/
structure FabItem where
  tile    : Fin 64
  ptile   : Nat
  item    : Item
  dst     : BitVec 16
  queued  : Nat := 0
  waiting : List (BitVec 24) := []
  seqs    : List (BitVec 24) := []
  got     : Nat := 0
  deriving DecidableEq, Repr

/-- A `READ` that this node serves (R286): its header, what is still to be sent, and where to. -/
structure FabServe where
  req   : BitVec 128
  addr  : Nat
  ret   : Nat
  left  : Nat
  deriving DecidableEq, Repr

/-- A message that goes over a port: by dimension order, or along a hop list on a strand (R276). -/
inductive QLoad where
  | msg (m : QMsg)
  | path (qtype : BitVec 8) (l : StrandId) (m : PathMsg)
  deriving DecidableEq, Repr

/-- A message that waits for a credit (R276), and the port and virtual channel whose buffer holds it. -/
structure QWait where
  port : Fin 8
  vc   : Fin 2
  m    : QLoad
  held : Option (Fin 8 × Fin 2)
  deriving DecidableEq, Repr

/-- One slice of the layout (R24, R279): start and extents by axis. -/
structure SliceDecl where
  number : BitVec 6
  start  : List Nat
  ext    : List Nat
  deriving DecidableEq, Repr

/-- A circuit with an end in this module (R296-R299): `source` at its source. The source keeps the codewords that are not
acknowledged or not sent yet; the destination the bytes of the item that it receives, the items received whole in `inbox`, and by item
tag the codewords of a collective transfer so far. -/
structure Circuit where
  handle  : Handle
  source  : Bool
  slice   : BitVec 6
  dst     : BitVec 16
  hops    : List Byte
  isOpen  : Bool
  mirror  : Bool := false
  tag     : BitVec 32
  cseqTx  : BitVec 32 := 0
  sent    : BitVec 32 := 0
  cseqAck : BitVec 32 := 0xFFFFFFFF
  staged  : List Codeword := []
  items   : List (BitVec 32 × BitVec 32) := []
  cseqRx  : BitVec 32 := 0
  missing : Bool := false
  sinceAck : Nat := 0
  received : List Byte := []
  counts  : Table Nat := []
  inbox   : List (BitVec 32 × List Byte) := []
  deriving DecidableEq, Repr

/-- The quench state of the module's slice (R302). -/
structure Quench where
  on       : Bool := false
  number   : BitVec 16 := 0
  origin   : BitVec 16 := 0
  dead     : List (BitVec 16) := []
  lastDead : Option (BitVec 16) := none
  overflow : Bool := false
  deriving DecidableEq, Repr

/-- The router and the links (R267-R309): `inject` holds the injection queues, 0 for `ACK` and `BOUNCE`, 1 for the fabric instructions
and 2 for served reads, and `turn` the one that is next (R289; log 20). -/
structure Fabric where
  node     : BitVec 16 := 0
  coords   : Coords := ⟨0, 0, 0, 0⟩
  method   : BitVec 2 := 0
  root     : Bool := false
  placed   : Bool := false
  extent   : Extents := ⟨0, 0, 0, 0⟩
  slices   : List SliceDecl := []
  own      : BitVec 6 := 0
  quench   : Quench := {}
  ackTimeout : BitVec 32 := 0x00989680
  injected : Nat := 0
  ejected  : Nat := 0
  deflected : Nat := 0
  ejBusy   : Nat := 0
  golden   : Nat := 0
  heldCnt  : Nat := 0
  dup      : Nat := 0
  bounced  : Nat := 0
  proto    : Tally := {}
  ports    : Table Port := []
  strands  : Table Strand := []
  reroute  : List Container := []
  inject   : Table (List FabPacket) := []
  turn     : Nat := 0
  hold     : List FabPacket := []
  arrived  : List FabPacket := []
  order    : Table Order := []
  items    : Table FabItem := []
  nextItem : Nat := 0
  circuits : List Circuit := []
  messages : List (BitVec 32 × BitVec 4096) := []
  qWait    : List QWait := []
  serving  : List FabServe := []
  discPhase : BitVec 8 := 0
  lowest   : Word := 0
  hops     : BitVec 16 := 0
  probes   : Table Nat := []
  coordFrom : List Nat := []
  written  : Option (Coords × Extents) := none
  deriving DecidableEq, Repr

/-! ### Collective engines -/

/-- An item on a channel (R327-R339): by half, `sums` is the member's part of the running checksum and `checks` the
owner's C of R333, keyed 2 × segment + 1 for a − half; `taken` counts the blocks taken of each transfer, by its tag (R330). -/
structure CeItem where
  tile    : Fin 64
  ptile   : Nat
  number  : BitVec 32
  item    : Item
  fire    : Option Word
  started : Bool := false
  sizing  : Bool := false
  sums    : Table (BitVec 32) := []
  checks  : Table (BitVec 32) := []
  sent    : Nat := 0
  written : Nat := 0
  flagged : List Nat := []
  taken   : Table Nat := []
  failed  : Option (BitVec 8) := none
  fdetail : Word := 0
  deriving DecidableEq, Repr

/-- A channel (R324, R352): `rx` holds the blocks that its circuits have brought and no item has taken. -/
structure Chan where
  bound : Bool := false
  n     : Nat := 0
  pos   : Nat := 0
  plus  : List Handle := []
  minus : List Handle := []
  next  : BitVec 32 := 0
  items : List CeItem := []
  rx    : List Hop := []
  deriving DecidableEq, Repr

/-- An axis collective engine (R352). -/
structure Engine where
  chans   : Table Chan := []
  items   : Nat := 0
  tx      : Nat := 0
  rx      : Nat := 0
  flagged : Nat := 0
  csum    : Tally := {}
  timeout : BitVec 32 := 0x05F5E100
  deriving DecidableEq, Repr

/-! ### Time -/

/-- An entry of the epoch queue (R346, R347). -/
structure EpochEntry where
  epoch  : Word
  opcode : BitVec 16
  p      : Packet
  deriving DecidableEq, Repr

/-- A snapshot buffer (R349): it awaits its epoch, or holds a capture, by control-register offset. -/
structure Snapshot where
  id    : BitVec 16 := 0
  epoch : Word := 0
  waits : Bool := false
  done  : Bool := false
  regs  : Table Word := []
  deriving DecidableEq, Repr

/-- Clocks and time transfer (R34, R341-R349, R353). `rest` counts the tenths of an arithmetic cycle
left over by a throttled clock. `elapsed` counts nanoseconds since power-on and `slewNs` those of the present slew. -/
structure Time where
  cycle    : Nat := 0
  rest     : Nat := 0
  fec      : Word := 0
  fecFrac  : BitVec 4 := 0
  stratum  : BitVec 8 := 0xFF
  upstream : BitVec 3 := 0
  upValid  : Bool := false
  state    : BitVec 3 := 0
  pps      : Bool := false
  master   : Bool := false
  drift    : Bool := false
  holdNs   : Nat := 0
  delay    : BitVec 32 := 0
  offset   : BitVec 32 := 0
  good     : Nat := 0
  slew     : Int := 0
  given    : Bool := false
  latched  : Word := 0
  epochQ   : List EpochEntry := []
  snaps    : Table Snapshot := []
  elapsed  : Nat := 0
  slewNs   : Nat := 0
  deriving DecidableEq, Repr

/-! ### Hamper -/

/-- The states of a generation or mirror copy (R370), in table order. -/
inductive GenState where
  | writing | local_ | complete | mirrored | incomplete | mirrorWriting | mirrorHeld | mirrorFailed
  deriving DecidableEq, Repr

/-- What a restore puts back from an extent of kind 0x01 or 0x02 (R368). -/
structure DieImage where
  cluster : Table (BitVec 16) := []
  die     : Table (BitVec 16) := []
  trees   : Table Tree := []
  samples : Table Sample := []
  deriving DecidableEq, Repr

/-- An extent (R368, R369): its bytes are sparse, an unlisted one is 0; `lost` once a page of it has been lost (R358). -/
structure Extent where
  kind   : BitVec 8
  source : Nat
  len    : Nat
  status : BitVec 8 := 0
  reason : BitVec 8 := 0
  stripe : Nat := 0
  digest : BitVec 512 := 0
  data   : Table Byte := []
  ctx    : Option Context := none
  die    : Option DieImage := none
  lost   : Bool := false
  deriving DecidableEq, Repr

/-- A generation or a mirror copy (R367-R371). -/
structure Gen where
  state   : GenState
  pinned  : Bool := false
  extents : List Extent := []
  exported : Bool := false
  mirror  : Bool := false
  buddy   : BitVec 8 := 0xFF
  image   : BitVec 512 := 0
  seed    : Word := 0
  coords  : List Nat := []
  reports : List (BitVec 16) := []
  mirReports : List (BitVec 16) := []
  failed  : Nat := 0
  lost    : Bool := false
  sent    : Bool := false
  epoch   : Word := 0
  deriving DecidableEq, Repr

/-- A journal record (R378) with its body. -/
structure JRec where
  number : BitVec 32
  type   : BitVec 8
  reason : BitVec 8
  index  : BitVec 16
  gen    : BitVec 32
  fec    : Word
  body   : List Byte
  deriving DecidableEq, Repr

/-- What a page of the flash holds (R356, R357): an extent's data from a byte on, zeros that close a stripe, or the stripe's parity. -/
inductive FlashUse where
  | data (extent offset : Nat) | zeros | parity
  deriving DecidableEq, Repr

/-- A programmed page: the key of the generation or mirror copy that it belongs to, and its stripe (R357). -/
structure FlashPage where
  owner  : Nat
  stripe : Nat
  use    : FlashUse
  deriving DecidableEq, Repr

/-- A flash block (R354, R359-R362): mode 0 free, 1 TLC, 2 pSLC; its valid pages by number. -/
structure Block where
  mode   : BitVec 2 := 0
  wear   : Nat := 0
  reads  : Nat := 0
  epoch  : Word := 0
  bad    : Bool := false
  rebuilt : Nat := 0
  pages  : Table FlashPage := []
  deriving DecidableEq, Repr

/-- A pending arm, or one that a release has taken (R372, R375). -/
structure Arm where
  tag    : BitVec 32
  route  : Route
  epoch  : Word
  buddy  : BitVec 8
  mirror : Bool
  exported : Bool
  gen    : Option (BitVec 32)
  deriving DecidableEq, Repr

/-- A job of the Hamper controller over a generation's extents: checkpoint write, mirror, restore or
a copy out (R373, R376, R382, R383). -/
structure HJob where
  gen    : BitVec 32
  next   : Nat
  tag    : BitVec 32
  route  : Route
  base   : Nat
  host   : Bool
  since  : Nat
  paused : Bool
  failed : Option (BitVec 8)
  deriving DecidableEq, Repr

/-- The Hamper (R354-R388): state 0 offline, 1 ready, 2 writing, 3 restoring, 4 read-only. The open stripe is number `stripe`, at page
`fill` of the open blocks; `slot` of its data pages are programmed, for the generation of key `owner` (R357). `wearAt` is when a
block was last moved for wear (R360). -/
structure Hamper where
  state    : BitVec 3 := 0
  gens     : Table Gen := []
  mirrors  : Table Gen := []
  journal  : List JRec := []
  jnum     : BitVec 32 := 0
  blocks   : Table Block := []
  refresh  : List Nat := []
  age      : BitVec 6 := 30
  soft     : Tally := {}
  lost     : Tally := {}
  bytesW   : Nat := 0
  bytesR   : Nat := 0
  grownBad : BitVec 32 := 0
  lifeW    : Nat := 0
  energy   : Nat := 0
  cap      : Nat := 0
  nextGen  : BitVec 32 := 1
  arm      : Option Arm := none
  takenArms : List Arm := []
  write    : Option HJob := none
  mirrorTx : Option HJob := none
  mirrorRx : Option (BitVec 32) := none
  restore  : Option HJob := none
  copyOut  : Option HJob := none
  background : Bool := false
  wearAt   : Option Nat := none
  stripe   : Nat := 0
  openBlocks : List Nat := []
  fill     : Nat := 0
  slot     : Nat := 0
  owner    : Nat := 0
  faultAfter : Bool := false
  eccAfter : Bool := false
  releaseEpoch : Word := 0
  deriving DecidableEq, Repr

/-! ### Host link and firmware -/

/-- An entry waiting for the completion ring (R403): kind 1, 2 or 3 and its bytes 1-55. -/
structure RingEntry where
  kind   : BitVec 8
  status : BitVec 8
  code   : BitVec 16
  tag    : BitVec 32
  detail : Word
  fec    : Word
  body   : BitVec 256
  deriving DecidableEq, Repr

/-- A reply (R402). -/
structure Reply where
  tag     : BitVec 32
  status  : BitVec 8
  opcode  : BitVec 16
  detail  : Word
  fec     : Word
  members : BitVec 32
  result  : List Word
  data    : List Byte
  deriving DecidableEq, Repr

/-- What the module puts on its links and pins, newest last: the observable output of its engines. -/
inductive Out where
  | container (l : StrandId) (c : Container)
  | qfrag (port : Fin 8) (vc : Fin 2) (m : QMsg)
  | barrier (l : StrandId) (up : Bool) (m : BarrierMsg)
  | linkTable (l : StrandId) (entry : BitVec 16)
  | linkMode (l : StrandId) (entry : BitVec 16) (frame : BitVec 32)
  | linkCredit (port : Fin 8) (vc : Fin 2) (n : BitVec 8)
  | spareRequest (port : Fin 8) (lane : Fin 16)
  | spareSwitch (port : Fin 8) (lane : Fin 16) (n : BitVec 32)
  | strandFailed (l : StrandId)
  | hello (port : Fin 8) (m : HelloSym)
  | probe (port : Fin 8) (count : BitVec 8)
  | coord (port : Fin 8) (c : Coords) (n : Extents)
  | discDone (port : Fin 8)
  | time (l : StrandId) (m : TimeSym)
  | quench (port : Fin 8) (q : QuenchMsg)
  | unquench (port : Fin 8) (slice : BitVec 6) (number : BitVec 16)
  | path (qtype : BitVec 8) (l : StrandId) (m : PathMsg)
  | circuit (l : StrandId) (cw : List Byte)
  | host (op : BitVec 6) (txid : BitVec 12) (addr : Nat) (resp : BitVec 4) (poison : Bool) (state : BitVec 2) (d : List Byte)
  | nak (seq : BitVec 12)
  | mctp (endpoint : BitVec 8) (r : Reply)
  | mctpEvent (endpoint : BitVec 8) (e : RingEntry)
  | smbus (v : Word)
  | pulse
  deriving DecidableEq, Repr

/-- What the CT-1 writes into the window in two steps, the data and then the word that marks it (R395, R403): a reply, or
a ring entry. -/
inductive PostKind where
  | reply (k : Fin 64) (r : Reply)
  | entry (e : RingEntry)
  deriving DecidableEq, Repr

/-- Data written whose `CMP`s are awaited (R395). -/
structure Post where
  need : List (BitVec 12)
  what : PostKind
  deriving DecidableEq, Repr

/-- The Vorkiux Link and the command window (R389-R403): `replies` are written and not read, `replyQ` not written yet,
`posts` written but for the word that marks them; `lines` is the host-line cache, `asked` the requests to the host in
flight by txid, address and op, `toAsk` the ranges of host memory still to be asked for, `snooped` the snoops in flight by
txid, line and op, `waitQ` the messages that wait for the link or a credit, and `held` the line requests that wait for a
place in a snoop filter. -/
structure Vkx where
  base     : BitVec 36 := 0
  en       : Bool := false
  order    : BitVec 5 := 0x0A
  speed    : BitVec 8 := 0
  lanes    : BitVec 8 := 0
  state    : BitVec 3 := 0
  replayCnt : Nat := 0
  crcErr   : Tally := {}
  retrain  : Tally := {}
  lost     : Tally := {}
  evLost   : Tally := {}
  timeout  : BitVec 32 := 0x00989680
  rxSeq    : BitVec 12 := 0xFFF
  txSeq    : BitVec 12 := 0
  unacked  : List (BitVec 12) := []
  nakSeq   : BitVec 12 := 0
  naks     : Nat := 0
  badTrains : Nat := 0
  reqCredit : Nat := 0
  snpCredit : Nat := 0
  rspCredit : Nat := 0
  datCredit : Nat := 0
  tail     : Word := 0
  head     : Word := 0
  events   : List RingEntry := []
  comps    : List RingEntry := []
  lostSince : Nat := 0
  replies  : List (Fin 64 × Reply) := []
  replyQ   : List (Fin 64 × Reply) := []
  lines    : List (Nat × BitVec 2) := []
  asked    : List (BitVec 12 × Nat × BitVec 6) := []
  toAsk    : List (Nat × Nat) := []
  nextTx   : BitVec 12 := 0
  posts    : List Post := []
  nakRxSeq : BitVec 12 := 0
  nakRx    : Nat := 0
  waitQ    : List Out := []
  snooped  : List (BitVec 12 × Nat × BitVec 6) := []
  held     : List (BitVec 6 × HostReq) := []
  deriving DecidableEq, Repr

/-- The device states (R410). -/
inductive DevState where
  | boot | selftest | linkup | idle | loaded | running | paused | checkpoint | restore | faulted | safe
  deriving DecidableEq, Repr

/-- A completion record (R21, R418): kind 1 tile, 2 collective, 3 Hamper, 4 command. -/
structure Record where
  kind   : BitVec 8
  done   : Bool
  space  : BitVec 8
  reason : BitVec 8
  who    : BitVec 32
  number : BitVec 32
  detail : Word
  fec    : Word
  deriving DecidableEq, Repr

/-- A command taken and not yet replied, or accepted and not yet completed (R404, R409). -/
structure PendCmd where
  opcode : BitVec 16
  p      : Packet
  deriving DecidableEq, Repr

/-- The answer of a member (R27). -/
structure Answer where
  status : BitVec 8
  detail : Word
  result : List Word := []
  data   : List Byte := []
  deriving DecidableEq, Repr

/-- A group command, or a forwarded packet, whose members' answers are awaited (R27, R408): the members' ordinals and unit
paths with their answers, whether the answers are to the execution, whether the command has been replied, how many member
records have come for it from the module to which it was forwarded and gone on, those that wait for a reply over MCTP to go
first (R408), and the slice that is its one member (R29). -/
structure Gather where
  opcode  : BitVec 16
  p       : Packet
  forward : Bool
  exec    : Bool
  replied : Bool
  answers : List (Nat × Word × Option Answer)
  records : Nat := 0
  late    : List RingEntry := []
  unit    : Option Word := none
  deriving DecidableEq, Repr

/-- A firmware or Slath slot of the SPI NOR flash (R420, R432): its bytes and the retired mark. -/
structure FlashSlot where
  bytes   : List Byte := []
  retired : Bool := false
  deriving DecidableEq, Repr

/-- Firmware, start-up, commands and the ledger report. -/
structure Firm where
  state    : DevState := .boot
  cause    : BitVec 8 := 0
  failedPhase : BitVec 4 := 0
  phase    : BitVec 4 := 0
  resetCause : BitVec 4 := 0
  notes    : BitVec 6 := 0
  bootMs   : BitVec 32 := 0
  bootStart : Nat := 0
  detail   : Word := 0
  mode     : BitVec 2 := 0
  held     : Bool := false
  holdOver : Bool := false
  image    : BitVec 2 := 2
  fwSlot   : Bool := false
  factory  : Bool := false
  measure  : BitVec 512 := 0
  fwVersion : BitVec 32 := 0
  fwSec    : BitVec 6 := 0
  fwReady  : Bool := false
  slathVersion : BitVec 32 := 0
  slathDigest : BitVec 512 := 0
  slath    : Table Nat := []
  slath0   : FlashSlot := {}
  slath1   : FlashSlot := {}
  fw0      : FlashSlot := {}
  fw1      : FlashSlot := {}
  writing  : Option (PendCmd × Nat × List Byte) := none
  ledger   : List Record := []
  records  : List Record := []
  groups   : Table (List Word) := []
  absent   : Table Tally := []
  taken    : List PendCmd := []
  accepted : List PendCmd := []
  cut      : List PendCmd := []
  gathers  : List Gather := []
  mctpOpen : Nat := 0
  endpoint : BitVec 8 := 0
  resetTag : Option PendCmd := none
  pendingReset : Option (BitVec 2) := none
  draining : Option DevState := none
  faultCause : BitVec 8 := 0
  pausing  : Bool := false
  deriving DecidableEq, Repr

/-! ### Physical -/

/-- Power, cooling and the standby domain (R442-R454). -/
structure Phys where
  vin      : BitVec 16 := 0
  pin      : BitVec 12 := 0
  p1cause  : BitVec 8 := 0
  rail     : BitVec 4 := 0
  tripFlow : Bool := false
  tripPower : Bool := false
  tripThermal : Bool := false
  mainOn   : Bool := false
  pin100   : BitVec 16 := 0
  pin10    : BitVec 16 := 0
  tj       : BitVec 8 := 0
  inlet    : BitVec 8 := 0
  flowDem  : BitVec 3 := 0
  powerDem : BitVec 3 := 0
  thermalDem : BitVec 3 := 0
  throttledNs : Nat := 0
  powerRise : Option Nat := none
  resetN   : Bool := false
  pwrGood  : Bool := false
  flowOk   : Bool := false
  thermtripN : Bool := true
  tripped  : Bool := false
  deriving DecidableEq, Repr

/-! ### The die -/

/-- One CT-1 module. -/
structure State where
  /-- commands that wait, first in first out: the model's own queue -/
  pending  : List Instr
  /-- DIE.GRADE grade code (R1) -/
  grade    : BitVec 4
  /-- FAB.SERIAL (R308) -/
  serial   : Word
  /-- DIE.TRUST fuses (R427) -/
  trust    : BitVec 8
  /-- HAMPER.BLOCKS.factory_bad (R388) -/
  factoryBad : BitVec 32
  time     : Time
  firm     : Firm
  /-- device tiles (R22) by number -/
  tiles    : Table Tile
  /-- set-aside contexts (R33) by program tile -/
  saved    : Table Context
  /-- their save slots (R33), by program tile: the slot's number and 1 -/
  slots    : Table Nat
  /-- the loaded program, if any (R413) -/
  prog     : Option Prog
  /-- cluster counters (R310), keyed 32 c + i -/
  cluster  : Table (BitVec 16)
  /-- die counters (R310) -/
  dieSync  : Table (BitVec 16)
  /-- the sample table (R213) -/
  samples  : Table Sample
  /-- DIE.SAMPLES_CLOSED (R220) -/
  closed   : Nat
  /-- the die block overflow log, oldest first (R206) -/
  ovfLog   : List OvfEntry
  ovfOver  : BitVec 16
  ovfSat   : Bool
  /-- the Nutmeg steps whose norm overflow event has been raised (R210) -/
  normStep : List (BitVec 32)
  /-- barrier trees (R318) -/
  trees    : Table Tree
  mem      : Memory
  fab      : Fabric
  /-- axis collective engines (R324) -/
  ces      : Table Engine
  hamper   : Hamper
  vkx      : Vkx
  phys     : Phys
  /-- what the module has sent, newest last: the model's own record of its outputs -/
  out      : List Out
  /-- the model's own count of free values drawn (log 4) -/
  free     : Nat
  deriving DecidableEq, Repr

/-- The machine right after power has been applied and before start-up phase 1 (R410: `BOOT`), every
register at its reset value. The grade is CKL-CT1-64Q and the serial number 1 (log 1). -/
def State.reset : State where
  pending := []
  grade := 1
  serial := 1
  trust := 0
  factoryBad := 0
  time := {}
  firm := {}
  tiles := []
  saved := []
  slots := []
  prog := none
  cluster := []
  dieSync := []
  samples := []
  closed := 0
  ovfLog := []
  ovfOver := 0
  ovfSat := false
  normStep := []
  trees := []
  mem := {}
  fab := { lowest := 1 }
  ces := []
  hamper := {}
  vkx := {}
  phys := {}
  out := []
  free := 0

end Sys2Proof.Machine
end

