-- ==== Sys2Proof/Config.lean ====
section
/-! DEFINITION. What an implementation fixes and the values that the manual leaves open. A constant without a
body is a free value: nothing in Lean evaluates it, and a statement holds whatever it is. -/

namespace Sys2Proof.Config

/-- Free values (log 4), drawn with the counter `State.free`: for example which bytes of a FAILED descriptor's
destination were written (R138). -/
opaque freeValue : Nat → Word

/-- The temperature of an HBM stack in °C at an arithmetic cycle (R265): a measurement (log 86). -/
opaque stackTemp : Nat → Nat → BitVec 8

/-- ML-DSA-87 verification (R431): public key, message digest and signature. The algorithm is public and its key
material is not in the manual (log 7). -/
opaque verify : List Byte → List Byte → List Byte → Bool

/-- The device identity key's signature over a digest, 4,627 bytes (R431, R434; log 7). -/
opaque identitySign : List Byte → List Byte

/-- The public half of the device identity key, 2,592 bytes (R431; log 7). -/
opaque identityKey : List Byte

/-- The configuration key that verifies Slath images (R431; log 7). -/
opaque configKey : List Byte

/-- The SHA3-512 digests of ROM firmware keys 0 and 1 (R431; log 7). -/
opaque romKeyDigest : Nat → List Byte

/-- The owner key digest of the fuse block (R434; log 7). -/
opaque ownerKeyDigest : List Byte

/-- The SHA3-512 digest of the Saffron configuration (R434; log 7). -/
opaque saffronDigest : List Byte

/-- The measurement of the factory firmware (R426, R434; log 7). -/
opaque factoryDigest : List Byte

/-- The version numbers of the Saffron configuration and of the factory firmware that `DEV_INFO` returns (R412;
log 7). -/
opaque saffronVersion : BitVec 32

/-- The bytes of a context image, 4,160 KiB (R30, R368): the manual gives its parts, not their layout (log 18). -/
opaque contextImage : Machine.Context → List Byte

/-- The context that an image holds (log 18). -/
opaque imageContext : List Byte → Option Machine.Context

/-- The bytes of a die state image (R368; log 18). -/
opaque dieImage : Machine.DieImage → List Byte

/-- The die state that an image holds (log 18). -/
opaque imageDie : List Byte → Option Machine.DieImage

/-- The 480 B of LDPC parity over the other 4,128 B of a flash codeword (R356): the manual gives no code (log 92). -/
opaque ldpcParity : List Byte → BitVec 3840

end Sys2Proof.Config
end

