-- ==== Sys2Proof/Machine/Store.lean ====
section
/-! DEFINITION. The operations on the sparse tables in which the state is held, and byte order (R41).
An unlisted key reads as the table's default `d`; a write of the default removes the entry, so equal
contents are equal data. -/

namespace Sys2Proof.Machine

variable {α : Type}

/-- The value at key `k`, or the default. -/
def rd (d : α) : Table α → Nat → α
  | [], _ => d
  | (k', v) :: t, k => if k = k' then v else rd d t k

/-- An entry put in its place among rising keys. -/
def insKey (k : Nat) (v : α) : Table α → Table α
  | [] => [(k, v)]
  | (k', v') :: t => if k < k' then (k, v) :: (k', v') :: t else (k', v') :: insKey k v t

/-- A table without key `k`. -/
def delKey (k : Nat) : Table α → Table α
  | [] => []
  | (k', v') :: t => if k = k' then delKey k t else (k', v') :: delKey k t

/-- The table with `v` at `k`. -/
def wr [DecidableEq α] (d : α) (t : Table α) (k : Nat) (v : α) : Table α :=
  if v = d then delKey k t else insKey k v (delKey k t)

/-- The table with the value at `k` changed by `f`. -/
def upd [DecidableEq α] (d : α) (t : Table α) (k : Nat) (f : α → α) : Table α :=
  wr d t k (f (rd d t k))

/-- The canonical form: strictly rising keys, all above `lo`, and no default value. -/
def wfFrom [DecidableEq α] (d : α) : Option Nat → Table α → Bool
  | _, [] => true
  | lo, (k, v) :: t =>
    (match lo with | none => true | some l => decide (l < k)) && decide (v ≠ d) && wfFrom d (some k) t

/-- The canonical form of a table. -/
def tableWf [DecidableEq α] (d : α) (t : Table α) : Bool := wfFrom d none t

/-- The bytes from key `a` on. -/
def rdBytes (t : Table Byte) (a n : Nat) : List Byte := (List.range n).map fun i => rd 0 t (a + i)

/-- The table with the bytes written from key `a` on. -/
def wrBytes (t : Table Byte) (a : Nat) : List Byte → Table Byte
  | [] => t
  | b :: bs => wrBytes (wr 0 t a b) (a + 1) bs

/-- Entries whose key lies in `[a, a + n)` read as the default again. -/
def clearRange (t : Table α) (a n : Nat) : Table α := t.filter fun e => !(a ≤ e.1 && e.1 < a + n)

/-- The entries of `[a, a + n)`, keys counted from `a`. -/
def sliceRange (t : Table α) (a n : Nat) : Table α :=
  (t.filter fun e => a ≤ e.1 && e.1 < a + n).map fun e => (e.1 - a, e.2)

/-- A little-endian number (R41). -/
def leNat : List Byte → Nat
  | [] => 0
  | b :: bs => b.toNat + 256 * leNat bs

/-- `n` as `k` little-endian bytes (R41). -/
def natLe : Nat → Nat → List Byte
  | 0, _ => []
  | k + 1, n => BitVec.ofNat 8 n :: natLe k (n / 256)

/-- The little-endian number in the `n` bytes from key `a` on. -/
def rdNat (t : Table Byte) (a n : Nat) : Nat := leNat (rdBytes t a n)

/-- The table with `v` written as `n` little-endian bytes from key `a` on. -/
def wrNat (t : Table Byte) (a n v : Nat) : Table Byte := wrBytes t a (natLe n v)

/-- A set of numbers as a rising list: `k` put in. -/
def insNat (k : Nat) : List Nat → List Nat
  | [] => [k]
  | x :: t => if k < x then k :: x :: t else if k = x then x :: t else x :: insNat k t

/-- A set of numbers without those of `[a, a + n)`. -/
def dropRange (l : List Nat) (a n : Nat) : List Nat := l.filter fun x => !(a ≤ x && x < a + n)

/-- Is some number of the set in `[a, a + n)`? -/
def anyRange (l : List Nat) (a n : Nat) : Bool := l.any fun x => a ≤ x && x < a + n

/-- The elements of a list in `[i, i + n)`. -/
def sub (l : List α) (i n : Nat) : List α := (l.drop i).take n

/-- The element at a place, or a default. -/
def nth (d : α) : List α → Nat → α
  | [], _ => d
  | x :: _, 0 => x
  | _ :: t, n + 1 => nth d t n

/-- A list with the element at a place changed. -/
def setNth : List α → Nat → α → List α
  | [], _, _ => []
  | _ :: t, 0, v => v :: t
  | x :: t, n + 1, v => x :: setNth t n v

/-- Split into groups of `k` elements, `fuel` of them at most. -/
def chunks (k : Nat) : Nat → List α → List (List α)
  | 0, _ => []
  | _, [] => []
  | n + 1, l => l.take k :: chunks k n (l.drop k)

/-- Bits `[lo + n - 1 : lo]` of a number. -/
def bitsN (x lo n : Nat) : Nat := x / 2 ^ lo % 2 ^ n

/-- Bit `i` of a number. -/
def bitN (x i : Nat) : Bool := x.testBit i

/-- A truth value as a bit. -/
def bn (b : Bool) : Nat := if b then 1 else 0

end Sys2Proof.Machine
end

