-- ==== Sys2Proof/Machine/Arrays.lean ====
section
/-! DEFINITION. The scratchpad's banks (R221-R224) and the flow of array instructions, cycle by cycle: accumulator sets, Withy buffers
and lag, feeders, the drain plane and its writer (R91, R98, R100-R104, R107, R119). -/

namespace Sys2Proof.Machine

/-! ### Banks (R221) -/

/-- The bank of a scratchpad address. -/
def bankOf (a : Nat) : Nat := a / 64 % 32
/-- The bank row of a scratchpad address. -/
def bankRow (a : Nat) : Nat := a / 2 ^ 14 % 256
/-- The word within the row of a scratchpad address. -/
def rowWord (a : Nat) : Nat := a / 2 ^ 11 % 8
/-- The address of a bank word: word `w` of row `r` of bank `b`. -/
def bankAddr (b r w : Nat) : Nat := r * 2 ^ 14 + w * 2 ^ 11 + b * 64

/-- The word indices of a request's bytes, ascending (R222). -/
def wordsOf (rs : List (Nat × Nat)) : List Nat :=
  rs.foldl (fun l r => if r.2 = 0 then l
    else ((List.range ((r.1 + r.2 - 1) / 64 + 1 - r.1 / 64)).map (· + r.1 / 64)).foldl (fun l w => insNat w l) l) []

/-! ### Grants (R104, R223) -/

/-- The masters of the scratchpad: the feeder of an array's A or B edge, an array's drain writer, the DMA engine, the vector unit, a
window access that has waited some cycles, patrol scrub. -/
inductive Master where
  | feeder (array : Nat) (isB : Bool)
  | drain (array : Nat)
  | dma
  | vector
  | window (waited : Nat)
  | scrub
  deriving DecidableEq, Repr

/-- The rank of a master, the first to be granted lowest (R104, R223). -/
def rankOf : Master → Nat
  | .feeder n isB => 2 * n + bn isB
  | .drain n => 8 + n
  | .window w => if 256 ≤ w then 12 else 15
  | .dma => 13
  | .vector => 14
  | .scrub => 16

/-- A request of a master: word indices. -/
abbrev Request := Master × List Nat

/-- A request among others in the order of their ranks. -/
def insRequest (r : Request) : List Request → List Request
  | [] => [r]
  | x :: t => if rankOf r.1 < rankOf x.1 then r :: x :: t else x :: insRequest r t

/-- What a request presents in one cycle: of two different words of one bank the lower (R223). -/
def firstPart (ws : List Nat) : List Nat := ws.filter fun w => ws.all fun v => !(v % 32 = w % 32 && decide (v < w))

/-- One cycle's grants: what is left of each request, and the banks taken. A request is granted only whole (R223). -/
def grantAll : List Request → List Nat → List Request
  | [], _ => []
  | (m, ws) :: rest, taken =>
    let now := firstPart ws
    if now.any fun w => taken.contains (w % 32) then (m, ws) :: grantAll rest taken
    else (m, ws.filter fun w => !now.contains w) :: grantAll rest (taken ++ now.map (· % 32))

/-- The grants of a cycle over requests in any order. -/
def grantCycle (rs : List Request) : List Request := grantAll (rs.foldl (fun l r => insRequest r l) []) []

/-- What is left of a master's request: empty where it was granted. -/
def leftOf (rs : List Request) (m : Master) : List Nat := ((rs.find? fun r => r.1 == m).map (·.2)).getD []

/-- The cycles that a request takes alone: of the words of each bank one a cycle (R223). -/
def splitCycles (ws : List Nat) : Nat :=
  (List.range 32).foldl (fun n b => max n (ws.filter fun w => w % 32 = b).length) 0

/-- The parts in which a split request is served. -/
def splitParts : Nat → List Nat → List (List Nat)
  | 0, _ => []
  | _, [] => []
  | n + 1, ws => firstPart ws :: splitParts n (ws.filter fun w => !(firstPart ws).contains w)

/-! ### Feeders (R93-R96, R100) -/

/-- The feed word that an edge reads in the `c`-th cycle of a pass. -/
def wordAt (e : EdgeFeed) (c : Nat) : Option Nat :=
  let w := if e.pace = 0 then some c
    else if e.pace = 1 then (if c % 2 = 0 then some (c / 2) else none)
    else if c ≤ 63 then some c else if c % 2 = 1 then some ((c + 63) / 2) else none
  w.bind fun w => if w < e.words then some w else none

/-- The words that an edge reads in a cycle of a pass: those of its planes and an exponent word. -/
def passReads (e : EdgeFeed) (q c : Nat) : List Nat :=
  (match wordAt e c with
   | some w => (nth [] e.planes q).map fun a => a / 64 + w
   | none => []) ++
  (match e.exps with
   | some (a, n, every) => if c % every = 0 && c / every < n then [a / 64 + c / every] else []
   | none => [])

/-- Is an instruction's flow over in cycle `x`? -/
def flowOver (f : Feed) (x : Nat) : Bool := match f.done with | some c => decide (c ≤ x) | none => false

/-- The words that an instruction's edge reads in cycle `x` (R100: two passes or instructions overlap). -/
def edgeReads (f : Feed) (e : EdgeFeed) (x : Nat) : List Nat :=
  if !e.on || flowOver f x then []
  else (List.range f.passes).flatMap fun q =>
    let s := f.start + q * f.gap - e.lead
    if s ≤ x && x ≤ s + 2 * (f.len + 64) then passReads e q (x - s) else []

/-- The words of an array's edge in cycle `x`, those refused before among them. -/
def feederWords (u : ArrayUnit) (isB : Bool) (x : Nat) : List Nat :=
  (u.feeds.flatMap fun f => edgeReads f (if isB then f.b else f.a) x).foldl (fun l w => insNat w l) (if isB then u.leftB else u.leftA)

/-- The instruction that an edge's feeder reads for. -/
def readerOf (u : ArrayUnit) (isB : Bool) (x : Nat) : Option Feed :=
  match u.feeds.find? fun f => !(edgeReads f (if isB then f.b else f.a) x).isEmpty with
  | some f => some f
  | none => u.feeds.getLast?

/-! ### Lane buffers (R102, R103) -/

/-- Tokens of lane 0 that an instruction's feeder has written by the end of cycle `x`: its schedule is fixed at issue (R103). -/
def written (f : Feed) (x : Nat) : Nat :=
  if x < f.start + 3 then 0
  else
    let d := x - (f.start + 3) + 1
    min (d / f.gap * f.len + min (d % f.gap) f.len) (f.passes * f.len)

/-- Tokens of lane 0 that cell (0, 0) has taken. -/
def takenOf (f : Feed) : Nat := f.pass * f.len + f.taken

/-- The occupancy of the lane buffers at the end of cycle `x` (R103). -/
def occupancyAt (u : ArrayUnit) (x : Nat) : Nat := u.feeds.foldl (fun n f => n + (written f x - takenOf f)) 0

/-- Does the feeder write a token in cycle `x`? For which instruction. -/
def writerAt (u : ArrayUnit) (x : Nat) : Option Feed :=
  if x = 0 then none else u.feeds.find? fun f => written f (x - 1) < written f x

/-- Entries of a lane, drain or gang link buffer (R102). -/
def withyDepth : Nat := 16

/-- The set that an instruction's pass uses (R91). -/
def setOf (f : Feed) (q : Nat) : Fin 2 := if q % 2 = 0 then f.set else 1 - f.set

/-- The cycle from which a set is free, none while it is held. -/
def freeOf (u : ArrayUnit) (k : Fin 2) : Option Nat := if k = 0 then u.free0 else u.free1

/-- An array with a set freed or held. -/
def setFree (u : ArrayUnit) (k : Fin 2) (c : Option Nat) : ArrayUnit := if k = 0 then { u with free0 := c } else { u with free1 := c }

/-- The first instruction of which cell (0, 0) has still to form a product. -/
def forming (u : ArrayUnit) : Option Feed := u.feeds.find? fun f => f.pass < f.passes

/-- The array's instructions with one changed. -/
def modFeed (u : ArrayUnit) (f : Feed) (g : Feed → Feed) : ArrayUnit :=
  { u with feeds := u.feeds.map fun h => if h.stream == f.stream && h.seq == f.seq && h.owner = f.owner then g h else h }

/-- The tokens of the next product are due (R98). -/
def tokenDue (f : Feed) (x : Nat) : Bool := f.start + 4 + f.pass * f.gap + f.taken ≤ x

/-- Does the next product open a set: the first of a pass that continues no chain (R73, R91, R101)? -/
def opensSet (f : Feed) : Bool := f.taken = 0 && !(f.cont && f.pass = 0)

/-- May cell (0, 0) form the next product in cycle `x`: no late token, and a free set where it opens one (R101, R102, R104)? -/
def mayForm (u : ArrayUnit) (f : Feed) (x : Nat) : Bool :=
  u.full.isNone && !u.late.contains x &&
    (!opensSet f || match freeOf u (setOf f f.pass) with | some c => decide (c ≤ x) | none => false)

/-- The end of a pass: its set goes to the drain plane 128 cycles on, unless a chain keeps it (R98, R101, R142). -/
def endPass (u : ArrayUnit) (f : Feed) (x : Nat) : ArrayUnit :=
  let last := f.pass + 1 = f.passes
  if last && !f.out then modFeed u f fun h => { h with pass := h.pass + 1, taken := 0, done := some (x + 127) }
  else
    let d : Drain := { row := { stream := f.stream, seq := f.seq, owner := f.owner, charge := f.charge, ready := x + 128, words := [], last := last },
                       set := setOf f f.pass, lat := f.lat, rows := if last then f.rows else [] }
    { modFeed u f fun h => { h with pass := h.pass + 1, taken := 0 } with drains := u.drains ++ [d] }

/-- Cell (0, 0) forms a product in cycle `x`. -/
def formProduct (u : ArrayUnit) (f : Feed) (x : Nat) : ArrayUnit :=
  let u := if opensSet f then setFree u (setOf f f.pass) none else u
  if f.taken + 1 = f.len then endPass u f x else modFeed u f fun h => { h with taken := h.taken + 1 }

/-! ### The drain (R98, R104) -/

/-- The rows that wait for the drain writer in cycle `x`. -/
def waitingRows (u : ArrayUnit) (x : Nat) : Nat := (u.fifo.filter fun r => r.ready ≤ x).length

/-- The drain writer's request in cycle `x`. -/
def drainWords (u : ArrayUnit) (x : Nat) : List Nat :=
  match u.fifo with
  | r :: _ => if r.ready ≤ x then r.words else []
  | [] => []

/-- The writer's row is written, or what is left of it waits; the item's last row ends its flow (R98). -/
def writeRow (u : ArrayUnit) (x : Nat) (left : List Nat) : ArrayUnit :=
  match u.fifo with
  | r :: rest =>
    if x < r.ready then u
    else if left.isEmpty then
      let u := { u with fifo := rest }
      if r.last then { u with feeds := u.feeds.map fun h =>
          if h.stream == r.stream && h.seq == r.seq && h.owner = r.owner then { h with done := some (x + 1) } else h }
      else u
    else { u with fifo := { r with words := left } :: rest }
  | [] => u

/-- The drain plane shifts a row into the column buffers, unless they are full; emptied, it loads the next completed set, which
frees that set in every cell (R98, R101, R104). -/
def stepPlane (u : ArrayUnit) (x : Nat) : ArrayUnit :=
  match u.plane with
  | some d =>
    if withyDepth ≤ waitingRows u x then u
    else
      let n := 64 - d.row.ready
      let r : DrainRow := { d.row with ready := x + d.lat, words := nth [] d.rows n, last := d.row.last && d.row.ready = 1 }
      { u with fifo := u.fifo ++ [r],
               plane := if d.row.ready = 1 then none else some { d with row := { d.row with ready := d.row.ready - 1 } } }
  | none =>
    match u.drains with
    | d :: rest =>
      -- `ready` of a loaded plane counts its rows
      if d.row.ready ≤ x then
        setFree { u with drains := rest, plane := some { d with row := { d.row with ready := 64 } } } d.set (some (x + 1))
      else u
    | [] => u

/-! ### One cycle of a tile -/

/-- A high-water mark (R119). -/
def mark (m : BitVec 5) (n : Nat) : BitVec 5 := if m.toNat < n then BitVec.ofNat 5 (min n 16) else m

/-- The physical array of a program array: itself, or the next healthy one in ascending cyclic order (R116). -/
def physOf (fenced : BitVec 4) (n : Nat) : Nat :=
  (((List.range 4).map fun i => (n + i) % 4).find? fun a => !fenced.getLsbD a).getD n

/-- The array has an instruction in flow in cycle `x`. -/
def flowing (u : ArrayUnit) (x : Nat) : Bool :=
  u.full.isNone && (u.feeds.any (fun f => !flowOver f x) || !u.drains.isEmpty || u.plane.isSome || !u.fifo.isEmpty)

/-- The cells of an array are within the 126 cycles over which a product, or a wait, of cell (0, 0) spreads (R98, R101). -/
def spreads (c : Option Nat) (x : Nat) : Bool := match c with | some c => decide (x ≤ c + 126) | none => false

/-- One array in cycle `x`, after the grants: what is left of its requests, and whether a cell that was due waited. -/
def stepArray (u : ArrayUnit) (x : Nat) (leftA leftB leftD : List Nat) : ArrayUnit × Bool × Bool :=
  let lateOf := fun (isB : Bool) (l : List Nat) => match readerOf u isB x with
    | some f => if l.isEmpty then [] else [x + 4 + (if isB then f.b.lead else f.a.lead)]
    | none => []
  let u := { u with late := (u.late.filter (x ≤ ·)) ++ lateOf false leftA ++ lateOf true leftB, leftA := leftA, leftB := leftB }
  let u := writeRow u x leftD
  let full := match writerAt u x with
    | some f => if withyDepth ≤ occupancyAt u (x - 1) then some (f.stream, f.seq, x) else none
    | none => none
  match full with
  | some e => ({ u with full := some e }, false, true)
  | none =>
    let r := match forming u with
      | some f =>
        if tokenDue f x then
          if mayForm u f x then (formProduct u f x, true, false) else (u, false, true)
        else (u, false, false)
      | none => (u, false, false)
    (stepPlane r.1 x, r.2.1, r.2.2)

/-- The registers of a physical array after a cycle in which one of its program arrays was in flow (R103, R119). -/
def stepPhys (x : Nat) (u : ArrayUnit) (formed waited : Bool) (y : PhysArray) : PhysArray :=
  let y := { y with formed := if formed then some x else y.formed, waited := if waited then some x else y.waited }
  let lag := if u.full.isSome then 16 else if (writerAt u x).isSome then occupancyAt u x - 1 else 0
  let edgeOn := fun (isB : Bool) => u.feeds.any fun f => (if isB then f.b.on else f.a.on)
  { y with busy := y.busy + bn (spreads y.formed x), stall := y.stall + bn (spreads y.waited x),
           a := if edgeOn false || !edgeOn true then mark y.a lag else y.a,
           b := if edgeOn true then mark y.b lag else y.b,
           drain := mark y.drain (waitingRows u x) }

/-- The neighbours of a gang in the tile lack their tokens one array later: 64 lanes and the link's cycle (R107). -/
def passWait (x : Nat) (f : Feed) (t : Table ArrayUnit) : Table ArrayUnit :=
  f.next.foldl (fun t n => upd {} t n fun u => { u with late := insNat (x + 65) u.late }) t

/-- Lost bank cycles of the feeders and drain writers, charged to the stream of each instruction (R224). -/
def charge (u : ArrayUnit) (x : Nat) (leftA leftB leftD : List Nat) (c : Table Nat) : Table Nat :=
  let add := fun (who : Option Nat) (l : List Nat) (c : Table Nat) => match who with
    | some k => if l.isEmpty then c else upd 0 c k (· + 1)
    | none => c
  add (u.fifo.head?.map (·.charge)) leftD
    (add ((readerOf u true x).map (·.charge)) leftB (add ((readerOf u false x).map (·.charge)) leftA c))

/-- The vector unit's access in cycle `x` (R222). -/
def vectorWords (v : VecUnit) (x : Nat) : List Nat :=
  match v.access with
  | (c, ws) :: _ => if c ≤ x then ws else []
  | [] => []

/-- The vector unit after a cycle: its access is made, or the started instruction loses the cycle (R168). -/
def stepVector (v : VecUnit) (x : Nat) (left : List Nat) : VecUnit :=
  match v.access with
  | (c, _) :: rest =>
    if x < c then v
    else if left.isEmpty then { v with access := rest }
    else { v with freeAt := v.freeAt + 1, busy := v.busy + 1, bankLoss := v.bankLoss + 1,
                  started := match v.started.reverse with
                    | i :: t => ({ i with due := i.due + 1 } :: t).reverse
                    | [] => [] }
  | [] => v

/-- A tile in cycle `x`: every request, the grants in their order, and what each array and the vector unit do (R98-R104, R223). -/
def stepUnits (x : Nat) (t : Tile) : Tile :=
  let at_ := fun n => rd {} t.arrays n
  let left := grantCycle (((List.range 4).flatMap fun n =>
      [(.feeder n false, feederWords (at_ n) false x), (.feeder n true, feederWords (at_ n) true x), (.drain n, drainWords (at_ n) x)])
    ++ [(.vector, vectorWords t.vec x)])
  let t := (List.range 4).foldl (fun (t : Tile) n =>
    let u := at_ n
    if !flowing u x then t
    else
      let la := leftOf left (.feeder n false)
      let lb := leftOf left (.feeder n true)
      let ld := leftOf left (.drain n)
      let r := stepArray (rd {} t.arrays n) x la lb ld
      let arrays := wr {} t.arrays n r.1
      { t with
        arrays := (match forming u with | some f => if r.2.2 then passWait x f arrays else arrays | none => arrays),
        phys := upd {} t.phys (physOf t.fenced n) (stepPhys x r.1 r.2.1 r.2.2),
        conflict := charge u x la lb ld t.conflict }) t
  { t with vec := stepVector t.vec x (leftOf left .vector) }

/-- The units of a tile in motion: an array in flow, or an access of the vector unit to come. -/
def unitsMove (x : Nat) (t : Tile) : Bool := t.arrays.any (fun e => flowing e.2 x) || !t.vec.access.isEmpty

/-- A tile's units over `n` cycles from cycle `x` on. -/
def runUnits (x : Nat) : Nat → Tile → Tile
  | 0, t => t
  | n + 1, t => if unitsMove x t then runUnits (x + 1) n (stepUnits x t) else t

end Sys2Proof.Machine
end

