-- ==== Sys2Proof/Machine/Numbers.lean ====
section
/-! DEFINITION. Exact values and the one rounding function (R49), the Nutmeg generator (R54) and the hash
functions of the CT-1. A magnitude is a fraction of two natural numbers. -/

namespace Sys2Proof.Machine

/-- The rounding modes (R49, R50). -/
inductive RMode where
  | rne | sr | rtz
  deriving DecidableEq, Repr

/-- The 2-bit rounding field (R50): 0b11 is reserved. -/
def rmodeOf (n : Nat) : RMode := if n = 1 then .sr else if n = 2 then .rtz else .rne

/-- round_mag (R49) of `num / den`. -/
def roundMag (num den : Nat) (mode : RMode) (r : Nat) : Nat :=
  let n := num / den
  let f := num % den
  if f = 0 then n
  else match mode with
    | .rtz => n
    | .rne => if den < 2 * f then n + 1 else if 2 * f < den then n else if n % 2 = 0 then n else n + 1
    | .sr => if r < f * 65536 / den then n + 1 else n

/-- `2 ^ e` for a possibly negative `e`, as numerator and denominator. -/
def pow2 (e : Int) : Nat × Nat := (2 ^ e.toNat, 2 ^ (-e).toNat)

/-- The floor of the binary logarithm of `n / d`, both positive. -/
def log2F (n d : Nat) : Int :=
  let g : Int := (Nat.log2 n : Int) - (Nat.log2 d : Int)
  let p := pow2 g
  if n * p.2 < d * p.1 then g - 1 else g

/-- Round `num / den` in units of `2 ^ q` (R49). -/
def roundAt (num den : Nat) (q : Int) (mode : RMode) (r : Nat) : Nat :=
  let p := pow2 q
  roundMag (num * p.2) (den * p.1) mode r

/-- Is `num / den` a multiple of `2 ^ q`? -/
def exactAt (num den : Nat) (q : Int) : Bool :=
  let p := pow2 q
  num * p.2 % (den * p.1) == 0

/-- A decoded element: an exact value, an infinity, a NaN with its payload in the 51-bit position of binary64
(R61), or poison (R48). -/
inductive Val where
  | fin (neg : Bool) (num den : Nat)
  | inf (neg : Bool)
  | nan (neg : Bool) (sig : Bool) (payload : Nat)
  | poison
  deriving DecidableEq, Repr

/-- The value `± m × 2 ^ e`. -/
def mkDy (neg : Bool) (m : Nat) (e : Int) : Val :=
  let p := pow2 e
  .fin neg (m * p.1) p.2

/-- The value of an integer. -/
def valInt (i : Int) : Val := .fin (decide (i < 0)) i.natAbs 1

/-- A signed numerator. -/
def sgn (neg : Bool) (n : Nat) : Int := if neg then -(n : Int) else n

/-- The sum of two exact values whose denominators are powers of two; an exact zero is positive (R180 sets its
sign apart). -/
def addFin (a : Bool × Nat × Nat) (b : Bool × Nat × Nat) : Bool × Nat × Nat :=
  let d := max a.2.2 b.2.2
  let n := sgn a.1 (a.2.1 * (d / a.2.2)) + sgn b.1 (b.2.1 * (d / b.2.2))
  (decide (n < 0), n.natAbs, d)

/-- Rotation of a 64-bit word. -/
def rotl (x : Word) (n : Nat) : Word := x <<< n ||| x >>> (64 - n)

/-- The rounds of the Nutmeg generator (R54). -/
def nutmegRounds : Nat → Word → Word → Word → Word × Word
  | 0, _, a, b => (a, b)
  | n + 1, k, a, b =>
    let a := a + (rotl b 13 ^^^ k)
    let b := rotl b 29 ^^^ a
    nutmegRounds n (k + 0x9E3779B97F4A7C15) a b

/-- The Nutmeg generator (R54). -/
def nutmeg (seed w1 c : Word) : Nat :=
  let p := nutmegRounds 8 seed c w1
  let z := p.1 ^^^ rotl p.2 32
  let z := (z ^^^ (z >>> 31)) * 0xC4D16A2B5E93F0A7
  let z := z ^^^ (z >>> 27)
  (z >>> 48).toNat

/-- The integer square root by `fuel` Newton steps from above. -/
def isqrtFrom : Nat → Nat → Nat → Nat
  | 0, _, x => x
  | f + 1, n, x => if x = 0 then 0 else
    let y := (x + n / x) / 2
    if y < x then isqrtFrom f n y else x

/-- The integer square root. -/
def isqrt (n : Nat) : Nat := if n = 0 then 0 else isqrtFrom (Nat.log2 n + 4) n (2 ^ (Nat.log2 n / 2 + 1))

/-- A reflected CRC with the given polynomial over bytes; `width` bits, from `crc`. -/
def crcBytes (poly : Nat) : List Byte → Nat → Nat
  | [], c => c
  | b :: bs, c =>
    crcBytes poly bs ((List.range 8).foldl (fun x _ => if x % 2 = 1 then (x / 2) ^^^ poly else x / 2) (c ^^^ b.toNat))

/-- A CRC whose register shifts left: polynomial and width, over bytes. -/
def crcLeft (poly width : Nat) : List Byte → Nat → Nat
  | [], c => c
  | b :: bs, c =>
    crcLeft poly width bs ((List.range 8).foldl
      (fun x _ => if x.testBit (width - 1) then (x * 2 % 2 ^ width) ^^^ poly else x * 2 % 2 ^ width)
      (c ^^^ (b.toNat * 2 ^ (width - 8))))

end Sys2Proof.Machine
end

