-- ==== Sys2Proof/Machine/Formats.lean ====
section
/-! DEFINITION. Formats and conversions (R39-R65). A format is its 4-bit code. -/

namespace Sys2Proof.Machine

/-- Element width of a format in bits (R39). -/
def fmtWidth : Nat → Nat
  | 0 => 8 | 1 => 4 | 2 => 16 | 3 => 16 | 4 => 32 | 5 => 64 | 6 => 8 | 7 => 16 | 8 => 32 | 9 => 64
  | 10 => 16 | 11 => 16 | 12 => 8 | 13 => 8 | _ => 8

/-- The block-scaled formats CK8, CK4 and B16 (R42). -/
def isBlk (f : Nat) : Bool := f < 3

/-- The short formats CK8, CK4, B16 and T16. -/
def isShort (f : Nat) : Bool := f < 4

/-- binary32 and binary64. -/
def isBin (f : Nat) : Bool := f == 4 || f == 5

/-- The INT formats. -/
def isInt (f : Nat) : Bool := 6 ≤ f && f ≤ 9

/-- The public formats (R62). -/
def isPublic (f : Nat) : Bool := 10 ≤ f && f ≤ 13

/-- Mantissa limit and fixed shift of a block-scaled format (R44). -/
def blkM (f : Nat) : Nat := if f = 0 then 127 else if f = 1 then 7 else 32767
/-- The fixed shift s (R44). -/
def blkS (f : Nat) : Nat := if f = 0 then 6 else if f = 1 then 2 else 14

/-- Block size of a format and its bs bit (R39). -/
def blkSize (bs : Bool) : Nat := if bs then 16 else 32

/-- R40: bs = 1 is reserved for a format with one block size of 32 or without blocks. -/
def bsReserved (f : Nat) (bs : Bool) : Bool := bs && 3 ≤ f

/-- R40: B16 with bs = 0. -/
def bsMismatch (f : Nat) (bs : Bool) : Bool := f == 2 && !bs

/-- Fraction and exponent widths of a binary or public format (R62). -/
def binP : Nat → Nat × Nat
  | 4 => (23, 8) | 5 => (52, 11) | 10 => (10, 5) | 11 => (7, 8) | 12 => (3, 4) | _ => (2, 5)

/-- The pattern that a poison element takes in a destination format (R48, R62). -/
def poisonBits : Nat → Nat
  | 0 => 0x80 | 1 => 8 | 2 => 0x8000 | 3 => 0x8000 | 4 => 0x7FC00080 | 5 => 0x7FF8000000000080
  | 10 => 0x7E00 | 11 => 0x7FC0 | 12 => 0x7F | 13 => 0x7E | _ => 0

/-- The canonical NaN of a binary or public format (R61, R62). -/
def canonNan : Nat → Nat
  | 4 => 0x7FC00000 | 5 => 0x7FF8000000000000 | f => poisonBits f

/-- A two's-complement number of `w` bits. -/
def sext (w x : Nat) : Int := if x.testBit (w - 1) then (x : Int) - 2 ^ w else x

/-- An integer as `w` bits. -/
def trunc (w : Nat) (i : Int) : Nat := (i % (2 ^ w : Nat)).toNat

/-- The value of a stored block-scaled element with exponent byte `e` (R44, R45). -/
def decBlk (f m e : Nat) : Val :=
  let w := fmtWidth f
  if m = 2 ^ (w - 1) then .poison
  else let v := sext w m
       mkDy (decide (v < 0)) v.natAbs ((e : Int) - 127 - blkS f)

/-- The value of a T16 element (R47). -/
def decT16 (x : Nat) : Val :=
  if x = 0x8000 then .poison
  else
    let e := bitsN x 8 7
    let fr := x % 256
    if e = 0 then mkDy (x.testBit 15) fr (-70) else mkDy (x.testBit 15) (256 + fr) ((e : Int) - 71)

/-- The value of a binary or public element (R61-R63). -/
def decBin (f x : Nat) : Val :=
  let (fb, eb) := binP f
  let e := bitsN x fb eb
  let fr := x % 2 ^ fb
  let s := x.testBit (fb + eb)
  let bias : Int := 2 ^ (eb - 1) - 1
  if isBin f && x = poisonBits f then .poison
  else if f = 12 then
    if e = 15 && fr = 7 then .nan s false 0
    else if e = 0 then mkDy s fr (1 - bias - fb) else mkDy s (2 ^ fb + fr) (e - bias - fb)
  else if e = 2 ^ eb - 1 then
    if fr = 0 then .inf s else .nan s (!fr.testBit (fb - 1)) (fr % 2 ^ (fb - 1) * 2 ^ (52 - fb))
  else if e = 0 then mkDy s fr (1 - bias - fb) else mkDy s (2 ^ fb + fr) (e - bias - fb)

/-- The value of an element: `e` is its block's exponent byte, `uns` the signedness of an INT lane. -/
def decVal (f x e : Nat) (uns : Bool) : Val :=
  if isBlk f then decBlk f x e
  else if f = 3 then decT16 x
  else if isInt f then valInt (if uns then x else sext (fmtWidth f) x)
  else decBin f x

/-- The outcome of one converted or rounded element: its bits and what it raises (R64, R189). -/
structure ERes where
  bits : Nat
  sat  : Bool := false
  uf   : Bool := false
  nf   : Bool := false
  pin  : Bool := false
  pout : Bool := false
  ovf  : Bool := false
  ieee : IeeeFlags := {}
  deriving DecidableEq, Repr

/-- Flags raised by either of two. -/
def ieeeOr (a b : IeeeFlags) : IeeeFlags :=
  ⟨a.fxsat || b.fxsat, a.invalid || b.invalid, a.divzero || b.divzero, a.overflow || b.overflow,
   a.underflow || b.underflow, a.inexact || b.inexact⟩

/-- What the elements of one instruction raise together, with flag blocks of `blk` elements (R64, R205). -/
def raisedOf (blk : Nat) (es : List ERes) : Raised :=
  let ovf := (List.range es.length).filter fun i => (nth { bits := 0 } es i).ovf
  { cvt := { poisonOut := es.any (·.pout), poisonIn := es.any (·.pin), underflow := es.any (·.uf),
             sat := es.any (·.sat), nonfinite := es.any (·.nf) },
    nonfinite := (es.filter (·.nf)).length,
    ieee := es.foldl (fun a e => ieeeOr a e.ieee) {},
    overflow := ((ovf.map (· / blk)).foldl (fun l k => insNat k l) []) }

/-- to_t16 (R58). -/
def toT16 (v : Val) (mode : RMode) (r : Nat) : ERes :=
  match v with
  | .poison => { bits := 0x8000, pout := true }
  | .nan .. => { bits := 0x7FFF, nf := true }
  | .inf s => { bits := if s then 0xFFFF else 0x7FFF, nf := true }
  | .fin s n d =>
    if n = 0 then { bits := 0 }
    else
      let lg := log2F n d
      let q : Int := if lg < -62 then -70 else lg - 8
      let k := roundAt n d q mode r
      let sb := bn s * 0x8000
      if k = 0 then { bits := 0, uf := true }
      else if q > 56 || (q = 56 && k > 511) then { bits := sb + 0x7FFF, sat := true, ovf := true }
      else
        -- (exp, frac) as one number: a carry out of the fraction moves the value into the next binade
        if lg < -62 then { bits := sb + k } else { bits := sb + ((lg + 62).toNat * 256 + k) }

/-- The derived exponent of to_block (R55) for the largest finite magnitude `n / d`. -/
def derivedExp (f n d : Nat) : Nat :=
  if n = 0 then 0
  else
    let e := log2F n d + 127
    let p := pow2 (127 + blkS f - e)
    let e := if n * p.1 > blkM f * (d * p.2) then e + 1 else e
    (min (max e 0) 255).toNat

/-- The larger of two magnitudes. -/
def maxMag (a b : Nat × Nat) : Nat × Nat := if a.1 * b.2 < b.1 * a.2 then b else a

/-- The largest finite magnitude of a block (R55). -/
def amax (xs : List Val) : Nat × Nat :=
  xs.foldl (fun a x => match x with | .fin _ n d => maxMag a (n, d) | _ => a) (0, 1)

/-- One element of to_block (R55) at exponent `e`. -/
def toBlkElem (f e : Nat) (mode : RMode) (x : Val) (r : Nat) : ERes :=
  let w := fmtWidth f
  let M := blkM f
  match x with
  | .poison => { bits := 2 ^ (w - 1), pout := true }
  | .nan .. => { bits := M, nf := true }
  | .inf s => { bits := trunc w (sgn s M), nf := true }
  | .fin s n d =>
    let k := roundAt n d ((e : Int) - 127 - blkS f) mode r
    let k' := min k M
    { bits := trunc w (sgn s k'), sat := decide (k > M), ovf := decide (k > M),
      uf := decide (k' = 0) && decide (n ≠ 0) }

/-- to_block (R55): the exponent byte and the mantissas of one block. -/
def toBlock (f : Nat) (given : Option Nat) (mode : RMode) (xs : List Val) (rs : List Nat) : Nat × List ERes :=
  let m := amax xs
  let e := match given with | some e => e | none => derivedExp f m.1 m.2
  (e, (List.range xs.length).map fun i => toBlkElem f e mode (nth .poison xs i) (nth 0 rs i))

/-- An exact finite value rounded into a binary format: significand and quantum, before overflow is looked at. -/
def binRound (f n d : Nat) (mode : RMode) (r : Nat) : Nat × Int :=
  let (fb, eb) := binP f
  let emin : Int := 2 - 2 ^ (eb - 1)
  let q := max (log2F n d) emin - fb
  (roundAt n d q mode r, q)

/-- Largest finite magnitude of a binary or public format as its bits, and its exponent (R62). -/
def binMax (f : Nat) : Nat :=
  match f with
  | 4 => 0x7F7FFFFF | 5 => 0x7FEFFFFFFFFFFFFF | 10 => 0x7BFF | 11 => 0x7F7F | 12 => 0x7E | _ => 0x7B

/-- The pattern of `k × 2 ^ q` in a binary or public format, not looking at overflow. -/
def binBits (f k : Nat) (q : Int) : Nat :=
  let (fb, eb) := binP f
  -- the exponent field, less one when the significand carries its leading bit
  (q + fb + (2 ^ (eb - 1) - 2)).toNat * 2 ^ fb + k

/-- The sign bit of a format in place. -/
def signBit (f : Nat) (s : Bool) : Nat := bn s * 2 ^ (fmtWidth f - 1)

/-- Infinity in a binary or public format that has one. -/
def binInf (f : Nat) (s : Bool) : Nat := signBit f s + (binMax f + 1)

/-- IEEE rounding of an exact finite value into binary32 or binary64 (R61, R83, R180). A zero keeps `s`. -/
def ieeeRound (f : Nat) (s : Bool) (n d : Nat) (mode : RMode) (r : Nat) : ERes :=
  if n = 0 then { bits := signBit f s }
  else
    let (fb, eb) := binP f
    let emin : Int := 2 - 2 ^ (eb - 1)
    let lg := log2F n d
    let (k, q) := binRound f n d mode r
    let exact := exactAt n d q
    let b := binBits f k q
    let tiny := decide (lg < emin) &&
      !(decide (lg = emin - 1) && decide (roundAt n d (lg - fb) mode r = 2 ^ (fb + 1)))
    if b > binMax f then
      let up := exact || !decide (roundAt n d q .rtz 0 = k)
      let inf := match mode with | .rne => true | .rtz => false | .sr => up
      { bits := if inf then binInf f s else signBit f s + binMax f,
        ieee := { overflow := true, inexact := true } }
    else
      { bits := signBit f s + b, ieee := { inexact := !exact, underflow := tiny && !exact } }

/-- Rounding into a binary or public format that saturates (R60, R63, R72); underflow as R64. Whether a magnitude lies above the largest value
is judged after the rounding (DESIGN CHOICE, log 96). -/
def satRound (f : Nat) (s : Bool) (n d : Nat) (mode : RMode) (r : Nat) : ERes :=
  if n = 0 then { bits := signBit f s }
  else
    let (k, q) := binRound f n d mode r
    let b := binBits f k q
    if b > binMax f then { bits := signBit f s + binMax f, sat := true }
    else { bits := signBit f s + b, uf := decide (k = 0) }

/-- A NaN converted into binary32 or binary64 (R61). -/
def nanInto (f : Nat) (s sig : Bool) (payload : Nat) : ERes :=
  let (fb, eb) := binP f
  let b := signBit f s + (2 ^ eb - 1) * 2 ^ fb + 2 ^ (fb - 1) + payload / 2 ^ (52 - fb)
  { bits := if b = poisonBits f then canonNan f else b, ieee := { invalid := sig } }

/-- The conversion of one element from format `src` into format `dst`, which has no blocks (R48, R58-R63). -/
def convElem (src dst : Nat) (v : Val) (mode : RMode) (r : Nat) : ERes :=
  if isBin src && isBin dst then
    match v with
    | .poison => { bits := poisonBits dst }
    | .nan s g p => nanInto dst s g p
    | .inf s => { bits := binInf dst s }
    | .fin s n d => ieeeRound dst s n d mode r
  else
    match v with
    | .poison => { bits := poisonBits dst, pin := true, pout := !isPublic dst }
    | _ =>
      if dst = 3 then toT16 v mode r
      else match v with
        | .fin s n d => satRound dst s n d mode r
        | .inf s =>
          if dst = 12 then { bits := signBit dst s + binMax dst, nf := true }
          else { bits := binInf dst s }
        | .nan s g p => if isBin dst then nanInto dst s g p else { bits := canonNan dst }
        | .poison => { bits := poisonBits dst }

/-- Does R59, R61 or R63 allow a conversion between two formats? Two block-scaled formats may be the same. -/
def pairOk (src dst : Nat) : Bool :=
  if isBlk src && isBlk dst then true
  else if isPublic src || isPublic dst then
    (isPublic src && (dst == 3 || dst == 4)) || (isPublic dst && (src == 3 || src == 4))
  else src < 6 && dst < 6 && src ≠ dst

/-- Elements converted into format `dst` with blocks of `b`: exponent bytes and elements. The exponent of block j
is `given j`, or derived. -/
def convAll (src dst b : Nat) (given : Nat → Option Nat) (mode : RMode) (vs : List Val) (rs : List Nat) :
    List Nat × List ERes :=
  if isBlk dst then
    let res := (List.range ((vs.length + b - 1) / b)).map fun j =>
      toBlock dst (given j) mode (sub vs (j * b) b) (sub rs (j * b) b)
    let es := (res.map (·.2)).flatten
    (res.map (·.1),
     (List.range es.length).map fun i =>
       let e := nth { bits := 0 } es i
       { e with pin := decide (nth .poison vs i = .poison) })
  else ([], (List.range vs.length).map fun i => convElem src dst (nth .poison vs i) mode (nth 0 rs i))

/-- A conversion flag register with an instruction's flags raised (R64, R65). -/
def cvtRaise (c : CvtFlags) (r : Raised) : CvtFlags :=
  let t := c.tally.toNat + r.nonfinite
  { tally := BitVec.ofNat 32 (min t 0xFFFFFFFF),
    tallySat := c.tallySat || decide (t ≥ 0xFFFFFFFF ∧ 0 < r.nonfinite),
    poisonOut := c.poisonOut || r.cvt.poisonOut, poisonIn := c.poisonIn || r.cvt.poisonIn,
    underflow := c.underflow || r.cvt.underflow, sat := c.sat || r.cvt.sat,
    nonfinite := c.nonfinite || r.cvt.nonfinite }

/-- What two parts of an instruction raise. -/
def raisedOr (a b : Raised) : Raised :=
  { cvt := { poisonOut := a.cvt.poisonOut || b.cvt.poisonOut, poisonIn := a.cvt.poisonIn || b.cvt.poisonIn,
             underflow := a.cvt.underflow || b.cvt.underflow, sat := a.cvt.sat || b.cvt.sat,
             nonfinite := a.cvt.nonfinite || b.cvt.nonfinite },
    nonfinite := a.nonfinite + b.nonfinite, ieee := ieeeOr a.ieee b.ieee,
    overflow := b.overflow.foldl (fun l k => insNat k l) a.overflow }

/-- Bytes of a row of `k`-bit elements, CK4 elements two to a byte (R41, R42). -/
def packElems (w : Nat) (xs : List Nat) : List Byte :=
  if w = 4 then
    (List.range ((xs.length + 1) / 2)).map fun i =>
      BitVec.ofNat 8 (nth 0 xs (2 * i) % 16 + 16 * (nth 0 xs (2 * i + 1) % 16))
  else (xs.map fun x => natLe (w / 8) x).flatten

end Sys2Proof.Machine
end

