-- ==== Sys2Proof/Machine/Wire.lean ====
section
/-! DEFINITION. The wire of a port (R269-R276, R283, R298): the two Reed-Solomon codes, codewords with their slots and lanes, control
symbols in order of priority, the fragments of routed messages, and the payload of packet strands and circuits. -/

namespace Sys2Proof.Machine

/-- CRC-32C (R274, R285, R298, R401). -/
def crc32c (bs : List Byte) : Nat := crcBytes 0x82F63B78 bs 0xFFFFFFFF ^^^ 0xFFFFFFFF

/-! ### GF(2^8) with x^8 + x^4 + x^3 + x^2 + 1 (R271) -/

/-- A product by α. -/
def gfAlpha (a : Nat) : Nat := if a < 128 then 2 * a else (2 * a) ^^^ 0x11D

/-- A product by the low `n` bits of a number. -/
def gfMulBits : Nat → Nat → Nat → Nat
  | 0, _, _ => 0
  | n + 1, a, b => (if b % 2 = 1 then a else 0) ^^^ gfMulBits n (gfAlpha a) (b / 2)

/-- A product. -/
def gfMul (a b : Nat) : Nat := gfMulBits 8 a b

/-- A power of α. -/
def gfPow : Nat → Nat
  | 0 => 1
  | n + 1 => gfAlpha (gfPow n)

/-- The inverse of an element that is not 0. -/
def gfInv (a : Nat) : Nat := (List.range 254).foldl (fun x _ => gfMul x a) 1

/-- The value of a polynomial, its highest coefficient first. -/
def gfEval (p : List Nat) (x : Nat) : Nat := p.foldl (fun v c => gfMul v x ^^^ c) 0

/-- The product of (x - α^i) for i below `n`, highest degree first (R271). -/
def rsGen : Nat → List Nat
  | 0 => [1]
  | n + 1 => List.zipWith (· ^^^ ·) (rsGen n ++ [0]) (0 :: (rsGen n).map (gfMul (gfPow n)))

/-- The `n` check symbols of data, highest degree first (R271): the remainder of data · x^n by the generator. -/
def rsChecks (n : Nat) (data : List Nat) : List Nat :=
  let g := (rsGen n).drop 1
  data.foldl (fun r d => List.zipWith (· ^^^ ·) (r.drop 1 ++ [0]) (g.map (gfMul (d ^^^ nth 0 r 0)))) (List.replicate n 0)

/-- The syndromes of a received word. -/
def rsSyndromes (n : Nat) (w : List Nat) : List Nat := (List.range n).map fun i => gfEval w (gfPow i)

/-- A received word of the payload code with one byte error put right, and whether there was one; no answer where it is
uncorrectable (R271). -/
def fixOne (w : List Nat) : Option (List Nat × Bool) :=
  let a := gfEval w 1
  let b := gfEval w 2
  if a = 0 ∧ b = 0 then some (w, false)
  else if a = 0 ∨ b = 0 then none
  else ((List.range w.length).find? fun i => gfMul a (gfPow (w.length - 1 - i)) = b).map fun i =>
    (setNth w i (nth 0 w i ^^^ a), true)

/-- The search for an error locator: locator, the one before the last change of length, its length, steps since and discrepancy
then. -/
structure Locator where
  cur : List Nat
  old : List Nat
  len : Nat
  gap : Nat
  disc : Nat

/-- The sum of two polynomials, lowest degree first. -/
def gfAdd : List Nat → List Nat → List Nat
  | [], q => q
  | p, [] => p
  | a :: p, b :: q => (a ^^^ b) :: gfAdd p q

/-- One step of the search, for syndrome `n`. -/
def locatorStep (s : List Nat) (l : Locator) (n : Nat) : Locator :=
  let d := (List.range (l.len + 1)).foldl (fun t i => t ^^^ gfMul (nth 0 l.cur i) (nth 0 s (n - i))) 0
  if d = 0 then { l with gap := l.gap + 1 }
  else
    let c := gfAdd l.cur (List.replicate l.gap 0 ++ l.old.map (gfMul (gfMul d (gfInv l.disc))))
    if 2 * l.len ≤ n then { cur := c, old := l.cur, len := n + 1 - l.len, gap := 1, disc := d }
    else { l with cur := c, gap := l.gap + 1 }

/-- A received word of the control code with up to four byte errors put right, and whether there were any; no answer where its
decode fails (R271). -/
def fixFour (w : List Nat) : Option (List Nat × Bool) :=
  let s := rsSyndromes 8 w
  if s.all (· == 0) then some (w, false)
  else
    let l := (List.range 8).foldl (locatorStep s) { cur := [1], old := [1], len := 0, gap := 1, disc := 1 }
    let n := w.length
    -- an error at place i has locator α^(n - 1 - i), whose inverse is a root
    let at_ := (List.range n).filter fun i => gfEval l.cur.reverse (gfPow (255 - (n - 1 - i))) = 0
    let omega := (List.range 8).map fun k =>
      (List.range (k + 1)).foldl (fun t i => t ^^^ gfMul (nth 0 l.cur i) (nth 0 s (k - i))) 0
    let slope := (List.range l.len).map fun i => if i % 2 = 0 then nth 0 l.cur (i + 1) else 0
    let y := at_.foldl (fun y i =>
      let x := gfPow (n - 1 - i)
      let v := gfPow (255 - (n - 1 - i))
      setNth y i (nth 0 y i ^^^ gfMul x (gfMul (gfEval omega.reverse v) (gfInv (gfEval slope.reverse v))))) w
    if l.len ≤ 4 && at_.length = l.len && (rsSyndromes 8 y).all (· == 0) then some (y, true) else none

/-! ### Codewords (R270-R272) -/

/-- Bytes as field elements, and back. -/
def elems (bs : List Byte) : List Nat := bs.map (·.toNat)
/-- Field elements as bytes. -/
def ofElems (xs : List Nat) : List Byte := xs.map (BitVec.ofNat 8)

/-- A list filled up with zero bytes, or cut, to a length. -/
def padTo (n : Nat) (bs : List Byte) : List Byte := bs.take n ++ List.replicate (n - bs.length) 0

/-- The bytes of an interleave (R271). -/
def interleave (i : Nat) (bs : List Nat) : List Nat := (List.range ((bs.length + 7 - i) / 8)).map fun k => nth 0 bs (8 * k + i)

/-- The bytes of the eight interleaves in their places. -/
def weave (ws : List (List Nat)) (n : Nat) : List Nat := (List.range n).map fun j => nth 0 (nth [] ws (j % 8)) (j / 8)

/-- A codeword (R270): 24 B of control body and its 8 check symbols, 2,000 B of payload and its 16. -/
def codeword (control payload : List Byte) : List Byte :=
  let c := elems (padTo 24 control)
  let p := elems (padTo 2000 payload)
  let checks := weave ((List.range 8).map fun i => rsChecks 2 (interleave i p)) 16
  ofElems (c ++ rsChecks 8 c ++ p ++ checks)

/-- What the receiver reads from a codeword (R271): its control body, unless that fails, its payload, unless it is uncorrectable,
and whether bytes were put right. -/
structure CwRead where
  control : Option (List Byte)
  payload : Option (List Byte)
  fixed   : Bool

/-- A received codeword decoded. -/
def readCodeword (bs : List Byte) : CwRead :=
  let c := fixFour (elems (bs.take 32))
  let ps := (List.range 8).map fun i => fixOne (interleave i (elems (bs.drop 32)))
  let ok := ps.all (·.isSome)
  let ws := ps.map fun p => match p with | some x => x.1 | none => []
  { control := c.map fun x => (ofElems x.1).take 24,
    payload := if ok then some (ofElems (weave ws 2000)) else none,
    fixed := (match c with | some x => x.2 | none => false) || ps.any fun p => match p with | some x => x.2 | none => false }

/-- Byte `b` of slot `s` of a codeword (R272). -/
def slotByte (cw : List Byte) (s b : Nat) : Byte := nth 0 cw (32 * s + b)

/-- What a logical lane of the strand carries of a codeword, in order (R272): bytes 8ℓ to 8ℓ + 7 of each slot. -/
def laneBytes (cw : List Byte) (lane : Nat) : List Byte :=
  (List.range 64).flatMap fun s => (List.range 8).map fun b => slotByte cw s (8 * lane + b)

/-- A codeword from what its four lanes carry (R272). -/
def fromLanes (ls : List (List Byte)) : List Byte :=
  (List.range 2048).map fun j => nth 0 (nth [] ls (j % 32 / 8)) (8 * (j / 32) + j % 8)

/-- The two bits of each symbol of a byte, least significant first (R269). -/
def symbolsOf (b : Byte) : List (BitVec 2) := (List.range 4).map fun i => b.extractLsb' (2 * i) 2

/-- The slot time at which codeword `n` of a strand starts, from the start of codeword 0 of strand 0 (R272). -/
def codewordStart (strand n : Nat) : Nat := 64 * n + 16 * strand

/-! ### Control symbols (R273, R275) -/

/-- A control symbol body: kind, frame mark and 21 B (R273). -/
def symbol (kind : Byte) (mark : Nat) (body : List Byte) : List Byte := [kind] ++ natLe 2 mark ++ padTo 21 body

/-- The frame mark of a codeword in which a container frame begins at a payload byte (R273). -/
def frameMark (start : Option Nat) : Nat := match start with | some o => 2 ^ 15 + o % 2 ^ 11 | none => 0

/-- A `LINK` symbol (R275). -/
def linkSymbol (subtype : Byte) (content : List Byte) : List Byte := symbol 0x04 0 (subtype :: content)

/-- A `Q_SHORT` (R274). -/
def shortSymbol (qtype : Byte) (content : List Byte) : List Byte := symbol 0x01 0 (qtype :: padTo 20 content)

/-! ### Routed messages (R274) -/

/-- The header of a routed message (R274). -/
def qHeader (m : QMsg) : Nat :=
  m.dst.toNat * 2 ^ 112 + m.src.toNat * 2 ^ 96 + m.qtype.toNat * 2 ^ 88 + m.slice.toNat * 2 ^ 82
    + m.body.length % 2 ^ 16 * 2 ^ 64 + m.tag.toNat * 2 ^ 32

/-- The bytes of a routed message: header, body and CRC-32C (R274). -/
def qBytes (m : QMsg) : List Byte :=
  let b := natLe 16 (qHeader m) ++ m.body
  b ++ natLe 4 (crc32c b)

/-- Fragments of a routed message with a body of `n` bytes (R274). -/
def qCount (n : Nat) : Nat := (20 + n + 18) / 19

/-- The fragments of a routed message (R274): flags, 19 B and the fragment's number. -/
def qFragments (vc : Nat) (m : QMsg) : List (List Byte) :=
  let bs := qBytes m
  let n := qCount m.body.length
  (List.range n).map fun i =>
    symbol 0x02 0 ([BitVec.ofNat 8 (128 * bn (i = 0) + 64 * bn (i + 1 = n) + 32 * (vc % 2))]
      ++ padTo 19 (sub bs (19 * i) 19) ++ [BitVec.ofNat 8 i])

/-- A routed message from its fragments: none where a fragment is missing or the CRC does not match (R274). -/
def qWhole (fs : List (List Byte)) : Option QMsg :=
  let ok := (List.range fs.length).all fun i =>
    let f := nth [] fs i
    nth 0 f 0 = 0x02 && (nth 0 f 3).getLsbD 7 == decide (i = 0) && (nth 0 f 3).getLsbD 6 == decide (i + 1 = fs.length)
      && nth 0 f 23 = BitVec.ofNat 8 i
  let bs := fs.flatMap fun f => sub f 4 19
  let h := leNat (bs.take 16)
  let n := bitsN h 64 16
  if ok && qCount n = fs.length && crc32c (bs.take (16 + n)) = leNat (sub bs (16 + n) 4) then
    some { dst := BitVec.ofNat 16 (bitsN h 112 16), src := BitVec.ofNat 16 (bitsN h 96 16), qtype := BitVec.ofNat 8 (bitsN h 88 8),
           slice := BitVec.ofNat 6 (bitsN h 82 6), tag := BitVec.ofNat 32 (bitsN h 32 32), body := sub bs 16 n }
  else none

/-- A message along a hop list as a routed one: the layout of R297 with the place on the list (log 17). -/
def pathQ (qtype : BitVec 8) (m : PathMsg) : QMsg :=
  { dst := m.dst, src := m.src, qtype := qtype, slice := m.slice, tag := m.tag,
    body := [m.slice.setWidth 8, BitVec.ofNat 8 m.hops.length] ++ natLe 2 m.dst.toNat ++ [BitVec.ofNat 8 m.pos, 0, 0, 0] ++ m.hops }

/-! ### What waits for a port's control slots (R273) -/

/-- The 20 B of a barrier message (R321). -/
def barrierContent (up : Bool) (m : BarrierMsg) : List Byte :=
  [BitVec.ofNat 8 (16 * bn (!up) + m.tree.val)] ++ natLe 2 m.round.toNat ++ [BitVec.ofNat 8 (bn m.step + 2 * bn m.second)]
    ++ natLe 16 m.value.toNat

/-- The port of a control symbol that goes out, its place in the order of R273 and its bodies; none for other outputs. The contents
that R302 and R306 name and do not lay out stand in their order there (log 17). -/
def slotsOf : Out → Option (Nat × Nat × List (List Byte))
  | .time l m => some (l.port.val, 1, [symbol 0x03 0 ([m.stratum] ++ natLe 5 m.tTx.toNat ++ natLe 5 m.echoTx.toNat ++ natLe 5 m.echoRx.toNat
      ++ natLe 5 m.hi.toNat)])
  | .linkCredit p vc n => some (p.val, 2, [linkSymbol 0x01 [BitVec.ofNat 8 vc.val, n]])
  | .linkTable l e => some (l.port.val, 2, [linkSymbol 0x02 (BitVec.ofNat 8 l.strand.val :: natLe 2 e.toNat)])
  | .linkMode l e f => some (l.port.val, 2, [linkSymbol 0x03 (BitVec.ofNat 8 l.strand.val :: natLe 2 e.toNat ++ natLe 4 f.toNat)])
  | .spareRequest p lane => some (p.val, 2, [linkSymbol 0x04 [BitVec.ofNat 8 lane.val]])
  | .spareSwitch p lane n => some (p.val, 2, [linkSymbol 0x05 (BitVec.ofNat 8 lane.val :: natLe 4 n.toNat)])
  | .strandFailed l => some (l.port.val, 2, [linkSymbol 0x06 [BitVec.ofNat 8 l.strand.val]])
  | .barrier l up m => some (l.port.val, 3, [shortSymbol 0x10 (barrierContent up m)])
  | .quench p q => some (p.val, 3, [shortSymbol 0x11 ([q.slice.setWidth 8] ++ natLe 2 q.number.toNat ++ natLe 2 q.origin.toNat
      ++ natLe 2 q.dead.toNat ++ [BitVec.ofNat 8 (bn q.deadValid), q.reason])])
  | .unquench p sl n => some (p.val, 3, [shortSymbol 0x12 ([sl.setWidth 8] ++ natLe 2 n.toNat)])
  | .probe p n => some (p.val, 3, [shortSymbol 0x18 [n]])
  | .coord p c e => some (p.val, 3, [shortSymbol 0x19 [c.x.setWidth 8, c.y.setWidth 8, c.z.setWidth 8, c.w.setWidth 8,
      e.nx.setWidth 8, e.ny.setWidth 8, e.nz.setWidth 8, e.nw.setWidth 8]])
  | .discDone p => some (p.val, 3, [shortSymbol 0x1A []])
  | .qfrag p vc m => some (p.val, 4, qFragments vc.val m)
  | .path q l m => some (l.port.val, 4, qFragments m.vc.val (pathQ q m))
  | .hello p m => some (p.val, 5, [symbol 0x05 0 (natLe 8 m.serial.toNat ++ [m.port, m.grade, m.phase] ++ natLe 8 m.lowest.toNat
      ++ natLe 2 m.hops.toNat)])
  | _ => none

/-- The control slots that an output takes with Q-class content, and their port (R309). -/
def qSlots (o : Out) : Option (Nat × Nat) :=
  match o with
  | .qfrag p _ m => some (p.val, qCount m.body.length)
  | .path q l m => some (l.port.val, qCount (pathQ q m).body.length)
  | .barrier l _ _ => some (l.port.val, 1)
  | .quench p _ => some (p.val, 1)
  | .unquench p _ _ => some (p.val, 1)
  | .probe p _ => some (p.val, 1)
  | .coord p _ _ => some (p.val, 1)
  | .discDone p => some (p.val, 1)
  | _ => none

/-- The bodies with which a port's control slots carry the outputs that are due, the first item due by the order of R273 in each,
and `IDLE` in a slot for which nothing is due. -/
def controlSlots (outs : List Out) (port n : Nat) : List (List Byte) :=
  let mine := outs.filterMap fun o => match slotsOf o with | some x => if x.1 = port then some x.2 else none | none => none
  let due := [1, 2, 3, 4, 5].flatMap fun r => (mine.filter fun x => x.1 = r).flatMap (·.2)
  due.take n ++ List.replicate (n - due.length) (symbol 0x00 0 [])

/-! ### Payload of packet strands (R283-R285) -/

/-- The 544 bytes of a container position (R284). -/
def containerBytes (c : Container) : List Byte :=
  natLe 16 c.header.toNat ++ natLe 512 c.payload.toNat ++ natLe 16 c.trailer.toNat

/-- A container from its bytes. -/
def containerOf (bs : List Byte) : Container :=
  { header := BitVec.ofNat 128 (leNat (bs.take 16)), payload := BitVec.ofNat 4096 (leNat (sub bs 16 512)),
    trailer := BitVec.ofNat 128 (leNat (sub bs 528 16)) }

/-- The payload bytes of a frame at nominal rate (R283): 32 positions back to back and 92 bytes of fill. -/
def frameBytes (cs : List Container) : List Byte := cs.flatMap containerBytes ++ List.replicate 92 0

/-- Where position `i` of a frame lies in the payload stream (R283): how many codewords after the one that the frame mark names, and
at which of its payload bytes. -/
def positionAt (mark i : Nat) : Nat × Nat := ((mark + 544 * i) / 2000, (mark + 544 * i) % 2000)

/-! ### The ring's blocks (R337) -/

/-- The phases by number. -/
def phaseCode : HopPhase → Nat
  | .reduce => 0 | .gather => 1 | .scaleReturn => 2 | .sizing => 3 | .sizingReturn => 4 | .raw => 5

/-- The phase of a number. -/
def phaseOf : Nat → HopPhase
  | 0 => .reduce | 1 => .gather | 2 => .scaleReturn | 3 => .sizing | 4 => .sizingReturn | _ => .raw

/-- Bytes of a block on the wire (R335, R337, R338). -/
def blockBytes : HopPhase → Nat
  | .raw => 64 | .reduce => 33 | .gather => 33 | _ => 1

/-- The item tag under which an engine sends a block (R298; log 90): channel, direction, phase, segment, place of the handle and
item number. -/
def hopTag (ch lane : Nat) (h : Hop) : BitVec 32 :=
  BitVec.ofNat 32 (ch % 8 * 2 ^ 28 + bn h.minus * 2 ^ 27 + phaseCode h.phase * 2 ^ 24 + h.seg % 64 * 2 ^ 18 + lane % 4 * 2 ^ 16
    + h.number.toNat)

/-- The transfer that a block belongs to: phase, direction and segment. -/
def hopKey (h : Hop) : Nat := phaseCode h.phase * 128 + bn h.minus * 64 + h.seg % 64

/-- The bytes of a block (R337): the item header before the first block of a half, the trailer after the last one, which raw items do
not have (log 16). -/
def hopWire (h : Hop) (last : Bool) : List Byte :=
  (match h.header with | some x => natLe 16 x.toNat | none => []) ++
  (match h.phase with
    | .raw => natLe 64 h.p.toNat
    | .reduce => natLe 32 h.p.toNat ++ [h.level]
    | .gather => natLe 32 h.p.toNat ++ [h.level]
    | _ => [h.level]) ++
  (if last && h.phase ≠ .raw then natLe 4 h.sum.toNat ++ natLe 4 0 else [])

/-- A block from its tag, its number and its bytes. -/
def hopOf (tag : BitVec 32) (block : Nat) (bs : List Byte) : Hop :=
  let t := tag.toNat
  let ph := phaseOf (bitsN t 24 3)
  let n := blockBytes ph
  let front := if bs.length = n + 16 ∨ bs.length = n + 24 then 16 else 0
  let d := bs.drop front
  { phase := ph, minus := t.testBit 27, seg := bitsN t 18 6, block := block, number := BitVec.ofNat 16 t,
    header := if front = 16 then some (BitVec.ofNat 128 (leNat (bs.take 16))) else none,
    p := BitVec.ofNat 512 (leNat (d.take (if n = 33 then 32 else if n = 64 then 64 else 0))),
    level := if n = 64 then 0 else nth 0 d (n - 1),
    sum := if n < d.length then BitVec.ofNat 32 (leNat (sub d n 4)) else 0 }

/-! ### Payload of circuits (R298) -/

/-- The codeword of a circuit with its `CIRCUIT` symbol (R298). -/
def circuitBytes (w : Codeword) : List Byte :=
  codeword (symbol 0x06 0 (natLe 4 w.cseq.toNat ++ natLe 2 w.valid.toNat ++ [w.flags] ++ natLe 4 w.item.toNat ++ natLe 4 w.crc.toNat))
    w.data

/-- An idle codeword: its cseq is unchanged (R298). -/
def idleCodeword (cseq : BitVec 32) : Codeword := { cseq := cseq, valid := 0, flags := 1, item := 0, crc := BitVec.ofNat 32 (crc32c []), data := [] }

/-- A circuit codeword from a control body and payload (R298); none where the symbol is not `CIRCUIT`. -/
def circuitOf (control payload : List Byte) : Option Codeword :=
  if nth 0 control 0 ≠ 0x06 then none
  else
    let f := fun (i n : Nat) => leNat (sub control i n)
    some { cseq := BitVec.ofNat 32 (f 3 4), valid := BitVec.ofNat 16 (f 7 2), flags := nth 0 control 9, item := BitVec.ofNat 32 (f 10 4),
           crc := BitVec.ofNat 32 (f 14 4), data := payload.take (f 7 2) }

end Sys2Proof.Machine
end

