-- ==== Sys2Proof/Machine/Ops.lean ====
section
/-! DEFINITION. The shared operations of the module: what a meaning answers, tallies, units and grades, the
clocks, events, completion records, die faults and quenches. -/

namespace Sys2Proof.Machine

/-- The outcome of a command. -/
abbrev Res := Host.Outcome State Fault Refusal

/-- What every meaning answers: the next state `s'`, in which the waiting commands and the fuses (R7, R308,
R388) are those of `s`. A command never writes them. -/
def done (s s' : State) : Res :=
  .next { s' with pending := s.pending, grade := s.grade, serial := s.serial, factoryBad := s.factoryBad }

/-- An error tally raised by `n` (R17). -/
def tallyAdd (t : Tally) (n : Nat) : Tally :=
  let v := t.count.toNat + n
  { count := BitVec.ofNat 32 (min v 0xFFFFFFFF), sat := t.sat || decide (v ≥ 0xFFFFFFFF) }

/-- A tally as its register presents it: sat in bit 32 (R17). -/
def tallyWord (t : Tally) : Word := BitVec.ofNat 64 (t.count.toNat + 2 ^ 32 * bn t.sat)

/-- Modular order (R18): `a` precedes `b` among `n`-bit values. -/
def precedes (n a b : Nat) : Bool :=
  let d := (b + 2 ^ n - a % 2 ^ n) % 2 ^ n
  decide (1 ≤ d) && decide (d < 2 ^ (n - 1))

/-- Stream codes (R120). -/
def sc : Stream → Nat
  | .F => 0 | .B => 1 | .U => 2

/-- The three streams in the order of R121. -/
def allStreams : List Stream := [.F, .B, .U]

/-- The stream of a code (R120). -/
def streamOf (n : Nat) : Option Stream := if n = 0 then some .F else if n = 1 then some .B else if n = 2 then some .U else none

/-! ### Grades and units (R1-R7) -/

/-- Enabled tiles (R1, R7): grade 2 is the CKL-CT1-56Q. -/
def tilesOn (s : State) : Nat := if s.grade = 2 then 56 else 64
/-- Enabled clusters (R2, R7). -/
def clustersOn (s : State) : Nat := if s.grade = 2 then 14 else 16
/-- Enabled fabric ports: grade 3 is the CKL-CT1-64T (R3). -/
def portsOn (s : State) : Nat := if s.grade = 3 then 6 else 8
/-- Enabled torus axes (R3, R7). -/
def axesOn (s : State) : Nat := if s.grade = 3 then 3 else 4

/-- `DIE.GRADE` (R7). -/
def gradeWord (s : State) : Word :=
  BitVec.ofNat 64 (tilesOn s + 2 ^ 8 * (2 ^ portsOn s - 1) + 2 ^ 16 * axesOn s + 2 ^ 20 * s.grade.toNat
    + 2 ^ 32 * (2 ^ clustersOn s - 1))

/-- Unit kinds of an absent access (R6, R155). -/
inductive UnitKind where
  | tile | cluster | array | axis | port
  deriving DecidableEq, Repr

/-- The kind code of R155. -/
def kindCode : UnitKind → Nat
  | .tile => 0 | .cluster => 1 | .array => 2 | .axis => 3 | .port => 4

/-- Is a unit enabled on this grade? -/
def unitOn (s : State) : UnitKind → Nat → Bool
  | .tile, i => i < tilesOn s
  | .cluster, i => i < clustersOn s
  | .array, i => i / 4 < tilesOn s
  | .axis, i => i < axesOn s
  | .port, i => i < portsOn s

/-- An access to a fused-off unit: its absent-access tally rises (R5, R6). -/
def countAbsent (s : State) (k : UnitKind) (i : Nat) : State :=
  { s with firm := { s.firm with absent := upd {} s.firm.absent (kindCode k * 2 ^ 28 + i) fun t => tallyAdd t 1 } }

/-! ### Tiles, streams and contexts -/

/-- A device tile. -/
def tileAt (s : State) (t : Nat) : Tile := rd {} s.tiles t

/-- The state with a device tile put in place. -/
def putTile (s : State) (t : Nat) (x : Tile) : State := { s with tiles := wr {} s.tiles t x }

/-- The state with a device tile changed. -/
def modTile (s : State) (t : Nat) (f : Tile → Tile) : State := putTile s t (f (tileAt s t))

/-- A stream of a context. -/
def ctxS (c : Context) : Stream → StreamCtx
  | .F => c.f | .B => c.b | .U => c.u

/-- A context with a stream put in place. -/
def ctxPut (c : Context) (st : Stream) (x : StreamCtx) : Context :=
  match st with
  | .F => { c with f := x } | .B => { c with b := x } | .U => { c with u := x }

/-- A stream of the context that a device tile carries. -/
def strm (s : State) (t : Nat) (st : Stream) : StreamCtx := ctxS (tileAt s t).ctx st

/-- The state with a tile's loaded context changed. -/
def modCtx (s : State) (t : Nat) (f : Context → Context) : State :=
  modTile s t fun x => { x with ctx := f x.ctx }

/-- The state with a stream changed. -/
def modStrm (s : State) (t : Nat) (st : Stream) (f : StreamCtx → StreamCtx) : State :=
  modCtx s t fun c => ctxPut c st (f (ctxS c st))

/-- Program tiles P and enabled tiles E of the loaded program (R11). -/
def progP (s : State) : Nat := match s.prog with | some p => p.p | none => 0

/-- The device tile of a program tile (R11, R13, R109). -/
def devTile (s : State) (p : Nat) : Nat := p % tilesOn s

/-- The contexts that the module holds, by program tile: loaded or set aside (R32, R33). -/
def ctxOf (s : State) (p : Nat) : Context :=
  let t := tileAt s (devTile s p)
  if t.loaded = some p then t.ctx else rd {} s.saved p

/-- The state with a program tile's context changed, wherever it is held. -/
def modCtxOf (s : State) (p : Nat) (f : Context → Context) : State :=
  let d := devTile s p
  if (tileAt s d).loaded = some p then modCtx s d f
  else { s with saved := upd {} s.saved p f }

/-! ### Counters and waits (R31, R32, R310) -/

/-- A counter by scope: 0 a tile counter of a program tile, 1 a counter of a program cluster, 2 a die counter. -/
def ctrVal (s : State) (scope target i : Nat) : Nat :=
  (if scope = 0 then rd 0 (ctxOf s target).sync i
   else if scope = 1 then rd 0 s.cluster (32 * target + i) else rd 0 s.dieSync i).toNat

/-- The counter that a scope and a program tile name: its own tile or its program cluster. -/
def ctrTarget (scope p : Nat) : Nat := if scope = 1 then p / 4 else p

/-- Is a stream stopped where a context switch would be allowed (R31)? -/
def atStop (s : State) (p : Nat) (x : StreamCtx) : Bool :=
  match x.run with
  | .ended => true
  | .active =>
    match x.wait with
    | some w =>
      match w.kind with
      | .sync => decide (ctrVal s w.scope.toNat (ctrTarget w.scope.toNat p) w.index.toNat < w.threshold.toNat)
      | .arrive => true
      | .interlock => false
    | none => false
  | _ => false

/-- Can a stream of a context run: not waiting, or its counter at its threshold (R32)? -/
def canRun (s : State) (p : Nat) (x : StreamCtx) : Bool := x.run == .active && !x.paused && !atStop s p x

/-! ### Clocks (R34-R36, R341, R449) -/

/-- The throttle step in effect: the highest of the three demands (R449). -/
def throttleStep (s : State) : Nat :=
  max s.phys.thermalDem.toNat (max s.phys.powerDem.toNat s.phys.flowDem.toNat)

/-- Tenths of an arithmetic cycle in a nanosecond (R449). -/
def clockRate (s : State) : Nat :=
  match throttleStep s with
  | 0 => 40 | 1 => 36 | 2 => 32 | 3 => 24 | _ => 16

/-- Does a stream wait at a `WAIT`, an `ARRIVE` or an acquisition (R162)? -/
def waiting (x : StreamCtx) : Bool :=
  match x.wait with
  | some w => match w.kind with | .interlock => false | _ => true
  | none => false

/-- Does a stream issue, or wait in a fetch bubble (R162)? -/
def activeS (x : StreamCtx) : Bool := x.run == .active && !x.paused && x.wait.isNone

/-- A waiting head after `d` cycles that the watchdog counts (R157). -/
def tickWait (d : Nat) (x : StreamCtx) : StreamCtx :=
  if x.run == .active then { x with wait := x.wait.map fun w => { w with count := w.count + d } } else x

/-- The counters of a tile's waits after `d` cycles: `RUNNING`, `PAUSED` or `CHECKPOINT`, of which the watchdog counts the first
(R157, R162). -/
def tickWaits (d : Nat) (running : Bool) (t : Tile) : Tile :=
  let w := allStreams.foldl (fun w st =>
    if waiting (ctxS t.ctx st) && (ctxS t.ctx st).run == .active then upd 0 w (sc st) (· + d) else w) t.waited
  if running then
    { t with waited := w, ctx := { t.ctx with f := tickWait d t.ctx.f, b := tickWait d t.ctx.b, u := tickWait d t.ctx.u } }
  else { t with waited := w }

/-- The counters of a tile's bubbles and idle and active cycles after `d` cycles in `RUNNING` (R162). -/
def tickRun (d : Nat) (idle : Bool) (t : Tile) : Tile :=
  let b := allStreams.foldl (fun b st =>
    if (ctxS t.ctx st).bubble && activeS (ctxS t.ctx st) then upd 0 b (sc st) (· + d) else b) t.bubbles
  { t with bubbles := b,
           active := if allStreams.any fun st => activeS (ctxS t.ctx st) then t.active + d else t.active,
           idle := if idle then t.idle + d else t.idle }

/-- Can no carried context of a tile run (R32, R162)? -/
def idleTile (s : State) (t : Tile) : Bool :=
  t.carried.all fun p => allStreams.all fun st => !canRun s p (ctxS (ctxOf s p) st)

/-- A tile after `d` cycles: its units in motion, and with a context loaded its counters of cycles. -/
def tickTile (s : State) (d : Nat) (t : Tile) : Tile :=
  let t := runUnits s.time.cycle d t
  let run := decide (s.firm.state = .running)
  if t.loaded.isNone || !(run || decide (s.firm.state = .paused ∨ s.firm.state = .checkpoint)) then t
  else
    let t := tickWaits d run t
    if run then tickRun d (idleTile s t) t else t

/-- What is left of a slew after `n` sixteenths of a nanosecond have been made up. -/
def slewLeft (v : Int) (n : Nat) : Int := if v < 0 then min 0 (v + n) else max 0 (v - n)

/-- The clocks after `ns` nanoseconds and `d` cycles: the counter slews by at most 100 ppm, a sixteenth of a nanosecond in
625 ns, and the milliseconds of a holdover count (R34, R344, R345). -/
def tickTime (x : Time) (d ns rest : Nat) : Time :=
  let x : Time := { x with cycle := x.cycle + d, rest := rest, elapsed := x.elapsed + ns,
                           holdNs := if x.state = 3 then x.holdNs + ns else x.holdNs }
  if x.slew = 0 then { x with fec := x.fec + BitVec.ofNat 64 ns }
  else
    let left := slewLeft x.slew ((x.slewNs + ns) / 625)
    let v : Int := (16 * (x.fec.toNat + ns) + x.fecFrac.toNat : Nat) + (x.slew - left)
    { x with slew := left, slewNs := if left = 0 then 0 else (x.slewNs + ns) % 625,
             fec := BitVec.ofInt 64 (v / 16), fecFrac := BitVec.ofInt 4 v }

/-- Time passes by `d` arithmetic cycles: the clocks, the tiles' units in motion and the counters of cycles move (R34, R98, R162, R454;
log 6). -/
def advance (s : State) (d : Nat) : State :=
  let tot := s.time.rest + 10 * d
  let ns := tot / clockRate s
  { s with
    time := tickTime s.time d ns (tot % clockRate s),
    phys := if throttleStep s = 0 then s.phys else { s.phys with throttledNs := s.phys.throttledNs + ns },
    tiles := s.tiles.map fun e => (e.1, tickTile s d e.2) }

/-- Time moves forward to arithmetic cycle `c`, never back (log 6). -/
def toCycle (s : State) (c : Nat) : State :=
  if c ≤ s.time.cycle then s else advance s (c - s.time.cycle)

/-- One nanosecond passes: what the module does when no command waits (log 6). -/
def tick (s : State) : State := advance s ((clockRate s - s.time.rest + 9) / 10)

/-- Time passes by `ns` nanoseconds. -/
def passNs (s : State) (ns : Nat) : State := advance s ((ns * clockRate s - s.time.rest + 9) / 10)

/-- The Fabric Epoch Counter (R341). -/
def fec (s : State) : Word := s.time.fec

/-! ### Live configuration (R421) -/

/-- The Saffron default of a Slath field (R421). -/
def saffron : Nat → Nat
  | 1 => 100 | 2 => 50 | 3 => 40000000000 | 4 => 4 | 5 => 12 | 6 => 4 | 7 => 2 | 8 => 0 | 9 => 1 | 10 => 0
  | 11 => 2000000 | 12 => 10000000 | 13 => 2 | 14 => 2000 | 15 => 100000000 | 16 => 30 | 17 => 2 | 18 => 10
  | 19 => 10000000 | 20 => 1000 | _ => 0

/-- The live value of a Slath field: the table holds value + 1 for a field that the live image gives (R421). -/
def slathVal (s : State) (id : Nat) : Nat :=
  match rd 0 s.firm.slath id with | 0 => saffron id | v + 1 => v

/-! ### Torus geometry (R23, R24, R276, R307, R316) -/

/-- The coordinate on an axis. -/
def coordOn (c : Coords) (a : Nat) : Nat :=
  if a = 0 then c.x.toNat else if a = 1 then c.y.toNat else if a = 2 then c.z.toNat else c.w.toNat

/-- The extent on an axis. -/
def extOn (e : Extents) (a : Nat) : Nat :=
  if a = 0 then e.nx.toNat else if a = 1 then e.ny.toNat else if a = 2 then e.nz.toNat else e.nw.toNat

/-- A node's coordinate on an axis (R307). -/
def nodeCoord (e : Extents) (node a : Nat) : Nat :=
  let n := fun i => max 1 (extOn e i)
  if a = 0 then node % n 0
  else if a = 1 then node / n 0 % n 1
  else if a = 2 then node / (n 0 * n 1) % n 2
  else node / (n 0 * n 1 * n 2)

/-- The node at coordinates given as a list (R307). -/
def nodeOf (e : Extents) (c : Nat → Nat) : Nat :=
  c 0 + extOn e 0 * (c 1 + extOn e 1 * (c 2 + extOn e 2 * c 3))

/-- The node at the far end of a port: axis p / 2, the + side for even p (R23). -/
def neighbour (e : Extents) (node p : Nat) : Nat :=
  let a := p / 2
  let n := max 1 (extOn e a)
  nodeOf e fun i =>
    let c := nodeCoord e node i
    if i = a then (if p % 2 = 0 then (c + 1) % n else (c + n - 1) % n) else c

/-- The declared slice of a number (R279). -/
def sliceNo (s : State) (n : Nat) : Option SliceDecl := s.fab.slices.find? fun d => d.number.toNat = n

/-- A node's coordinate relative to a slice's start (R316). -/
def relCoord (e : Extents) (d : SliceDecl) (node a : Nat) : Nat :=
  let n := max 1 (extOn e a)
  (nodeCoord e node a + n - nth 0 d.start a % n) % n

/-- Does a slice contain a node (R24)? -/
def inSlice (e : Extents) (d : SliceDecl) (node : Nat) : Bool :=
  (List.range 4).all fun a => relCoord e d node a < nth 1 d.ext a

/-- Does a slice wrap on an axis (R279)? -/
def wraps (e : Extents) (d : SliceDecl) (a : Nat) : Bool :=
  nth 1 d.ext a = extOn e a && 2 ≤ extOn e a

/-- The declaration of the module's own slice, or the slice of the module alone before one is set. -/
def ownSlice (s : State) : SliceDecl :=
  (sliceNo s s.fab.own.toNat).getD
    { number := 0, start := (List.range 4).map fun a => coordOn s.fab.coords a, ext := [1, 1, 1, 1] }

/-- The node of a slice's anchor (R24). -/
def anchorOf (s : State) (d : SliceDecl) : Nat := nodeOf s.fab.extent fun a => nth 0 d.start a

/-- Is this module the anchor of its slice? -/
def isAnchor (s : State) : Bool := anchorOf s (ownSlice s) = s.fab.node.toNat

/-- The nodes of a slice, ascending (R26). -/
def sliceNodes (s : State) (d : SliceDecl) : List Nat :=
  let e := s.fab.extent
  (List.range (max 1 (extOn e 0) * max 1 (extOn e 1) * max 1 (extOn e 2) * max 1 (extOn e 3))).filter (inSlice e d)

/-- The port's block. -/
def portAt (s : State) (p : Nat) : Port := rd {} s.fab.ports p

/-- Does a port carry traffic: up or degraded (R309)? -/
def portUp (s : State) (p : Nat) : Bool :=
  p < portsOn s && ((portAt s p).state = 3 || (portAt s p).state = 4)

/-- The index of a strand of a port: 4p + k. -/
def strandKey (l : StrandId) : Nat := 4 * l.port.val + l.strand.val

/-- A strand by its index. -/
def strandOf (k : Nat) : StrandId := { port := Fin.ofNat 8 (k / 4), strand := Fin.ofNat 4 (k % 4) }

/-- A strand's state. -/
def strandAt (s : State) (k : Nat) : Strand := rd {} s.fab.strands k

/-- A strand changed. -/
def modStrand (s : State) (k : Nat) (f : Strand → Strand) : State :=
  { s with fab := { s.fab with strands := upd {} s.fab.strands k f } }

/-- The mode of an entry. -/
def eMode (e : BitVec 16) : Nat := bitsN e.toNat 14 2
/-- The slice of an entry. -/
def eSlice (e : BitVec 16) : BitVec 6 := e.extractLsb' 8 6
/-- The failed bit of an entry. -/
def eFailed (e : BitVec 16) : Bool := e.getLsbD 0
/-- An entry. -/
def mkEntry (mode slice : Nat) (failed : Bool) : BitVec 16 := BitVec.ofNat 16 (mode * 2 ^ 14 + slice % 64 * 2 ^ 8 + bn failed)

/-- The strands of a port. -/
def strandsOf (p : Nat) : List Nat := (List.range 4).map fun k => 4 * p + k

/-- The strand directions out of a port that carry no circuit (R322). -/
def freeStrands (s : State) (p : Nat) : List Nat :=
  (strandsOf p).filter fun k => (strandAt s k).out.isNone && !eFailed (strandAt s k).entry

/-- The first path out of a port: the lowest-numbered strand direction without a circuit (R322, R343). -/
def firstPath (s : State) (p : Nat) : Option StrandId := (freeStrands s p).head?.map strandOf

/-- The second path: the highest-numbered one (R322). -/
def secondPath (s : State) (p : Nat) : Option StrandId := (freeStrands s p).getLast?.map strandOf

/-- Links inside a slice: ports that are up toward another node of it (R302). -/
def slicePorts (s : State) (d : SliceDecl) : List Nat :=
  (List.range 8).filter fun p =>
    portUp s p && 2 ≤ extOn s.fab.extent (p / 2) && inSlice s.fab.extent d (neighbour s.fab.extent s.fab.node.toNat p)
      -- a step over the edge of a slice that does not wrap leaves the slice (R279)
      && (wraps s.fab.extent d (p / 2) ||
          (if p % 2 = 0 then relCoord s.fab.extent d s.fab.node.toNat (p / 2) + 1 < nth 1 d.ext (p / 2)
           else 0 < relCoord s.fab.extent d s.fab.node.toNat (p / 2)))

/-! ### Outputs and routed messages (R276, R277) -/

/-- Adds an output of the module; the control slots that it takes with Q-class content count (R309). -/
def emit (s : State) (o : Out) : State :=
  let s := { s with out := s.out ++ [o] }
  match qSlots o with
  | some (p, n) => { s with fab := { s.fab with ports := upd {} s.fab.ports p fun x => { x with qSent := x.qSent + n } } }
  | none => s

/-- The virtual channel on which a message leaves through a port, from the axis and channel on which it came (R276). -/
def nextVc (e : Extents) (cur p : Nat) (came : Option (Nat × Nat)) : Nat :=
  let a := p / 2
  let c := nodeCoord e cur a
  let cross := if p % 2 = 0 then c + 1 = max 1 (extOn e a) else c = 0
  if cross then 1 else match came with | some (b, v) => if a = b then v else 0 | none => 0

/-- The port and virtual channel of a routed message's next hop, from the axis and channel on which it came (R276): none at its
destination. -/
def qHop (e : Extents) (cur dst : Nat) (came : Option (Nat × Nat)) : Option (Nat × Nat) :=
  ((List.range 4).find? fun a => nodeCoord e cur a ≠ nodeCoord e dst a).map fun a =>
    let n := max 1 (extOn e a)
    let d := (nodeCoord e dst a + n - nodeCoord e cur a) % n
    let p := if 2 * d ≤ n then 2 * a else 2 * a + 1
    (p, nextVc e cur p came)

/-- A message as it goes out over a port on a channel. -/
def loadOut (p vc : Nat) : QLoad → Out
  | .msg m => .qfrag (Fin.ofNat 8 p) (Fin.ofNat 2 vc) m
  | .path q l m => .path q l { m with vc := Fin.ofNat 2 vc }

/-- A message starts over a port when it holds a credit for the channel, and waits otherwise (R276); `held` names the
input buffer that it leaves. -/
def putQ (s : State) (p vc : Nat) (held : Option (Fin 8 × Fin 2)) (m : QLoad) : State :=
  let c := rd 0 (portAt s p).credits vc
  let w : QWait := { port := Fin.ofNat 8 p, vc := Fin.ofNat 2 vc, m := m, held := held }
  if c = 0 then { s with fab := { s.fab with qWait := s.fab.qWait ++ [w] } }
  else
    let s := { s with fab := { s.fab with ports := upd {} s.fab.ports p fun x => { x with credits := wr 0 x.credits vc (c - 1) } } }
    let s := emit s (loadOut p vc m)
    -- the input buffer that the message leaves is free again: its credit returns
    match held with | some h => emit s (.linkCredit h.1 h.2 1) | none => s

/-- A message goes on toward its destination (R276). -/
def routeQ (s : State) (m : QMsg) : State :=
  match qHop s.fab.extent s.fab.node.toNat m.dst.toNat none with
  | some (p, vc) => putQ s p vc none (.msg m)
  | none => s

/-- A message of this module goes out toward its destination (R276). -/
def sendQ (s : State) (dst : BitVec 16) (qtype : Nat) (slice : BitVec 6) (tag : BitVec 32) (body : List Byte) : State :=
  routeQ s { dst := dst, src := s.fab.node, qtype := BitVec.ofNat 8 qtype, slice := slice, tag := tag, body := body }

/-- A routed message is consumed here: the credit of its buffer returns (R276). -/
def consumeQ (s : State) (via : QVia) : State := emit s (.linkCredit via.port via.vc 1)

/-! ### Unit paths (R406) -/

/-- A unit path of this module: by node when its coordinates are placed, else with the local bit (log 8). -/
def unitPath (s : State) (level index : Nat) : Word :=
  let l := level * 2 ^ 40 + index
  if s.fab.placed then BitVec.ofNat 64 (s.fab.node.toNat * 2 ^ 48 + l)
  else BitVec.ofNat 64 (0xFFFF * 2 ^ 48 + 2 ^ 47 + l)

/-! ### Events (R403, R417) -/

/-- A little-endian event body from its bytes (R403). -/
def body256 (bs : List Byte) : BitVec 256 := BitVec.ofNat 256 (leNat (bs.take 32))

/-- The bytes of a ring entry but its number (R403). -/
def entryBytes (e : RingEntry) : List Byte :=
  [e.kind, e.status] ++ natLe 2 e.code.toNat ++ natLe 4 e.tag.toNat ++ natLe 8 e.detail.toNat ++ natLe 8 e.fec.toNat
    ++ natLe 32 e.body.toNat

/-- A member that is not the anchor of its slice forwards an event toward it (R277; log 74). -/
def forwardEvent (s : State) (e : RingEntry) : State :=
  if !s.fab.placed || s.fab.own = 0 || isAnchor s then s
  else sendQ s (BitVec.ofNat 16 (anchorOf s (ownSlice s))) 0x03 s.fab.own 0 (entryBytes e)

/-- An entry of an event enters the queue of 1,024, is counted as lost when it is full, or goes to the MCTP endpoint while
`VKX.WINDOW`.en is 0 (R403, R408). -/
def queueEvent (s : State) (e : RingEntry) : State :=
  if s.vkx.en then
    if s.vkx.events.length < 1024 then { s with vkx := { s.vkx with events := s.vkx.events ++ [e] } }
    else { s with vkx := { s.vkx with evLost := tallyAdd s.vkx.evLost 1, lostSince := s.vkx.lostSince + 1 } }
  else emit s (.mctpEvent s.firm.endpoint e)

/-- An event of this module is raised, and forwarded toward the anchor (R277, R403, R408). -/
def raiseEvent (s : State) (code cls : Nat) (path : Word) (body : List Byte) : State :=
  let e : RingEntry := { kind := 3, status := BitVec.ofNat 8 cls, code := BitVec.ofNat 16 code, tag := 0,
                         detail := path, fec := fec s, body := body256 body }
  forwardEvent (queueEvent s e) e

/-- Device state codes (R410). -/
def stateCode : DevState → Nat
  | .boot => 0 | .selftest => 1 | .linkup => 2 | .idle => 3 | .loaded => 4 | .running => 5 | .paused => 6
  | .checkpoint => 7 | .restore => 8 | .faulted => 9 | .safe => 10

/-- The module enters a device state and raises a state change event (R410, R417). -/
def setState (s : State) (d : DevState) : State :=
  if s.firm.state = d then s
  else
    let old := s.firm.state
    raiseEvent { s with firm := { s.firm with state := d } } 0x0E 0 (unitPath s 0 0)
      [BitVec.ofNat 8 (stateCode old), BitVec.ofNat 8 (stateCode d)]

/-- May streams go on: in `RUNNING`, not held, and no die-level pause or drain under way (R410, R412, R419)? -/
def goesOn (s : State) : Bool := s.firm.state == .running && !s.firm.held && s.firm.draining.isNone && !s.firm.pausing

/-- Is the device state one of `LOADED` to `RESTORE` (R436)? -/
def inLoaded (s : State) : Bool := 4 ≤ stateCode s.firm.state && stateCode s.firm.state ≤ 8

/-- Is the device state `LINKUP` or later, the "Any" of R411? -/
def anyState (s : State) : Bool := 2 ≤ stateCode s.firm.state

/-! ### Records and the ledger report (R21, R418, R419) -/

/-- A completion record is written; while the ledgers drain it also enters the ledger report (R21, R419). -/
def record (s : State) (r : Record) : State :=
  let l := if s.firm.draining.isSome && s.firm.ledger.length < 65536 then s.firm.ledger ++ [r] else s.firm.ledger
  { s with firm := { s.firm with records := s.firm.records ++ [r], ledger := l } }

/-- The record of a tile item (R123, R418). -/
def itemRecord (s : State) (p : Nat) (i : Item) (failed : Option (BitVec 8)) (detail : Word) : Record :=
  { kind := 1, done := failed.isNone, space := 0, reason := failed.getD 0,
    who := BitVec.ofNat 32 (p + 2 ^ 16 * sc i.stream), number := i.seq, detail := detail, fec := fec s }

/-! ### Quench and die faults (R302, R436, R438) -/

/-- A dead node enters the slice's dead list of 16 entries (R302). -/
def addDead (q : Quench) (n : BitVec 16) : Quench :=
  if q.dead.contains n then { q with lastDead := some n }
  else if q.dead.length < 16 then { q with dead := q.dead ++ [n], lastDead := some n }
  else { q with overflow := true, lastDead := some n }

/-- A quench message goes out on the slice's links but `except` (R302). -/
def floodQuench (s : State) (except : Option Nat) (m : QuenchMsg) : State :=
  (slicePorts s (ownSlice s)).foldl (fun s p =>
    if some p = except then s else emit s (.quench (Fin.ofNat 8 p) m)) s

/-- The module sends a quench of its slice (R302): a new number, adopted here and flooded. -/
def sendQuench (s : State) (reason : Nat) (dead : Option (BitVec 16)) : State :=
  let n := s.fab.quench.number + 1
  let q := { s.fab.quench with on := true, number := n, origin := s.fab.node }
  let q := match dead with | some d => addDead q d | none => q
  let s := { s with fab := { s.fab with quench := q } }
  floodQuench s none { slice := s.fab.own, number := n, origin := s.fab.node, dead := dead.getD 0,
                       deadValid := dead.isSome, reason := BitVec.ofNat 8 reason }

/-- Is any work item of a tile, an engine or the fabric in flight (R418)? -/
def itemsInFlight (s : State) : Bool :=
  s.tiles.any (fun e => !e.2.items.isEmpty || !e.2.dmaQ.isEmpty || !e.2.dmaRun.isEmpty ||
    !e.2.vec.queue.isEmpty || !e.2.vec.started.isEmpty || !e.2.reissue.isEmpty) ||
  s.ces.any (fun e => e.2.chans.any fun c => !c.2.items.isEmpty) ||
  !s.fab.items.isEmpty || s.fab.circuits.any (fun c => !c.items.isEmpty)

/-- Is an item in flight that goes on in `CHECKPOINT` (R37)? Not a DMA descriptor or collective item that cannot start there, nor what a
paused mirror's circuit holds (R376). -/
def itemsRunning (s : State) : Bool :=
  s.tiles.any (fun e => e.2.items.any (fun i => i.kind != .dma && i.kind != .collective) || !e.2.dmaRun.isEmpty ||
    !e.2.vec.queue.isEmpty || !e.2.vec.started.isEmpty || !e.2.reissue.isEmpty) ||
  s.ces.any (fun e => e.2.chans.any fun c => c.2.items.any fun i => i.started) ||
  !s.fab.items.isEmpty || s.fab.circuits.any (fun c => !c.mirror && !c.items.isEmpty)

/-- Is an extent of the Hamper or a mirror in flight (R418)? -/
def extentsInFlight (s : State) : Bool :=
  s.hamper.write.isSome || s.hamper.restore.isSome || s.hamper.copyOut.isSome || s.hamper.mirrorTx.isSome ||
    s.hamper.mirrorRx.isSome

/-- Is an asynchronous command in progress that a drain waits for (R418, R419)? Not the one that the drain serves, nor one
that a rule of its own completes: an arm, an entry of the epoch queue, or one that `RESET_N` cut short. -/
def commandsInFlight (s : State) : Bool :=
  s.firm.accepted.any fun c => !(c.opcode == 0x0102 || c.opcode == 0x0204 || c.opcode == 0x0700 || s.firm.cut.contains c ||
    s.time.epochQ.any fun e => e.opcode == c.opcode && e.p == c.p)

/-- The fault event that ends a drain into `FAULTED` (R419, R436). -/
def faultEvent (s : State) : State :=
  raiseEvent s 0x0D 2 (unitPath s 0 0)
    ([s.firm.faultCause, 0, 0, 0] ++ natLe 4 s.firm.ledger.length)

/-- A die fault (R436): in `LOADED` to `RESTORE` the module enters `FAULTED`, quenches its slice and drains its
ledgers; the fault event follows the drain (R419). -/
def dieFaultQ (s : State) (cause : Nat) (quench : Bool) : State :=
  if inLoaded s then
    let s := setState s .faulted
    let s := { s with firm := { s.firm with draining := some .faulted, faultCause := BitVec.ofNat 8 cause, pausing := false } }
    if quench then sendQuench s 1 none else s
  else if s.firm.state = .faulted && s.firm.draining.isNone then
    { s with firm := { s.firm with draining := some .faulted } }
  else s

/-- A die fault that this module quenches for (R436). -/
def dieFault (s : State) (cause : Nat) : State := dieFaultQ s cause true

/-- The free choice of one bit (log 4). -/
def freeBit (s : State) (k : Nat) : Bool := (Config.freeValue (s.free + k)).getLsbD 0

/-- Bytes of which those that the spec leaves open are free (log 64). -/
def freeMix (s : State) (race : Nat → Bool) (bs : List Byte) : List Byte :=
  bs.zipIdx.map fun b => if race b.2 then (Config.freeValue (s.free + b.2)).setWidth 8 else b.1

end Sys2Proof.Machine
end

