-- ==== Sys2Proof/Machine/TileOps.lean ====
section
/-! DEFINITION. What every tile instruction shares: the checks of R129 and their details (R155, R156), seals
(R146-R151), counters and signals (R310-R314), work items and their completion (R123, R136), halts (R154), the
slot map (R143-R145) and the issue itself (R121, R124). -/

namespace Sys2Proof.Machine

/-! ### Checks and details (R129, R155) -/

/-- One check of R129: its order, whether it fails, and the reason and detail then. -/
structure Check where
  order  : Nat
  bad    : Bool
  reason : Nat
  detail : Nat
  deriving DecidableEq, Repr

/-- The check that decides: the failed one of lowest order, and among those the first listed; of reserved fields the
highest (R129, R155; log 9). -/
def firstBad (cs : List Check) : Option Check :=
  (cs.filter (·.bad)).foldl (fun m c => match m with
    | none => some c
    | some b => if c.order < b.order ∨ (c.order = 3 ∧ b.order = 3 ∧ b.detail < c.detail) then some c else some b) none

/-- The detail of `OPERAND_RANGE` and `ALIGNMENT` (R155). -/
def slotDetail (slot v : Nat) : Nat := slot * 2 ^ 30 + v % 2 ^ 30

/-- The detail of `FORMAT_MISMATCH` (R155). -/
def fmtDetail (slot mode fmt : Nat) : Nat := slot * 2 ^ 30 + mode * 16 + fmt % 16

/-- A check of order 3: `RESERVED_FIELD` at the field whose top bit is `b` (R155). -/
def ckRes (bad : Bool) (b : Nat) : Check := ⟨3, bad, 0x02, b⟩
/-- A check of order 4: `UNIT_ABSENT` (R155). -/
def ckAbsent (bad : Bool) (k : UnitKind) (i : Nat) : Check := ⟨4, bad, 0x0B, kindCode k * 2 ^ 28 + i % 2 ^ 28⟩
/-- A check of order 5: `FORMAT_MISMATCH`. -/
def ckFmt (bad : Bool) (slot mode fmt : Nat) : Check := ⟨5, bad, 0x0A, fmtDetail slot mode fmt⟩
/-- A check of order 6: `ALIGNMENT`. -/
def ckAlign (bad : Bool) (slot v : Nat) : Check := ⟨6, bad, 0x04, slotDetail slot v⟩
/-- A check of order 7: `OPERAND_RANGE`. -/
def ckRange (bad : Bool) (slot v : Nat) : Check := ⟨7, bad, 0x03, slotDetail slot v⟩
/-- A check of order 8: `STREAM_CONFLICT` (R155). -/
def ckConf (bad : Bool) (cause unit holder since : Nat) : Check :=
  ⟨8, bad, 0x0C, cause * 2 ^ 28 + unit * 2 ^ 25 + holder * 2 ^ 23 + min since 0xFFFFF⟩

/-- The unlisted runs of the bits `[244:0]` of a word whose listed fields are `(top, low)` in descending order:
each run is cut at the slot tops 191, 127 and 63 (log 9). -/
def reservedRuns (used : List (Nat × Nat)) : List (Nat × Nat) :=
  let gaps := (used.foldl (fun (p : List (Nat × Nat) × Nat) f =>
    (if f.1 + 1 < p.2 then (p.1 ++ [(p.2 - 1, f.1 + 1)], f.2) else (p.1, f.2))) ([], 245))
  let gaps := if 0 < gaps.2 then gaps.1 ++ [(gaps.2 - 1, 0)] else gaps.1
  let cut := fun (c : Nat) (l : List (Nat × Nat)) =>
    l.flatMap fun g => if g.2 ≤ c && c < g.1 then [(g.1, c + 1), (c, g.2)] else [g]
  cut 63 (cut 127 (cut 191 gaps))

/-- Are all unlisted bits of the word zero (R129 check 3)? -/
def reservedChecks (w : BitVec 246) (used : List (Nat × Nat)) : List Check :=
  (reservedRuns used).map fun g => ckRes (decide (bitsN w.toNat g.2 (g.1 + 1 - g.2) ≠ 0)) g.1

/-- Bits `[top:low]` of an instruction word. -/
def fld (w : BitVec 246) (top low : Nat) : Nat := bitsN w.toNat low (top + 1 - low)

/-- A flag bit of an instruction word. -/
def fbit (w : BitVec 246) (i : Nat) : Bool := w.toNat.testBit i

/-! ### Streams' registers -/

/-- A scalar register (R122). -/
def sReg (x : StreamCtx) (n : Nat) : Word := rd 0 x.s n
/-- An address register; number 0 adds nothing where a descriptor names it (R137). -/
def aReg (x : StreamCtx) (n : Nat) : BitVec 48 := rd 0 x.a n
/-- A stream with a scalar register written. -/
def setS (x : StreamCtx) (n : Nat) (v : Word) : StreamCtx := { x with s := wr 0 x.s n v }
/-- A stream with an address register written. -/
def setA (x : StreamCtx) (n : Nat) (v : BitVec 48) : StreamCtx := { x with a := wr 0 x.a n v }

/-- The program tile that a device tile carries. -/
def ptileOf (s : State) (t : Nat) : Nat := (tileAt s t).loaded.getD 0

/-- The program counter after the word at `pc` and the loops that end there (R125). -/
def advLoops : List LoopFrame → BitVec 48 → List LoopFrame × BitVec 48
  | [], pc => ([], pc)
  | f :: fs, pc =>
    if pc = f.stop then
      if f.iter + 1 < f.count then ({ f with iter := f.iter + 1 } :: fs, f.start) else advLoops fs pc
    else (f :: fs, pc)

/-- A stream that goes on at the word at `pc`, or where the loops that end there send it (R125). -/
def goTo (x : StreamCtx) (pc : BitVec 48) : StreamCtx :=
  let r := advLoops x.loops pc
  { x with loops := r.1, pc := r.2 }

/-- A stream that goes on with the next word. -/
def advance1 (x : StreamCtx) : StreamCtx := goTo x (x.pc + 32)

/-- The effective seal of a descriptor (R132). -/
def effSeal (x : StreamCtx) (rel : Bool) (g : Nat) : Nat :=
  if rel then (x.loops.foldl (fun n f => n + f.iter * f.step.toNat) g) % 16 else g % 16

/-- The iterations and seal steps of a stream's loops, as an item keeps them (R132). -/
def itersOf (x : StreamCtx) : List (Nat × BitVec 4) := x.loops.map fun f => (f.iter, f.step)

/-! ### Scratchpad ranges and seals (R146-R151) -/

/-- Bytes of a tile scratchpad. -/
def spSize : Nat := 0x400000

/-- A byte range of a scratchpad: start and length. -/
abbrev Range := Nat × Nat

/-- The pages of byte ranges, ascending (R149). -/
def pagesOf (rs : List Range) : List Nat :=
  rs.foldl (fun l r =>
    if r.2 = 0 then l
    else ((List.range ((r.1 + r.2 - 1) / 4096 + 1 - r.1 / 4096)).map (· + r.1 / 4096)).foldl (fun l p => insNat p l) l) []

/-- A range check of a slot over its ranges: the first byte outside the scratchpad decides (R155). -/
def ckSp (slot : Nat) (rs : List Range) : List Check :=
  rs.map fun r => ckRange (decide (0 < r.2 ∧ spSize < r.1 + r.2)) slot (max r.1 spSize)

/-- The page uses in flight of one page at the present cycle (R149, R150). -/
def usesOf (s : State) (p page : Nat) (producer : Bool) : List PageUse :=
  (tileAt s (devTile s p)).pages.filter fun u =>
    u.ptile = p && u.page.toNat = page && u.producer == producer &&
      (match u.until_ with | none => true | some c => decide (s.time.cycle < c))

/-- The stream of the use that issued first (R156). -/
def firstUse (us : List PageUse) : Nat :=
  match us.foldl (fun m u => match m with
    | none => some u
    | some v => if u.issued < v.issued ∨ (u.issued = v.issued ∧ sc u.stream < sc v.stream) then some u else some v) none with
  | none => 3
  | some u => sc u.stream

/-- The seal of a page of a program tile. -/
def sealOf (s : State) (p page : Nat) : Nat := (rd 0 (ctxOf s p).seals page).toNat

/-- The detail word of a seal failure (R156; log 10). -/
def sealDetail (producer : Bool) (cause page slot named found other : Nat) : Nat :=
  bn producer * 2 ^ 31 + cause * 2 ^ 29 + page * 2 ^ 19 + slot * 2 ^ 17 + named * 2 ^ 13 + found * 2 ^ 9 + other * 2 ^ 7

/-- The check of one consumed page (R147). -/
def consumerCheck (s : State) (p slot named page : Nat) : Check :=
  let g := sealOf s p page
  let prod := usesOf s p page true
  if g = named then ⟨9, !prod.isEmpty, 0x06, sealDetail false 1 page slot named g (firstUse prod)⟩
  else ⟨9, true, if precedes 4 g named then 0x05 else 0x06, sealDetail false 0 page slot named g 3⟩

/-- The check of one produced page (R148): `skipPred` leaves out the predecessor rule (R135). -/
def producerCheck (s : State) (p slot named : Nat) (skipPred : Bool) (page : Nat) : Check :=
  let g := sealOf s p page
  let con := usesOf s p page false
  let prod := usesOf s p page true
  if !con.isEmpty then ⟨9, true, 0x06, sealDetail true 2 page slot named g (firstUse con)⟩
  else if !prod.isEmpty then ⟨9, true, 0x05, sealDetail true 1 page slot named g (firstUse prod)⟩
  else
    let want := (named + 15) % 16
    ⟨9, !skipPred && decide (g ≠ want), if precedes 4 g want then 0x05 else 0x06,
      sealDetail true 0 page slot named g 3⟩

/-- One scratchpad operand of an instruction: its slot, program tile, byte ranges, role and effective seal. -/
structure Operand where
  slot     : Nat
  ptile    : Nat
  ranges   : List Range
  producer : Bool
  named    : Nat
  deriving DecidableEq, Repr

/-- The seal checks of operands (R129 check 9). -/
def sealChecks (s : State) (os : List Operand) : List Check :=
  os.flatMap fun o => (pagesOf o.ranges).map fun pg =>
    if o.producer then producerCheck s o.ptile o.slot o.named false pg else consumerCheck s o.ptile o.slot o.named pg

/-- Would a seal failure only wait in fenced mode (R116): a seal not yet stamped, or consumers not finished? -/
def sealWaits (c : Check) : Bool :=
  c.order == 9 && ((c.detail < 2 ^ 31 && c.reason == 0x05) || (2 ^ 31 ≤ c.detail && bitsN c.detail 29 2 == 2))

/-- Operands register in flight: consumers until `cend`, producers until their item completes, or until `pend`
(R147-R149). -/
def register (s : State) (p : Nat) (st : Stream) (seq : BitVec 32) (cend : Option Nat) (os : List Operand) : State :=
  os.foldl (fun s o =>
    modTile s (devTile s o.ptile) fun t =>
      { t with pages := t.pages ++ (pagesOf o.ranges).map fun pg =>
          { ptile := o.ptile, owner := p, page := BitVec.ofNat 10 pg, producer := o.producer,
            sealed := BitVec.ofNat 4 o.named, stream := st, seq := seq, issued := s.time.cycle,
            until_ := if o.producer then none else cend } }) s

/-- A page stamped with a seal. -/
def stamp (s : State) (p page g : Nat) : State :=
  modCtxOf s p fun c => { c with seals := wr 0 c.seals page (BitVec.ofNat 4 g) }

/-- Does a page use belong to an item? -/
def isUseOf (p : Nat) (st : Stream) (seq : BitVec 32) (u : PageUse) : Bool :=
  u.owner = p && u.stream == st && u.seq == seq

/-- An item's periods end, with its seals stamped when it is DONE (R149, R151). -/
def endUses (s : State) (p : Nat) (st : Stream) (seq : BitVec 32) (ok : Bool) : State :=
  let us := (s.tiles.map fun e => e.2.pages.filter (isUseOf p st seq)).flatten
  let s := { s with tiles := s.tiles.map fun e =>
    (e.1, { e.2 with pages := e.2.pages.filter fun u => !isUseOf p st seq u }) }
  if ok then us.foldl (fun s u => if u.producer then stamp s u.ptile u.page.toNat u.sealed.toNat else s) s else s

/-- Uses whose period is over leave the lists (R149). -/
def pruneUses (s : State) : State :=
  { s with tiles := s.tiles.map fun e => (e.1, { e.2 with pages := e.2.pages.filter fun u =>
      match u.until_ with | none => true | some c => decide (s.time.cycle < c) }) }

/-! ### Scratchpad bytes -/

/-- Is an 8 B word that the range touches marked uncorrectable (R225)? Its address. -/
def spError (c : Context) (a n : Nat) : Option Nat :=
  c.spUe.find? fun w => a < w + 8 && w < a + n

/-- Scratchpad bytes written: a word that is wholly covered loses its error mark (R225). -/
def spWrite (c : Context) (a : Nat) (bs : List Byte) : Context :=
  { c with sp := wrBytes c.sp a bs, spUe := c.spUe.filter fun w => !(a ≤ w && w + 8 ≤ a + bs.length) }

/-! ### Halts (R154, R155, R160) -/

/-- The halt records of one tile: the first since program load stays (R160). Of the streams that fault in its cycle it names the first in
the order F, B, U and has the multi bit set (R154). -/
def haltRecord (t : Tile) (p now : Nat) (st : Stream) (addr : BitVec 48) (reason detail : Nat) : HaltInfo :=
  let h : HaltInfo :=
    { valid := true, multi := false, stream := BitVec.ofNat 2 (sc st), ptile := BitVec.ofNat 9 p,
      reason := BitVec.ofNat 8 reason, detail := BitVec.ofNat 32 detail, addr := addr, cycle := now }
  if !t.halt.valid then h
  else if t.halt.cycle = now && t.halt.stream.toNat ≠ sc st then
    (if sc st < t.halt.stream.toNat then { h with multi := true } else { t.halt with multi := true })
  else t.halt

/-- A stream stopped by a halt of its tile. -/
def haltStream (brk : Bool) (x : StreamCtx) : StreamCtx :=
  match x.run with
  | .ended => x
  | .notStarted => x
  | _ => { x with run := if brk then .atBreak else .halted }

/-- A tile's context with all three streams stopped. -/
def haltCtx (brk : Bool) (c : Context) : Context :=
  { c with f := haltStream brk c.f, b := haltStream brk c.b, u := haltStream brk c.u }

/-- Is an item a 4 × 4 gang instruction (R106)? -/
def isGang4 (i : Item) : Bool := i.kind == .array && bitsN i.w.toNat 239 2 == 2

/-- Tiles of a program cluster that run a 4 × 4 gang item with this device tile (R108). -/
def gangMates (s : State) (t : Nat) : List Nat :=
  let head := t / 4 * 4
  if (tileAt s head).items.any isGang4 then
    (List.range 4).map (· + head)
  else [t]

/-- The words of `TILE.HALT_INFO` (R160). -/
def haltWord (h : HaltInfo) : Nat :=
  bn h.valid * 2 ^ 63 + bn h.multi * 2 ^ 62 + h.stream.toNat * 2 ^ 60 + h.ptile.toNat * 2 ^ 48
    + h.reason.toNat * 2 ^ 40 + h.detail.toNat

/-- A unit path of a tile (R406). -/
def tilePath (s : State) (t : Nat) : Word := unitPath s 2 t

/-- One tile stops with a reason; its halt is reported as an event (R154, R417). -/
def haltOne (s : State) (t p : Nat) (st : Stream) (addr : BitVec 48) (reason detail : Nat) : State :=
  let x := tileAt s t
  let h := haltRecord x p s.time.cycle st addr reason detail
  let s := putTile s t { x with halt := h, ctx := haltCtx (reason = 0x10) x.ctx }
  raiseEvent s 0x01 2 (tilePath s t) (natLe 8 (haltWord h) ++ natLe 8 h.addr.toNat)

/-- A gang item that a halt of a member fails (R108). -/
def failGang (reason detail : Nat) (i : Item) : Item :=
  if isGang4 i && i.failed.isNone then
    { i with failed := some (BitVec.ofNat 8 reason), fdetail := BitVec.ofNat 64 detail }
  else i

/-- A tile halts (R154): its streams stop at once, those of a 4 × 4 gang together, whose item fails with the same
reason (R108). A halt other than `BREAKPOINT` stops the program: the module enters `FAULTED` (R436). -/
def haltTile (s : State) (t : Nat) (st : Stream) (addr : BitVec 48) (reason detail : Nat) (fault : Bool) : State :=
  let mates := gangMates s t
  let s := if reason = 0x10 ∨ mates.length ≤ 1 then s
    else modTile s (t / 4 * 4) fun x => { x with items := x.items.map (failGang reason detail) }
  let s := mates.foldl (fun s m => haltOne s m (ptileOf s m) st addr reason detail) s
  if reason = 0x10 then s else if fault then dieFault s 0x01 else s

/-- A halt that is a die fault unless it is a breakpoint. -/
def halt (s : State) (t : Nat) (st : Stream) (addr : BitVec 48) (reason detail : Nat) : State :=
  haltTile s t st addr reason detail true

/-- A second stream of the tile faults at issue in the cycle of the recorded halt (R154). -/
def haltSecond (s : State) (t : Nat) (st : Stream) (addr : BitVec 48) (reason detail : Nat) : State :=
  modTile s t fun x => { x with halt := haltRecord x (ptileOf s t) x.halt.cycle st addr reason detail }

/-! ### Counters (R310-R314) -/

/-- A counter set. -/
def ctrSet (s : State) (scope target i v : Nat) : State :=
  let v := BitVec.ofNat 16 v
  if scope = 0 then modCtxOf s target fun c => { c with sync := wr 0 c.sync i v }
  else if scope = 1 then { s with cluster := wr 0 s.cluster (32 * target + i) v }
  else { s with dieSync := wr 0 s.dieSync i v }

/-- Would an increment carry a counter past 0xFFFF (R311)? It is not applied then: R17's word that sync counters wrap is not followed (log
95). -/
def ctrOver (s : State) (scope target i inc : Nat) : Bool := decide (0xFFFF < ctrVal s scope target i + inc)

/-- A counter increment that fits. -/
def ctrAdd (s : State) (scope target i inc : Nat) : State := ctrSet s scope target i (ctrVal s scope target i + inc)

/-- The detail of `SYNC_OVERFLOW` (R155). -/
def syncDetail (scope i : Nat) : Nat := scope * 2 ^ 30 + i % 64 * 2 ^ 24

/-! ### Work items (R123, R136) -/

/-- What a stream raised in the present cycle (R65, R189). -/
def freshOf (s : State) (t k : Nat) : Raised :=
  let e := rd (0, {}) (tileAt s t).fresh k
  if e.1 = s.time.cycle then e.2 else {}

/-- The flags that an item raised, in the registers of its stream and tile (R64, R189). -/
def raiseFlags (s : State) (t : Nat) (st : Stream) (r : Raised) : State :=
  let new := raisedOr (freshOf s t (sc st)) r
  modTile s t fun x =>
    { x with cvt := upd {} x.cvt (sc st) fun c => cvtRaise c r,
             ieee := upd {} x.ieee (sc st) fun f => ieeeOr f r.ieee,
             fresh := wr (0, {}) x.fresh (sc st) (s.time.cycle, new) }

/-- The device tile on which a program tile's context is, and the items there. -/
def findItem (s : State) (t : Nat) (st : Stream) (seq : BitVec 32) : Option Item :=
  (tileAt s t).items.find? fun i => i.stream == st && i.seq == seq

/-- The arrays of a tile without an item's flow: its instruction, its rows on the way to the scratchpad, and the buffer that it made
overflow. -/
def dropFlow (p : Nat) (st : Stream) (seq : BitVec 32) (x : Tile) : Tile :=
  let mine := fun (a : Stream) (b : BitVec 32) (q : Nat) => a == st && b == seq && q = p
  { x with arrays := x.arrays.map fun e => (e.1,
      { e.2 with feeds := e.2.feeds.filter fun f => !mine f.stream f.seq f.owner,
                 fifo := e.2.fifo.map fun r => if mine r.stream r.seq r.owner then { r with words := [], last := false } else r,
                 full := if e.2.full.any fun q => q.1 == st && q.2.1 == seq then none else e.2.full }) }

/-- The tile's items without one, and its flow gone from the arrays of the cluster (R106). -/
def dropItem (s : State) (t : Nat) (st : Stream) (seq : BitVec 32) : State :=
  let p := ptileOf s t
  let s := modTile s t fun x => { x with items := x.items.filter fun i => !(i.stream == st && i.seq == seq) }
  { s with tiles := s.tiles.map fun e =>
      (e.1, if e.2.arrays.any fun a => a.2.feeds.any fun f => f.stream == st && f.seq == seq && f.owner = p
        then dropFlow p st seq e.2 else e.2) }

/-- The completion signal of an item (R136, R314). -/
def fireCsig (s : State) (t p : Nat) (i : Item) : State :=
  let scope := i.csig.scope.toNat
  if scope = 0 then s
  else
    let k := scope - 1
    let tgt := ctrTarget k p
    if ctrOver s k tgt i.csig.index.toNat 1 then
      halt s t i.stream i.addr 0x09 (syncDetail k i.csig.index.toNat)
    else ctrAdd s k tgt i.csig.index.toNat 1

/-- An item completes: its periods end, its seals are stamped if it is DONE, its record is written and its completion
signal fires (R21, R136, R149, R151). -/
def completeItem (s : State) (t p : Nat) (i : Item) (failed : Option (BitVec 8)) (detail : Word) : State :=
  let s := dropItem s t i.stream i.seq
  let s := endUses s p i.stream i.seq failed.isNone
  let s := record s (itemRecord s p i failed detail)
  fireCsig s t p i

/-- The detail of a failed memory access (R138). -/
def eccDetail (source addr : Nat) : Word := BitVec.ofNat 64 (source * 2 ^ 60 + addr % 2 ^ 52)

/-- A fresh item at issue (R123). -/
def newItem (s : State) (t : Nat) (st : Stream) (kind : ItemKind) (op : Nat) (w : BitVec 246) (csig : Csig) : Item :=
  let x := strm s t st
  let c := rd {} (tileAt s t).ctx.clove.words (sc st)
  { kind := kind, stream := st, seq := x.seq, addr := x.pc, op := BitVec.ofNat 10 op, w := w, csig := csig,
    issued := s.time.cycle, due := 0, scalar := 0, draw := x.nutElem, step := x.nutStep, window := c.window,
    layer := c.layer, base := c.base, iters := itersOf x, arrays := [], reads := [], writes := [], raised := {}, started := false,
    failed := none, fdetail := 0, applied := [] }

/-- The stream's work-item number moves on (R123). -/
def takeSeq (s : State) (t : Nat) (st : Stream) : State := modStrm s t st fun x => { x with seq := x.seq + 1 }

/-- `n` Nutmeg values are drawn (R51). -/
def drawN (s : State) (t : Nat) (st : Stream) (n : Nat) : State :=
  modStrm s t st fun x => { x with nutElem := x.nutElem + BitVec.ofNat 64 n }

/-- An item enters the tile's ledger. -/
def addItem (s : State) (t : Nat) (i : Item) : State := modTile s t fun x => { x with items := x.items ++ [i] }

/-- The Nutmeg word w1 (R54, R316) of program tile `p`, stream code and step. -/
def nutW1 (s : State) (p code : Nat) (step : BitVec 32) : Word :=
  let c := fun (a : Nat) => relCoord s.fab.extent (ownSlice s) s.fab.node.toNat a
  BitVec.ofNat 64 (step.toNat * 2 ^ 32 + code * 2 ^ 30 + c 0 * 2 ^ 25 + c 1 * 2 ^ 20 + c 2 * 2 ^ 15 + c 3 * 2 ^ 11 + p)

/-- The seed of the loaded program (R52). -/
def seedOf (s : State) : Word := match s.prog with | some p => p.seed | none => 0

/-- The `n` random values of an item under SR (R53, R54), with stream code 0 inside a recompute window (R215); none are
drawn in the other modes. -/
def randoms (s : State) (p : Nat) (i : Item) (mode : RMode) (n : Nat) : List Nat :=
  if mode = .sr then (List.range n).map fun k =>
    nutmeg (seedOf s) (nutW1 s p (if i.window then 0 else sc i.stream) i.step) (i.draw + BitVec.ofNat 64 k)
  else List.replicate n 0

/-! ### The slot map (R143-R145) -/

/-- The 16-bit entry of a stream's phase. -/
def phaseEntry (s : State) (p phase : Nat) : BitVec 16 :=
  match s.prog with
  | some g => nth 0 (rd [] g.slotMaps p) phase
  | none => 0

/-- The grant mask of a unit: arrays 0-3, and 4 for the vector unit (R143). -/
def grantMask (e : BitVec 16) (unit : Nat) : Nat := bitsN e.toNat (3 * unit) 3

/-- Is a grant mask shared: two or three streams (R143)? -/
def sharedMask (m : Nat) : Bool := m = 3 || 5 ≤ m

/-- The grant mask of a unit in the current phase of a stream. -/
def maskOf (s : State) (t : Nat) (st : Stream) (unit : Nat) : Nat :=
  grantMask (phaseEntry s (ptileOf s t) (strm s t st).phase.toNat) unit

/-- Has a unit's interval condition passed: a span after the last array instruction (R100, R144), and no
instruction of the stream unstarted in the vector unit's queue (R167)? -/
def intervalOver (s : State) (t unit : Nat) (h : Stream) : Bool :=
  if unit = 4 then !(tileAt s t).vec.queue.any fun i => i.stream == h
  else
    let a := rd {} (tileAt s t).arrays unit
    match a.lastCycle with
    | none => true
    | some c => decide (c + a.lastSpan ≤ s.time.cycle)

/-- A unit's holder as it stands in the unit, and whether it has released it. -/
def rawHolder (s : State) (t unit : Nat) : Option Stream × Bool :=
  if unit = 4 then ((tileAt s t).vec.holder, (tileAt s t).vec.released)
  else let a := rd {} (tileAt s t).arrays unit; (a.holder, a.released)

/-- The holder of a unit: a released unit becomes free once its interval condition is met (R144). -/
def holderOf (s : State) (t unit : Nat) : Option Stream :=
  match rawHolder s t unit with
  | (none, _) => none
  | (some h, r) => if r && intervalOver s t unit h then none else some h

/-- A unit with its holder set. -/
def setHolder (s : State) (t unit : Nat) (h : Option Stream) (released : Bool) : State :=
  modTile s t fun x =>
    if unit = 4 then { x with vec := { x.vec with holder := h, released := released } }
    else { x with arrays := upd {} x.arrays unit fun a => { a with holder := h, released := released } }

/-- Cycles since the last issue on a unit, for the detail of R155. -/
def sinceIssue (s : State) (t unit : Nat) : Nat :=
  match (if unit = 4 then (tileAt s t).vec.lastCycle else (rd {} (tileAt s t).arrays unit).lastCycle) with
  | some c => s.time.cycle - c
  | none => 0

/-- Is a unit free for an acquisition (R145)? -/
def unitFree (s : State) (t unit : Nat) : Bool := (holderOf s t unit).isNone

/-- Does a stream hold a unit's shared grant (R143)? -/
def holdsShared (s : State) (t : Nat) (st : Stream) (unit : Nat) : Bool :=
  (strm s t st).held.getLsbD unit && holderOf s t unit == some st

/-- The check of a claim on a unit (R144, R145). -/
def claimCheck (s : State) (t : Nat) (st : Stream) (unit : Nat) : List Check :=
  let m := maskOf s t st unit
  let h := holderOf s t unit
  let hc := match h with | some x => sc x | none => 3
  let since := sinceIssue s t unit
  [ ckConf (!m.testBit (sc st)) 0 unit hc since,
    ckConf (h.isSome && h != some st) 1 unit hc since,
    ckConf (sharedMask m && !holdsShared s t st unit) 8 unit 3 0 ]

/-- A stream that issues on a unit is its holder; an exclusive grant makes it so (R144). -/
def takeHolder (s : State) (t : Nat) (st : Stream) (unit : Nat) : State := setHolder s t unit (some st) false

/-- A stream gives up the units that a predicate names. -/
def releaseUnits (s : State) (t : Nat) (st : Stream) (which : Nat → Bool) : State :=
  let s := (List.range 5).foldl (fun s u =>
    if which u && (rawHolder s t u).1 == some st then setHolder s t u (some st) true else s) s
  modStrm s t st fun x =>
    { x with held := BitVec.ofNat 5 ((List.range 5).foldl (fun n u =>
        if x.held.getLsbD u && !which u then n + 2 ^ u else n) 0) }

/-! ### Open chains at a stop (R31, R142) -/

/-- Are all three streams stopped, with no item of the context in flight (R31)? -/
def switchable (s : State) (t : Nat) : Bool :=
  let x := tileAt s t
  x.loaded.isSome && allStreams.all (fun st => atStop s (ptileOf s t) (ctxS x.ctx st)) && x.items.isEmpty

/-- The arrays of a tile on which a chain of its own streams is open. -/
def openChains (s : State) (t : Nat) : List (Nat × Chain) :=
  (List.range 4).filterMap fun n => match (rd {} (tileAt s t).arrays n).chain with
    | some c => if c.owner = ptileOf s t then some (n, c) else none
    | none => none

/-- An array whose open accumulation is discarded: its set is free again (R91, R142). -/
def dropChain (now : Nat) (d : Chain) (u : ArrayUnit) : ArrayUnit :=
  match u.chain with
  | some c => if c.stream == d.stream && c.seq == d.seq && c.owner = d.owner then
      let u := { u with chain := none, sets := wr (.block []) u.sets c.set.val (.block []) }
      if c.set = 0 then { u with free0 := some now } else { u with free1 := some now }
    else u
  | none => u

/-- The tiles whose arrays an item may use: its own cluster's (R106). -/
def clusterTiles (t : Nat) : List Nat := (List.range 4).map (· + t / 4 * 4)

/-- The halt of a stream whose chain on array `n` is open where it stops; the accumulation is discarded on every array that holds a
part of it (R142). -/
def chainHalt (s : State) (t n : Nat) (c : Chain) : State :=
  let s := (clusterTiles t).foldl (fun s g => if (tileAt s g).arrays.isEmpty then s else modTile s g fun x =>
    { x with arrays := x.arrays.map fun e => (e.1, dropChain s.time.cycle c e.2) }) s
  halt s t c.stream (strm s t c.stream).pc 0x0A (n * 2 ^ 28 + c.afmt.toNat)

/-- The check for an open chain at a point where R31 would allow a switch (R142). -/
def chainStop (s : State) (t : Nat) : State :=
  if s.firm.state == .running && switchable s t then
    match openChains s t with
    | [] => s
    | (n, c) :: _ => chainHalt s t n c
  else s

end Sys2Proof.Machine
end

