-- ==== Sys2Proof/Machine/AddressMap.lean ====
section
/-! DEFINITION. The device address map (R231, R257-R262), accesses to the memories with their error marks (R225, R237, R252,
R263), the cache of the home slices (R233-R235) and the requests behind it (R248-R250). -/

namespace Sys2Proof.Machine

/-- Bases of the regions (R257). -/
def llmBase : Nat := 0x010000000000
/-- The tile scratchpad windows. -/
def spBase : Nat := 0x020000000000
/-- The control registers. -/
def regBase : Nat := 0x0F0000000000
/-- The far tier. -/
def farBase : Nat := 0x100000000000
/-- The size of HBM (R246, R257). -/
def hbmSize : Nat := 0x8000000000
/-- The size of an LLM way-group (R228, R231). -/
def wayGroup : Nat := 0x500000

/-- CXL links that the bifurcation gives (R266). -/
def cxlLinks (s : State) : Nat := match s.mem.bifur with | 0 => 1 | 1 => 2 | _ => 4

/-- The interleave ways (R261). -/
def cxlWays (s : State) : Nat := s.mem.ways

/-- The interleave granularity in bytes (R261). -/
def cxlGran (s : State) : Nat := 256 * 2 ^ s.mem.gran

/-- A link's present capacity in 256 MiB units (R262). -/
def cxlCap (s : State) (k : Nat) : Nat :=
  let d := rd {} s.mem.cxl k
  if d.present && k < cxlLinks s then d.capacity else 0

/-- The mapped capacity in 256 MiB units (R262). -/
def mappedCap (s : State) : Nat :=
  let n := cxlWays s
  if n = 1 then min 16384 ((List.range 4).foldl (fun t k => t + cxlCap s k) 0)
  else if (List.range n).all fun k => 0 < cxlCap s k then
    min 16384 (n * (List.range n).foldl (fun m k => min m (cxlCap s k)) (cxlCap s 0))
  else 0

/-- The link of a far-tier offset when devices are concatenated in link order (R262). -/
def concatLink (s : State) : List Nat → Nat → Nat
  | [], _ => 0
  | k :: ks, o => let c := cxlCap s k * 2 ^ 28; if o < c then k else concatLink s ks (o - c)

/-- The link that serves a far-tier address (R262). -/
def farLink (s : State) (a : Nat) : Nat :=
  let o := a - farBase
  if cxlWays s = 1 then concatLink s [0, 1, 2, 3] o else o / cxlGran s % cxlWays s

/-- The offset of a far-tier address on its device (R262). -/
def farOffset (s : State) (a : Nat) : Nat :=
  let o := a - farBase
  let n := cxlWays s
  if n = 1 then o - ((List.range (farLink s a)).foldl (fun t k => t + cxlCap s k) 0) * 2 ^ 28
  else o / (n * cxlGran s) * cxlGran s + o % cxlGran s

/-- The regions of the map (R257); `hole` is unmapped or an LLM hole (R231). -/
inductive Region where
  | hbm | llm | sp (t : Nat) | reg | far | hole
  deriving DecidableEq, Repr

/-- Is an LLM way-group in scratchpad mode (R229)? -/
def inScratch (s : State) (sl g : Nat) : Bool :=
  let x := rd {} s.mem.slices sl
  sl < 16 && x.scratch.getLsbD g && !x.disabled.getLsbD g

/-- The region of an address (R257); memory whose start-up phase has not completed is unmapped (R435). -/
def regionAt (s : State) (a : Nat) : Region :=
  if a < hbmSize then (if s.mem.offchip then .hbm else .hole)
  else if llmBase ≤ a && a < llmBase + 16 * 16 * wayGroup then
    let g := (a - llmBase) / wayGroup
    if s.mem.onchip && inScratch s (g / 16) (g % 16) then .llm else .hole
  else if spBase ≤ a && a < spBase + 64 * spSize then (if s.mem.onchip then .sp ((a - spBase) / spSize) else .hole)
  else if regBase ≤ a && a < regBase + 0x10000000 then .reg
  else if s.mem.offchip && farBase ≤ a && a < farBase + mappedCap s * 2 ^ 28 then .far
  else .hole

/-- The units that decide an access's region: an LLM way-group, a scratchpad, else the region whole. -/
def regionStep : Region → Nat
  | .llm => wayGroup
  | _ => spSize

/-- Does a range lie wholly in one region (R138)? LLM way-groups are looked at one by one. -/
def inRegion (s : State) (a n : Nat) (r : Region) : Bool :=
  regionAt s a == r && (n = 0 || (regionAt s (a + n - 1) == r &&
    (r != .llm || (List.range (n / wayGroup + 1)).all fun k => regionAt s (min (a + k * wayGroup) (a + n - 1)) == r)))

/-- Is an address one that instructions may lie at (R126, R231)? -/
def codeAddr (s : State) (a : Nat) : Bool := regionAt s a == .hbm || regionAt s a == .llm

/-! ### Lines in the home slices (R233) -/

/-- The home slice of an address in HBM or the far tier (R233). -/
def homeSlice (a : Nat) : Nat :=
  (List.range 10).foldl (fun h i => h ^^^ bitsN a (10 + 4 * i) 4) 0

/-- The ways in cache mode (R229, R233): way-group g holds ways 5 g to 5 g + 4. -/
def cacheWays (x : Slice) : List Nat :=
  (List.range 80).filter fun w => !x.scratch.getLsbD (w / 5) && !x.disabled.getLsbD (w / 5)

/-- The place of a way of a line's set in the tag table (R233). -/
def tagKey (line w : Nat) : Nat := 128 * (line % 2 ^ 14) + w

/-- The way that holds a line. -/
def wayOf (x : Slice) (line : Nat) : Option Nat := (cacheWays x).find? fun w => rd 0 x.tags (tagKey line w) = line + 1

/-- Is a line held by its home slice? -/
def isCached (s : State) (line : Nat) : Bool := (wayOf (rd {} s.mem.slices (homeSlice (64 * line))) line).isSome

/-! ### Error marks -/

/-- Does a marked unit of `u` bytes at `m` meet the range, and only in part? -/
def meets (u m a n : Nat) : Bool := a < m + u && m < a + n
/-- Is a marked unit only partly covered? -/
def partly (u m a n : Nat) : Bool := meets u m a n && !(a ≤ m && m + u ≤ a + n)

/-- Bytes written into a table whose marked units are left as they are where they are only partly covered, and lose
their mark where they are wholly covered (R225, R237, R252): the table, the marks and the first unit left. -/
def wrMarked (t : Table Byte) (marks : List Nat) (u a : Nat) (bs : List Byte) : Table Byte × List Nat × Option Nat :=
  let n := bs.length
  let part := marks.filter fun m => partly u m a n
  let t' := part.foldl (fun x m =>
    let lo := max m a
    let hi := min (m + u) (a + n)
    wrBytes x lo (rdBytes t lo (hi - lo))) (wrBytes t a bs)
  (t', marks.filter fun m => !(meets u m a n && !partly u m a n), part.head?)

/-- The source code of R138 for a region. -/
def sourceOf : Region → Nat
  | .sp _ => 0 | .llm => 4 | .far => 6 | _ => 5

/-- The unit of an error mark: a 64 B line, or an 8 B word of an SRAM (R138). -/
def markUnit : Region → Nat
  | .sp _ => 8 | .llm => 8 | _ => 64

/-- The retired granules that a range meets (R256), by address. -/
def retiredIn (s : State) (a n : Nat) : List Nat := (s.mem.retired.map (256 * ·)).filter fun g => meets 256 g a n

/-- The first marked unit that a device read meets (R225, R237, R252), or a retired granule, which reads as poison (R256). A line that its
home slice holds is read there. -/
def devMark (s : State) (a n : Nat) : Option Nat :=
  match retiredIn s a n with
  | g :: _ => some (max g (a / 64 * 64))
  | [] =>
  match regionAt s a with
  | .sp t => ((tileAt s t).ctx.spUe.find? fun w => meets 8 w (a - spBase - t * spSize) n).map (· + spBase + t * spSize)
  | r => (s.mem.poison ++ s.mem.ue).find? fun m =>
      meets (markUnit r) m a n && markUnit r == markUnit (regionAt s m) && !isCached s (m / 64)

/-- Does a far-tier range touch a link that is down (R263)? -/
def farDown (s : State) (a n : Nat) : Bool :=
  regionAt s a == .far && (List.range (if n = 0 then 0 else min ((n + 255) / 256 + 1) 65536)).any fun k =>
    s.mem.cxlDown.getLsbD (farLink s (min (a + 256 * k) (a + n - 1)))

/-- Bytes at a device address. -/
def devRead (s : State) (a n : Nat) : List Byte :=
  match regionAt s a with
  | .sp t => rdBytes (tileAt s t).ctx.sp (a - spBase - t * spSize) n
  | _ => rdBytes s.mem.dev a n

/-- The stack of an HBM address (R247). -/
def stackOf (a : Nat) : Nat := bitsN a 8 3 ^^^ bitsN a 17 3 ^^^ bitsN a 26 3 ^^^ bitsN a 35 3
/-- Its pseudo-channel (R247). -/
def pcOf (a : Nat) : Nat := bitsN a 11 6 ^^^ bitsN a 20 6 ^^^ bitsN a 29 6
/-- Its offset within the pseudo-channel (R247). -/
def pcOffset (a : Nat) : Nat := bitsN a 17 22 * 256 + a % 256

/-- A slice changed. -/
def modSlice (s : State) (k : Nat) (f : Slice → Slice) : State :=
  { s with mem := { s.mem with slices := upd {} s.mem.slices k f } }
/-- An HBM stack changed. -/
def modStack (s : State) (k : Nat) (f : Stack → Stack) : State :=
  { s with mem := { s.mem with hbm := upd {} s.mem.hbm k f } }

/-- The lines of a range. -/
def linesOf (a n : Nat) : List Nat := if n = 0 then [] else (List.range ((a + n - 1) / 64 + 1 - a / 64)).map (· + a / 64)

/-- Does a line of HBM or the far tier carry the mark, or lie in a retired granule (R252, R256)? -/
def linePoison (s : State) (line : Nat) : Bool := s.mem.poison.contains (64 * line) || s.mem.retired.contains (line / 4)

/-- A line of HBM or the far tier takes the poison mark in its memory (R252). -/
def markPoison (s : State) (line : Nat) : State :=
  { s with mem := { s.mem with poison := insNat (64 * line) s.mem.poison, ue := s.mem.ue.filter fun a => a ≠ 64 * line } }

/-- Save slots of R33: one for each context beyond the first on each enabled tile. -/
def saveSlots (s : State) : Nat := progP s - tilesOn s

/-- The size of a save slot (R30). -/
def saveSlot : Nat := 4160 * 1024

/-- The base of the save area at the top of HBM (R33). -/
def saveBase (s : State) : Nat := hbmSize - saveSlots s * saveSlot

/-- The save slots that a range meets (R33). -/
def slotsMet (s : State) (a n : Nat) : List Nat :=
  (List.range (saveSlots s)).filter fun k => meets saveSlot (saveBase s + k * saveSlot) a n

/-- Bytes written at a device address, and the first marked unit that was left as it is. -/
def devWrite (s : State) (a : Nat) (bs : List Byte) : State × Option Nat :=
  match regionAt s a with
  | .sp t =>
    let c := (tileAt s t).ctx
    let w := wrMarked c.sp c.spUe 8 (a - spBase - t * spSize) bs
    (modTile s t fun x => { x with ctx := { c with sp := w.1, spUe := w.2.1 } }, w.2.2.map (· + spBase + t * spSize))
  | r =>
    let here := fun m => markUnit (regionAt s m) == markUnit r
    let p := s.mem.poison.filter fun m => here m && !isCached s (m / 64)
    let u := s.mem.ue.filter here
    let w := wrMarked s.mem.dev (p ++ u) (markUnit r) a bs
    let keep := fun m => w.2.1.contains m || !here m || (s.mem.poison.contains m && isCached s (m / 64))
    -- a retired granule keeps its bytes, and the write that meets it fails (R256)
    let ret := retiredIn s a bs.length
    let dev := ret.foldl (fun x g =>
      let lo := max g a
      wrBytes x lo (rdBytes s.mem.dev lo (min (g + 256) (a + bs.length) - lo))) w.1
    let bad := match ret with | g :: _ => some (max g (a / 64 * 64)) | [] => w.2.2
    let met := if r == .hbm then (slotsMet s a bs.length).foldl (fun l k => insNat k l) s.mem.slotsMet else s.mem.slotsMet
    ({ s with mem := { s.mem with dev := dev, poison := s.mem.poison.filter keep, ue := s.mem.ue.filter keep, slotsMet := met } }, bad)

/-- A tile's scratchpad error tallies (R227): a corrected word waits for its write-back (R225). -/
def noteSp (s : State) (t : Nat) (addr : Nat) (ue : Bool) : State :=
  modTile s t fun x =>
    if ue then { x with spUeTally := tallyAdd x.spUeTally 1, spUeAddr := some (BitVec.ofNat 22 addr) }
    else { x with spCe := tallyAdd x.spCe 1, spCorrected := x.spCorrected ++ [BitVec.ofNat 22 addr] }

/-- An LLM slice's error tallies (R237, R245), by window address. -/
def noteLlm (s : State) (a : Nat) (ue : Bool) : State :=
  let o := a - llmBase
  modSlice s (o / (16 * wayGroup)) fun x =>
    if ue then { x with ue := tallyAdd x.ue 1, ueOff := some (BitVec.ofNat 27 (o % (16 * wayGroup))) }
    else { x with ce := tallyAdd x.ce 1 }

/-! ### The rows of HBM (R253-R256) -/

/-- The row of an HBM line: its pseudo-channel and the 1 KiB of its offset (R256). -/
def rowOf (line : Nat) : Nat := pcOf (64 * line) * 2 ^ 20 + pcOffset (64 * line) / 1024

/-- A row becomes a repair candidate (R255). -/
def addCandidate (x : Stack) (r : Nat) : Stack :=
  { x with ueRows := insNat r x.ueRows, candidates := x.candidates.filter fun c => c.1 ≠ r }

/-- A corrected line counts toward its row, which becomes a candidate at 3 lines (R255): 64 rows are tracked in a pass. -/
def noteCandidate (x : Stack) (line : Nat) : Stack :=
  let r := rowOf line
  match x.candidates.find? fun c => c.1 = r with
  | some c =>
    let ls := insNat line c.2
    if 3 ≤ ls.length then addCandidate x r
    else { x with candidates := x.candidates.map fun c => if c.1 = r then (r, ls) else c }
  | none =>
    if x.candidates.length < 64 && !x.ueRows.contains r then { x with candidates := x.candidates ++ [(r, [line])] } else x

/-- A corrected read of an HBM line (R253): its write-back waits. -/
def hbmCorrected (s : State) (line : Nat) : State :=
  modStack s (stackOf (64 * line)) fun x =>
    noteCandidate { x with ce := tallyAdd x.ce 1, corrected := x.corrected ++ [BitVec.ofNat 42 line] } line

/-- An uncorrectable read of a line (R253): a poisoned one counts as such, another becomes poisoned; `HBM.UE_ADDR` names
it. -/
def hbmBad (s : State) (line : Nat) : State :=
  let k := stackOf (64 * line)
  let p := linePoison s line
  let s := modStack s k fun x =>
    let x := { x with ueAddr := some (BitVec.ofNat 42 line) }
    if p then { x with poison := tallyAdd x.poison 1 } else addCandidate { x with ue := tallyAdd x.ue 1 } (rowOf line)
  if p then s else markPoison s line

/-! ### Requests (R247-R250, R260) -/

/-- The channel that serves a line of HBM or the far tier, and the line's offset there (R247, R262). -/
def channelOf (s : State) (line : Nat) : Nat × Nat :=
  let a := 64 * line
  if a < hbmSize then (64 * stackOf a + pcOf a, pcOffset a) else (512 + farLink s a, farOffset s a)

/-- A request joins the stream of its channel (R248-R250). -/
def memRequest (s : State) (cls : Nat) (write : Bool) (line : Nat) : State :=
  let c := channelOf s line
  { s with mem := { s.mem with
    chans := upd {} s.mem.chans c.1 fun x => { x with reqs := x.reqs ++ [⟨line, c.2, write, cls⟩] } } }

/-- The class of a write-back that a request of a class causes (R248). -/
def writebackClass (cls : Nat) : Nat := if cls = 0 then 1 else cls

/-! ### The cache of a home slice (R233-R235) -/

/-- The way that a set's replacement tree names (R234): node `n` stands over `ws`, and its bit says that the victim is in the second
half (log 85). -/
def treePick (bit : Nat → Bool) : Nat → Nat → List Nat → Option Nat
  | 0, _, ws => ws.head?
  | f + 1, n, ws =>
    if ws.length ≤ 1 then ws.head?
    else
      let h := (ws.length + 1) / 2
      if bit n then treePick bit f (2 * n + 1) (ws.drop h) else treePick bit f (2 * n) (ws.take h)

/-- The nodes above a way with the half that it does not lie in, as its use leaves them (R234). -/
def treePath (w : Nat) : Nat → Nat → List Nat → List (Nat × Nat)
  | 0, _, _ => []
  | f + 1, n, ws =>
    if ws.length ≤ 1 then []
    else
      let h := (ws.length + 1) / 2
      if (ws.take h).contains w then (n, 1) :: treePath w f (2 * n) (ws.take h) else (n, 0) :: treePath w f (2 * n + 1) (ws.drop h)

/-- A way of a line's set has been used; a write leaves its line dirty (R234). -/
def useWay (x : Slice) (line w : Nat) (write : Bool) : Slice :=
  let tree := (treePath w 7 1 (cacheWays x)).foldl (fun t p => wr 0 t (tagKey line p.1) p.2) x.tree
  { x with tree := tree, dirty := if write then insNat line x.dirty else x.dirty }

/-- The way that a new line of a set takes (R234): one that holds no line, else the tree's choice. -/
def victimWay (x : Slice) (line : Nat) : Option Nat :=
  match (cacheWays x).find? fun w => rd 0 x.tags (tagKey line w) = 0 with
  | some w => some w
  | none => treePick (fun n => rd 0 x.tree (tagKey line n) = 1) 7 1 (cacheWays x)

/-- A line leaves its slice without a write-back. -/
def uncache (s : State) (line : Nat) : State :=
  modSlice s (homeSlice (64 * line)) fun x =>
    { x with tags := (match wayOf x line with | some w => wr 0 x.tags (tagKey line w) 0 | none => x.tags),
             dirty := x.dirty.filter fun l => l ≠ line }

/-- A dirty line is written back in a class (R234, R248): the whole line, which takes away a mark that its memory held (R252). -/
def writeBack (s : State) (cls line : Nat) : State :=
  let s := modSlice s (homeSlice (64 * line)) fun x =>
    { x with dirty := x.dirty.filter fun l => l ≠ line, writebacks := x.writebacks + 1 }
  memRequest { s with mem := { s.mem with poison := s.mem.poison.filter fun a => a ≠ 64 * line } } cls true line

/-- Does a slice hold a line that its home memory does not hold yet? -/
def isDirty (s : State) (line : Nat) : Bool := (rd {} s.mem.slices (homeSlice (64 * line))).dirty.contains line

/-- A line leaves its slice; a dirty one is written back (R234). -/
def dropLine (s : State) (cls line : Nat) : State := uncache (if isDirty s line then writeBack s cls line else s) line

/-- A line is lost, with the copy that its slice held: it reads as poison until it is written whole (R237, R252, R263). -/
def loseLine (s : State) (line : Nat) : State := markPoison (uncache s line) line

/-- A request for a line reaches its home slice (R233-R235, R245, R248): it is served there or allocates the line, which a partial write
reads first. A marked line is never allocated: its reader goes to the memory (R253). `whole` says that a write covers it. -/
def touchLine (cls : Nat) (write whole : Bool) (s : State) (line : Nat) : State :=
  let k := homeSlice (64 * line)
  let x := rd {} s.mem.slices k
  match wayOf x line with
  | some w => modSlice s k fun x => useWay { x with hits := x.hits + 1 } line w write
  | none =>
    if linePoison s line then memRequest s cls false line
    else match victimWay x line with
    | none => memRequest s cls write line
    | some w =>
      let old := rd 0 x.tags (tagKey line w)
      let s := if old = 0 then s else dropLine s (writebackClass cls) (old - 1)
      let s := modSlice s k fun x =>
        useWay { x with misses := x.misses + 1, tags := wr 0 x.tags (tagKey line w) (line + 1) } line w write
      if write && whole then s else memRequest s cls false line

/-- An access to a range passes through the caches of its lines' home slices, if it is one of HBM or the far tier (R235); a line on a
link that is down answers none (R263). -/
def touch (cls : Nat) (write : Bool) (s : State) (a n : Nat) : State :=
  (linesOf a n).foldl (fun s l =>
    let r := regionAt s (64 * l)
    if (r == .hbm || r == .far) && !farDown s (64 * l) 64 then
      touchLine cls write (decide (a ≤ 64 * l) && decide (64 * l + 64 ≤ a + n)) s l
    else s) s

/-- Ranges that are read, in a class. -/
def touchReads (cls : Nat) (s : State) (rs : List (Nat × Nat)) : State := rs.foldl (fun s r => touch cls false s r.1 r.2) s
/-- Ranges that are written. -/
def touchWrites (cls : Nat) (s : State) (rs : List (Nat × Nat)) : State := rs.foldl (fun s r => touch cls true s r.1 r.2) s

/-- A double-bit error in a cached line (R237): a clean one is fetched anew, a dirty one is lost and written back with the poison mark.
Where the line lies in the slice is free (log 4). -/
def cacheError (s : State) (line : Nat) : State :=
  let k := homeSlice (64 * line)
  if isDirty s line then
    let off := (Config.freeValue s.free).setWidth 27
    let s := loseLine (writeBack { s with free := s.free + 1 } 1 line) line
    modSlice s k fun x => { x with ue := tallyAdd x.ue 1, ueOff := some off }
  else modSlice (uncache s line) k fun x => { x with ce := tallyAdd x.ce 1 }

/-! ### Errors that a read meets -/

/-- A read meets a marked unit (R225, R227, R237, R245, R253): its memory's tally rises. A line whose failed read was counted when it
came back is not counted again. -/
def noteMark (s : State) (m : Nat) : State :=
  match regionAt s m with
  | .sp t => noteSp s t ((m - spBase) % spSize) true
  | .llm => noteLlm s m true
  | .hbm =>
    if s.mem.told.contains (m / 64) then { s with mem := { s.mem with told := s.mem.told.filter fun l => l ≠ m / 64 } }
    else hbmBad s (m / 64)
  | .far => loseLine s (m / 64)
  | _ => s

/-- What a read reports is told, and the address and source code of the read that fails (R138, R225, R237, R253): a cached line's error
is its slice's. -/
def noteFault (s : State) (e : ReadFault) : State × Option (Nat × Nat) :=
  match e with
  | .clean => (s, none)
  | .corrected a =>
    let l := a.toNat / 64
    match regionAt s a.toNat with
    | .sp t => (noteSp s t ((a.toNat - spBase) % spSize) false, none)
    | .llm => (noteLlm s a.toNat false, none)
    | .reg => (s, none)
    | .hole => (s, none)
    | r =>
      if isCached s l then (modSlice s (homeSlice (64 * l)) fun x => { x with ce := tallyAdd x.ce 1 }, none)
      else if r == .hbm then (hbmCorrected s l, none) else (s, none)
  | .uncorrectable a =>
    let l := a.toNat / 64
    match regionAt s a.toNat with
    | .sp _ => (noteMark s a.toNat, some (a.toNat / 8 * 8, 0))
    | .llm => (noteMark s a.toNat, some (a.toNat / 8 * 8, 4))
    | .reg => (s, none)
    | .hole => (s, none)
    | r =>
      if isCached s l then
        (cacheError s l, if isDirty s l then some (64 * l, 4) else none)
      else (noteMark s a.toNat, some (64 * l, sourceOf r))

/-! ### The save area (R30, R33) -/

/-- A context is set aside: it takes the lowest free save slot, which its image fills in P1 (R33, R248). The state keeps the context as it is,
and what the tile keeps resident of it, with the image (log 32). -/
def setAside (s : State) (p : Nat) (c : Context) : State :=
  let kept := rd 0 s.slots p
  let slot := if kept ≠ 0 then some (kept - 1) else (List.range (saveSlots s)).find? fun k => !(s.slots.any fun e => e.2 = k + 1)
  let s := { s with saved := wr {} s.saved p c }
  match slot with
  | none => s
  | some k =>
    let a := saveBase s + k * saveSlot
    { s with slots := wr 0 s.slots p (k + 1),
             mem := { (devWrite (touch 1 true s a saveSlot) a ((Config.contextImage c).take saveSlot)).1.mem with
               slotsMet := s.mem.slotsMet.filter (· ≠ k) } }

/-- The context that a take-up finds (R33): the one set aside, unless a write has met its save slot since: then what the image holds. -/
def asideContext (s : State) (p : Nat) : Context :=
  let k := rd 0 s.slots p
  let c := rd {} s.saved p
  if k ≠ 0 && s.mem.slotsMet.contains (k - 1) then
    (Config.imageContext (devRead s (saveBase s + (k - 1) * saveSlot) saveSlot)).getD c
  else c

/-- A context is taken up (R33): its save slot is read in P1 and is free again. -/
def takeAside (s : State) (p : Nat) : State :=
  let k := rd 0 s.slots p
  let m := if k = 0 then s.mem else (touch 1 false s (saveBase s + (k - 1) * saveSlot) saveSlot).mem
  { s with saved := wr {} s.saved p {}, slots := wr 0 s.slots p 0,
           mem := { m with slotsMet := if k = 0 then m.slotsMet else m.slotsMet.filter (· ≠ k - 1) } }

/-- Host memory bytes (R399). -/
def hostRead (s : State) (a n : Nat) : List Byte := rdBytes s.mem.host a n
/-- Host memory written. -/
def hostWrite (s : State) (a : Nat) (bs : List Byte) : State :=
  { s with mem := { s.mem with host := wrBytes s.mem.host a bs } }

end Sys2Proof.Machine
end

