-- ==== Sys2Proof/Machine/Items.lean ====
section
/-! DEFINITION. The completion of array and vector work items (R98, R113, R114, R142, R169, R205, R225), and which of them are due in a cycle
(R150). -/

namespace Sys2Proof.Machine

/-! ### What a completion writes (R205, R206, R225) -/

/-- The overflow log entry of an item's flag block (R205). -/
def ovfEntry (it : Item) (source j : Nat) : OvfEntry :=
  { step := it.step, block := it.base + BitVec.ofNat 32 j, layer := it.layer, stream := it.stream,
    source := BitVec.ofNat 3 source, applied := it.applied.contains j, seq := it.seq }

/-- A Clove store after one more entry: the log holds 448, and what is lost is noted with its step (R206). -/
def cloveAdd (c : Clove) (e : OvfEntry) : Clove :=
  if c.log.length < 448 then { c with log := c.log ++ [e] }
  else { c with lost := true, lostStep := if !c.lost || precedes 32 c.lostStep.toNat e.step.toNat then e.step else c.lostStep }

/-- Overflow log entries of an item (R205, R206): one for each overflowing flag block, ascending. -/
def appendOverflow (s : State) (t : Nat) (it : Item) (source : Nat) (blocks : List Nat) : State :=
  blocks.foldl (fun s j =>
    let c := (tileAt s t).ctx.clove
    let s := modCtx s t fun x => { x with clove := cloveAdd c (ovfEntry it source j) }
    if c.log.length < 448 then s else modTile s t fun x => { x with ovfLost := tallyAdd x.ovfLost 1 }) s

/-- One byte written to a scratchpad, unless its word holds an uncorrectable error that the item covers only in part
(R225): the item's other bytes decide that. -/
def putByte (s : State) (q a : Nat) (b : Byte) : State := modCtxOf s q fun c => { c with sp := wr 0 c.sp a b }

/-- The error words that an item's writes cover only in part (R225). -/
def partWords (s : State) (p : Nat) (ws : List (Nat × Nat × Byte)) : List (Nat × Nat) :=
  (ws.map fun x => (x.1, x.2.1 / 8 * 8)).eraseDups.filter fun x =>
    (ctxOf s (p + x.1)).spUe.contains x.2 &&
      (ws.filter fun y => y.1 = x.1 && x.2 ≤ y.2.1 && y.2.1 < x.2 + 8).length < 8

/-- An item's bytes are written; error words only partly covered keep their content and their error, others lose
theirs (R225). The first such word is the second component. -/
def writeItem (s : State) (p : Nat) (ws : List (Nat × Nat × Byte)) : State × Option (Nat × Nat) :=
  let bad := partWords s p ws
  let ok := ws.filter fun y => !bad.contains (y.1, y.2.1 / 8 * 8)
  let s := ok.foldl (fun s y => putByte s (p + y.1) y.2.1 y.2.2) s
  let s := ok.foldl (fun s y => modCtxOf s (p + y.1) fun c => { c with spUe := c.spUe.filter (· ≠ y.2.1 / 8 * 8) }) s
  (s, bad.head?)

/-- Every byte that an item was to write becomes a free value: what a failed instruction leaves there is not defined
(log 13). -/
def freeWrites (s : State) (p : Nat) (ws : List (Nat × Nat × Byte)) : State :=
  let n := ws.length
  let ws' := (List.range n).map fun k =>
    let y := nth (0, 0, 0) ws k
    (y.1, y.2.1, (Config.freeValue (s.free + k)).setWidth 8)
  { (writeItem s p ws').1 with free := s.free + n }

/-! ### Array items -/

/-- The item fails with a halt of its tile (R113, R225): what it leaves at its destination is a free value. -/
def failAtDrain (s : State) (t : Nat) (it : Item) (detail : Nat) : State :=
  let p := ptileOf s t
  let s := freeWrites s p it.writes
  let s := halt s t it.stream it.addr 0x0D detail
  completeItem s t p it (some 0x0D) (BitVec.ofNat 64 detail)

/-- A sound drain (R98, R99): the rows are written, the flags raised, and the item is DONE. -/
def soundDrain (s : State) (t : Nat) (it : Item) : State :=
  let p := ptileOf s t
  match it.failed with
  | some f =>
    if f = 0x0D then failAtDrain (noteSp s t it.fdetail.toNat true) t it it.fdetail.toNat
    else if f = 0x0E then
      -- failed with its fenced array: it waits for the firmware (R114)
      modTile (dropItem (freeWrites s p it.writes) t it.stream it.seq) t fun x => { x with reissue := x.reissue ++ [it] }
    else completeItem (freeWrites s p it.writes) t p it (some f) it.fdetail
  | none =>
    let r := writeItem s p it.writes
    match r.2 with
    | some x =>
      let s := noteSp r.1 t x.2 true
      let s := halt s t it.stream it.addr 0x0D x.2
      completeItem s t p it (some 0x0D) (BitVec.ofNat 64 x.2)
    | none =>
      let s := raiseFlags r.1 t it.stream it.raised
      let s := appendOverflow s t it 0 it.raised.overflow
      completeItem s t p it none 0

/-- Is an array item a cout instruction (R142)? -/
def isCout (it : Item) : Bool := it.w.getLsbD 243

/-- The flow of an array item on the arrays of its cluster (R106). -/
def flowOf (s : State) (t : Nat) (it : Item) : List Feed :=
  let p := ptileOf s t
  (clusterTiles t).flatMap fun g => (tileAt s g).arrays.flatMap fun e =>
    e.2.feeds.filter fun f => f.stream == it.stream && f.seq == it.seq && f.owner = p

/-- The cycle in which an array item's last row is written or last block folded, once that is past (R98, R142). An item with no flow of its
own, done again after a fence, is due as it stands. -/
def arrayDone (s : State) (t : Nat) (it : Item) : Option Nat :=
  let fs := flowOf s t it
  if fs.isEmpty then some it.due
  else if fs.all (·.done.isSome) then some (fs.foldl (fun m f => max m (f.done.getD 0)) 0) else none

/-- An array item completes (R98, R99, R142). -/
def finishArray (s : State) (t : Nat) (it : Item) : State :=
  if isCout it && it.failed ≠ some 0x0E then completeItem s t (ptileOf s t) it it.failed it.fdetail else soundDrain s t it

/-! ### Vector items -/

/-- The source of a flag block's log entry (R205). -/
def ovfSource (op : Nat) : Nat := if 0x240 ≤ op then 3 else if op < 0x110 then 1 else 2

/-- A started instruction completes (R169): its stores, flags, log entries, seals, record and signal; a failed
one halts the tile with its reason. -/
def finishVector (s : State) (t : Nat) (it : Item) : State :=
  let p := ptileOf s t
  let s := toCycle s it.due
  let s := modTile s t fun x => { x with vec := { x.vec with
    started := x.vec.started.filter fun i => !(i.stream == it.stream && i.seq == it.seq) } }
  match it.failed with
  | some f =>
    let s := freeWrites s p it.writes
    completeItem (halt s t it.stream it.addr f.toNat it.fdetail.toNat) t p it (some f) it.fdetail
  | none =>
    let r := writeItem s p it.writes
    match r.2 with
    | some x =>
      let s := noteSp r.1 t x.2 true
      completeItem (halt s t it.stream it.addr 0x0D x.2) t p it (some 0x0D) (BitVec.ofNat 64 x.2)
    | none =>
      let s := raiseFlags r.1 t it.stream it.raised
      let s := appendOverflow s t it (ovfSource it.op.toNat) it.raised.overflow
      completeItem s t p it none 0

/-! ### Items due in a cycle (R121, R150) -/

/-- The completion cycle of an item that is over: of an array item, or of a started vector item. -/
def overAt (s : State) (t : Nat) (it : Item) : Option Nat :=
  match it.kind with
  | .array => (arrayDone s t it).filter (· ≤ s.time.cycle)
  | .vector => if (tileAt s t).vec.started.any fun i => i.stream == it.stream && i.seq == it.seq && i.due ≤ s.time.cycle then
      ((tileAt s t).vec.started.find? fun i => i.stream == it.stream && i.seq == it.seq).map (·.due) else none
  | _ => none

/-- Does one completion come before another: in the order of cycles, then F, B, U (R121)? -/
def comesFirst (c : Nat) (st : Stream) (d : Nat) (q : Stream) : Bool := c < d || (c = d && sc st < sc q)

/-- The item of a tile that completes first among those due (R150). -/
def dueItem (s : State) (t : Nat) : Option (Nat × Item) :=
  (tileAt s t).items.foldl (fun m it => match overAt s t it with
    | none => m
    | some c => match m with
      | some (d, j) => if comesFirst c it.stream d j.stream then some (c, it) else m
      | none => some (c, it)) none

/-- An item that is over completes. -/
def finishItem (s : State) (t : Nat) (it : Item) : State :=
  match it.kind with
  | .vector => match (tileAt s t).vec.started.find? fun i => i.stream == it.stream && i.seq == it.seq with
    | some i => finishVector s t i
    | none => s
  | _ => finishArray s t it

/-- The items of a tile that are over complete, at most `n` of them. -/
def settleN : Nat → Nat → State → State
  | 0, _, s => s
  | n + 1, t, s => match dueItem s t with
    | some (_, it) => settleN n t (finishItem s t it)
    | none => s

/-- The period endings and stamps of the cycle come before its issue checks (R150): those of the tile, and of the cluster's tile 0 whose gang
items may write here (R108). -/
def settleItems (s : State) (t : Nat) : State :=
  let s := pruneUses s
  let s := settleN 64 (t / 4 * 4) s
  if t % 4 = 0 then s else settleN 64 t s

end Sys2Proof.Machine
end

