-- ==== Sys2Proof/Machine/Issue.lean ====
section
/-! DEFINITION. The issue of an instruction (R121, R124, R129, R231): what must hold for the head of a stream to issue,
the checks in order, and the halt or the effect. -/

namespace Sys2Proof.Machine

/-- May a stream issue at all: `RUNNING`, not held in reset, its context loaded and its head not waiting? -/
def canIssue (s : State) (t : Nat) (st : Stream) : Bool :=
  let x := strm s t st
  goesOn s && (tileAt s t).loaded.isSome && x.run == .active && !x.paused &&
    (match x.wait with | none => true | some w => w.kind == .interlock)

/-- The buffered line that holds an address (R124). -/
def lineOf (s : State) (t : Nat) (st : Stream) (pc : BitVec 48) : Option FetchLine :=
  (tileAt s t).ibuf.find? fun l => l.stream == st && l.line == pc.extractLsb' 6 42

/-- The word of a line at an address. -/
def wordIn (l : FetchLine) (pc : BitVec 48) : BitVec 256 :=
  if pc.getLsbD 5 then l.data.extractLsb' 256 256 else l.data.extractLsb' 0 256

/-- The issue is counted (R162) and the head no longer waits. -/
def noteIssue (s : State) (t : Nat) (st : Stream) : State :=
  let s := modTile s t fun x => { x with issued := upd 0 x.issued (sc st) (· + 1) }
  modStrm s t st fun x => { x with lastIssue := some s.time.cycle, issuedAt := some s.time.cycle, wait := none, bubble := false, brkOnce := false }

/-- The head waits at a fenced-mode interlock (R116). -/
def interlock (s : State) (t : Nat) (st : Stream) : State :=
  modStrm s t st fun x => { x with wait := some (x.wait.getD
    { kind := .interlock, scope := 0, index := 0, threshold := 0, acquire := 0, count := 0 }) }

/-- The first cycle, from the one given on, in which a stream may issue (R121): 4 cycles after its last issue, and in the order F, B, U
within a cycle. -/
def slotOf (s : State) (i : Issue) : Nat :=
  let x := strm s i.tile i.stream
  let c := max i.cycle (max s.time.cycle (match x.lastIssue with | some c => c + 4 | none => 0))
  if allStreams.any fun q => sc i.stream < sc q && (strm s i.tile q).issuedAt == some c then c + 1 else c

/-- The breakpoint check (R157). -/
def ckBrk (s : State) (i : Issue) (word : BitVec 256) : Check :=
  ⟨1, word.getLsbD 245 && (tileAt s i.tile).brkEn && !(strm s i.tile i.stream).brkOnce, 0x10, 0⟩

/-- What stops an instruction at issue is tallied where it is an access to a fused-off axis (R5) or a scratchpad error (R225). -/
def noteStop (s : State) (t : Nat) (c : Check) : State :=
  if c.reason = 0x0B ∧ c.detail / 2 ^ 28 = 3 then countAbsent s .axis (c.detail % 2 ^ 28)
  else if c.order = 11 then noteSp s t c.detail true else s

/-- A stream of a tile that has halted in this cycle comes to issue: if its instruction fails its checks too, the record takes it in (R154). -/
def issueHalted (s : State) (i : Issue) (word : BitVec 256) (checks : State → List Check) : State :=
  let x := strm s i.tile i.stream
  let h := (tileAt s i.tile).halt
  if h.valid && h.cycle = s.time.cycle && i.cycle ≤ h.cycle && x.run == .halted && x.wait.isNone then
    match firstBad (ckBrk s i word :: checks s) with
    | some c => haltSecond s i.tile i.stream x.pc c.reason c.detail
    | none => s
  else s

/-- The checks of an instruction whose word is at hand, and its halt, wait or effect (R116, R129). -/
def issueChecked (s : State) (i : Issue) (word : BitVec 256) (busy : State → Bool) (checks : State → List Check)
    (eff : State → State) : State :=
  let t := i.tile.val
  let st := i.stream
  let c := firstBad (ckBrk s i word :: checks s)
  if (tileAt s t).fencedMode && busy s && (c.all fun c => 8 ≤ c.order) then interlock s t st
  else match c with
    | none => eff (noteIssue s t st)
    | some c =>
      if (tileAt s t).fencedMode && sealWaits c then interlock s t st
      else
        let s := if c.order = 1 then modStrm s t st fun x => { x with brkOnce := true } else s
        halt (noteStop s t c) t st (strm s t st).pc c.reason c.detail

/-- An instruction word comes to issue (R121, R124, R129, R150): time moves to its issue slot, what ends in that cycle ends, the buffered
word at the stream's address must be it, and its checks decide between the halt and its effect. `busy` is a fenced-mode wait for
an array (R116). -/
def issueWord (s : State) (i : Issue) (word : BitVec 256) (busy : State → Bool) (checks : State → List Check)
    (eff : State → State) : State :=
  let t := i.tile.val
  let st := i.stream
  if !canIssue s t st then issueHalted s i word checks
  else
    let s := settleItems (toCycle s (slotOf s i)) t
    let x := strm s t st
    if !canIssue s t st then issueHalted s i word checks
    else if !codeAddr s x.pc.toNat then halt s t st x.pc 0x03 (slotDetail 0 x.pc.toNat)
    else match lineOf s t st x.pc with
      | none => modStrm s t st fun x => { x with bubble := true }
      | some l =>
        if l.bad then halt s t st x.pc 0x0D (3 * 2 ^ 28)
        else if wordIn l x.pc ≠ word then s
        else issueChecked s i word busy checks eff

/-- The issue of an instruction that goes on with the next word after its effect. -/
def issueN (s : State) (i : Issue) (op : Nat) (w : BitVec 246) (checks : State → List Check) (eff : State → State) :
    State :=
  issueWord s i (BitVec.ofNat 10 op ++ w) (fun _ => false) checks fun s =>
    modStrm (eff s) i.tile i.stream advance1


end Sys2Proof.Machine
end

