-- ==== Sys2Proof/Machine/Barrier.lean ====
section
/-! DEFINITION. Barrier trees: the spanning tree (R316), arrivals and rounds (R317-R320), messages (R321, R322), the
step boundary (R51, R206) and the entry into `CHECKPOINT` (R37). -/

namespace Sys2Proof.Machine

/-- The port toward a node's parent in a slice's spanning tree (R316): none at the anchor. -/
def parentPort (e : Extents) (d : SliceDecl) (node : Nat) : Option Nat :=
  ((List.range 4).find? fun a => relCoord e d node a ≠ 0).map fun a =>
    if wraps e d a && nth 1 d.ext a < 2 * relCoord e d node a then 2 * a else 2 * a + 1

/-- The ports toward a node's children (R316): neighbours in the slice whose parent port leads back here. -/
def childPorts (e : Extents) (d : SliceDecl) (node : Nat) : List Nat :=
  (List.range 8).filter fun p =>
    let n := neighbour e node p
    2 ≤ extOn e (p / 2) && inSlice e d n && n ≠ node &&
      parentPort e d n == some (if p % 2 = 0 then p + 1 else p - 1)

/-- The module's parent port and child ports in its own slice. -/
def myParent (s : State) : Option Nat := parentPort s.fab.extent (ownSlice s) s.fab.node.toNat
/-- The module's child ports in its own slice. -/
def myChildren (s : State) : List Nat := childPorts s.fab.extent (ownSlice s) s.fab.node.toNat

/-- The declaration of a tree (R315). -/
def treeDecl (s : State) (k : Nat) : Option TreeDecl :=
  match s.prog with
  | some g => (g.trees.drop k).head?
  | none => none

/-- The trees that the loaded program declares. -/
def treeCount (s : State) : Nat := match s.prog with | some g => g.trees.length | none => 0

/-- The local expected count (R315). -/
def expected (d : TreeDecl) : Nat :=
  d.mask.foldl (fun n m => n + bn (m.getLsbD 0) + bn (m.getLsbD 1) + bn (m.getLsbD 2)) 0

/-- A tree's state with a change. -/
def modTree (s : State) (k : Nat) (f : Tree → Tree) : State := { s with trees := upd {} s.trees k f }

/-- A barrier message is sent on both paths of a port, which are one where the port keeps a single strand for them (R322). -/
def sendBarrier (s : State) (port : Nat) (up : Bool) (k : Nat) (round : BitVec 16) (step : Bool) (v : BitVec 128) :
    State :=
  let m : BarrierMsg := { tree := Fin.ofNat 16 k, round := round, step := step, second := false, value := v }
  let s := match firstPath s port with | some l => emit s (.barrier l up m) | none => s
  match secondPath s port with | some l => emit s (.barrier l up { m with second := true }) | none => s

/-- The generation that a `DOWN` of the step tree carries (R320, R321). -/
def downGen (v : BitVec 128) : BitVec 32 := v.extractLsb' 0 32
/-- The release epoch that it carries. -/
def downEpoch (v : BitVec 128) : Word := v.extractLsb' 32 64

/-- A held arrival resumes in the next cycle, with the sum in its registers if it carried a payload (R319): `late` more
cycles pass where the release itself takes that long (R323). -/
def resumeArrival (now late : Nat) (sum : BitVec 128) (a : Arrival) (x : StreamCtx) : StreamCtx :=
  let x := { advance1 x with wait := none, lastIssue := some (now + late - 3) }
  match a.payload with
  | none => x
  | some n => setS (setS x n.toNat (sum.extractLsb' 0 64)) (n.toNat + 1) (sum.extractLsb' 64 64)

/-- What the release does for one arrival (R319, R314). -/
def releaseArrival (late : Nat) (sum : BitVec 128) (s : State) (a : Arrival) : State :=
  if a.hold then
    modCtxOf s a.ptile fun c => ctxPut c a.stream (resumeArrival s.time.cycle late sum a (ctxS c a.stream))
  else if ctrOver s 0 a.ptile a.counter.toNat 1 then
    halt s (devTile s a.ptile) a.stream (ctxS (ctxOf s a.ptile) a.stream).pc 0x09 (syncDetail 0 a.counter.toNat)
  else ctrAdd s 0 a.ptile a.counter.toNat 1

/-- The module enters `CHECKPOINT` for a generation (R37, R320, R373); a mirror that has not finished pauses (R376). -/
def enterCheckpoint (s : State) (gen : BitVec 32) (epoch : Word) : State :=
  let a := s.hamper.arm
  let job : HJob := { gen := gen, next := 0, tag := (a.map (·.tag)).getD 0, route := (a.map (·.route)).getD (.fabric 0),
                      base := 0, host := false, since := s.time.cycle, paused := true, failed := none }
  let s := { s with hamper := { s.hamper with
    write := some job, releaseEpoch := epoch, arm := none,
    takenArms := s.hamper.takenArms ++ (a.map fun x => { x with gen := some gen }).toList,
    mirrorTx := s.hamper.mirrorTx.map fun j => { j with paused := true } } }
  setState s .checkpoint

/-- A round is released at this module (R318-R320): the counts and the accumulator clear, the round moves on, the
arrivals resume or signal, the children get `DOWN`, and a generation number takes the module into `CHECKPOINT`. -/
def releaseRound (s : State) (k : Nat) (late : Nat) (v : BitVec 128) : State :=
  let x := rd {} s.trees k
  let step := match treeDecl s k with | some d => d.step | none => false
  let s := modTree s k fun y => { y with round := x.round + 1, who := [], heard := [], acc := 0, sentUp := false, lastDown := v }
  let s := x.who.foldl (releaseArrival late (if step then 0 else v)) s
  let s := (myChildren s).foldl (fun s p => sendBarrier s p false k x.round step v) s
  if step && downGen v ≠ 0 && inLoaded s then enterCheckpoint s (downGen v) (downEpoch v) else s

/-- What the anchor puts into `DOWN` (R320): the sum, or on the step tree the generation that an arm whose epoch has
come takes now (R37, R372) and the release epoch. -/
def anchorValue (s : State) (step : Bool) (acc : BitVec 128) : State × BitVec 128 :=
  if !step then (s, acc)
  else
    let armed := match s.hamper.arm with
      | some a => a.gen.isNone && a.epoch ≤ fec s
      | none => false
    let g := if armed then s.hamper.nextGen else 0
    let s := if armed then
        let n := s.hamper.nextGen + 1
        { s with hamper := { s.hamper with nextGen := if n = 0 then 1 else n } }
      else s
    (s, ((fec s).setWidth 128 <<< 32) ||| g.setWidth 128)

/-- The round is complete at this module when every local stream has arrived and every child has reported (R318): the
anchor releases it, another module sends `UP`. -/
def tryComplete (s : State) (k : Nat) : State :=
  match treeDecl s k with
  | none => s
  | some d =>
    let x := rd {} s.trees k
    let kids := myChildren s
    if x.who.length = expected d && !x.sentUp && kids.all fun p => x.heard.contains (Fin.ofNat 8 p) then
      match myParent s with
      | none =>
        let r := anchorValue s d.step x.acc
        releaseRound r.1 k (if kids.isEmpty then 32 else 0) r.2
      | some p => sendBarrier (modTree s k fun y => { y with sentUp := true }) p true k x.round d.step (if d.step then 0 else x.acc)
    else s

/-- The tile log's entries of steps up to `step` move to the die log (R206, R220). -/
def copyOverflow (s : State) (t : Nat) (step : BitVec 32) : State :=
  let c := (tileAt s t).ctx.clove
  let due := fun (e : BitVec 32) => e == step || precedes 32 e.toNat step.toNat
  let log := s.ovfLog ++ c.log.filter fun e => due e.step
  let lap := log.length - 32768
  let n := s.ovfOver.toNat + lap
  let s := modCtx s t fun x => { x with clove := { c with
    log := c.log.filter fun e => !due e.step, lost := c.lost && !due c.lostStep } }
  { s with ovfLog := log.drop lap, ovfOver := BitVec.ofNat 16 (min n 0xFFFF),
           ovfSat := s.ovfSat || decide (0xFFFF ≤ n ∧ 0 < lap) }

/-- The participant mask bit of a stream in a tree (R315). -/
def inTree (d : TreeDecl) (p : Nat) (st : Stream) : Bool := (nth 0 d.mask p).getLsbD (sc st)

/-- The checks of an `ARRIVE` (R136, R215, R317). -/
def arriveChecks (s : State) (i : Issue) (w : BitVec 246) : List Check :=
  let k := fld w 243 240
  let p := ptileOf s i.tile
  let d := (treeDecl s k).getD { step := false, mask := [] }
  let x := rd {} s.trees k
  let win := (rd {} (tileAt s i.tile).ctx.clove.words (sc i.stream)).window
  reservedChecks w [(243, 240), (239, 239), (238, 238), (237, 233), (232, 232), (231, 226)] ++
  [ ckRange (decide (treeCount s ≤ k)) 0 k,
    ckRange (fbit w 238 && decide (fld w 237 233 = 31)) 0 31,
    ckRange (fbit w 239 && win) 0 k,
    ⟨12, !inTree d p i.stream, 0x03, slotDetail 0 k⟩,
    ⟨13, fbit w 239 != d.step || (fbit w 238 && d.step), 0x0A, 0⟩,
    ⟨14, x.who.any fun a => a.ptile = p && a.stream == i.stream, 0x09, syncDetail 3 k⟩ ]

/-- The arrival of a stream on a tree (R317-R319): its payload joins the accumulator, and a step mark advances the
Nutmeg counters and, on the U stream, hands the overflow log to the die (R51, R206). -/
def arriveEffect (i : Issue) (w : BitVec 246) (s : State) : State :=
  let k := fld w 243 240
  let t := i.tile.val
  let x := strm s t i.stream
  let n := fld w 237 233
  let pay := fbit w 238
  let a : Arrival := { ptile := ptileOf s t, stream := i.stream, hold := fbit w 232,
                       payload := if pay then some (BitVec.ofNat 5 n) else none,
                       counter := BitVec.ofNat 6 (fld w 231 226) }
  let v : BitVec 128 := if pay then (sReg x (n + 1)).setWidth 128 <<< 64 ||| (sReg x n).setWidth 128 else 0
  let s := modTree s k fun y => { y with who := y.who ++ [a], acc := y.acc + v }
  let s := if fbit w 239 then
      let s := if i.stream == .U then copyOverflow s t x.nutStep else s
      modStrm s t i.stream fun x => { x with nutStep := x.nutStep + 1, nutElem := 0 }
    else s
  let wt : Waiting :=
    { kind := .arrive, scope := 0, index := BitVec.ofNat 6 k, threshold := 0, acquire := 0, count := 0 }
  let s := if fbit w 232 then modStrm s t i.stream fun x => { x with wait := some wt }
    else modStrm s t i.stream advance1
  chainStop (tryComplete s k) t

/-- `ARRIVE` (R317). -/
def execArrive (i : Issue) (w : BitVec 246) (s : State) : Res :=
  done s (issueWord s i (BitVec.ofNat 10 0x042 ++ w) (fun _ => false) (fun s => arriveChecks s i w) (arriveEffect i w))

/-- `BARRIER_UP` (R318, R322): the first copy of a child's `UP` of the current round counts; for the round just released
the child gets `DOWN` again; any other round is ignored. -/
def execBarrierUp (port : Fin 8) (m : BarrierMsg) (s : State) : Res :=
  let k := m.tree.val
  let x := rd {} s.trees k
  done s (match treeDecl s k with
    | none => s
    | some d =>
      if !(myChildren s).contains port.val then s
      else if m.round = x.round then
        if x.heard.contains port then s
        else tryComplete (modTree s k fun y =>
          { y with heard := y.heard ++ [port], acc := if d.step then y.acc else y.acc + m.value }) k
      else if m.round = x.round - 1 then sendBarrier s port.val false k m.round d.step x.lastDown
      else s)

/-- `BARRIER_DOWN` (R318, R320): the current round is released; another round is ignored. -/
def execBarrierDown (_port : Fin 8) (m : BarrierMsg) (s : State) : Res :=
  let k := m.tree.val
  done s (if (treeDecl s k).isSome && m.round = (rd {} s.trees k).round then releaseRound s k 0 m.value else s)

/-- `BARRIER_UP_REPEAT` (R322). -/
def execBarrierUpRepeat (tree : Fin 16) (s : State) : Res :=
  let x := rd {} s.trees tree.val
  done s (match treeDecl s tree.val, myParent s with
    | some d, some p => if x.sentUp then sendBarrier s p true tree.val x.round d.step (if d.step then 0 else x.acc) else s
    | _, _ => s)

end Sys2Proof.Machine
end

