-- ==== Sys2Proof/Machine/March.lean ====
section
/-! DEFINITION. The march engines: the sequence of R239, its backgrounds, and the bank that a preserving run has reached (R240,
R244). -/

namespace Sys2Proof.Machine

/-- One bank access of a march: a write of 72 bits to a word, or a check of them. -/
structure MarchOp where
  write : Bool
  word  : Nat
  data  : BitVec 72
  deriving DecidableEq, Repr

/-- The four backgrounds, by word address (R239); a row has 8 words. -/
def background (k i : Nat) : BitVec 72 :=
  match k with
  | 0 => 0
  | 1 => 0x555555555555555555
  | 2 => if i / 8 % 2 = 0 then 0x555555555555555555 else 0xAAAAAAAAAAAAAAAAAA
  | _ => if i % 2 = 0 then 0 else BitVec.allOnes 72

/-- march_c_minus over `n` words of a bank with a background (R239). -/
def marchC (n : Nat) (bg : Nat → BitVec 72) : List MarchOp :=
  let up := List.range n
  let down := up.reverse
  let pair := fun (a b : Nat → BitVec 72) (i : Nat) => [(⟨false, i, a i⟩ : MarchOp), ⟨true, i, b i⟩]
  let inv := fun (i : Nat) => ~~~(bg i)
  up.map (fun i => ⟨true, i, bg i⟩) ++ up.flatMap (pair bg inv) ++ up.flatMap (pair inv bg) ++ down.flatMap (pair bg inv)
    ++ down.flatMap (pair inv bg) ++ up.map fun i => ⟨false, i, bg i⟩

/-- A run over `n` words: the four backgrounds in order, 40 accesses a word (R239). -/
def marchRun (n : Nat) : List MarchOp := (List.range 4).flatMap fun k => marchC n (background k)

/-- The cycles of one row of a preserving run: its 8 words are saved, marched and restored (R240). -/
def rowCycles : Nat := 8 + (marchRun 8).length + 8

/-- Rows of a bank with its spares, and arithmetic cycles in one of its own (R240): a scratchpad runs at arithmetic cycles, a slice at
cluster cycles. -/
def bankRows (llm : Bool) : Nat × Nat := if llm then (5152, 2) else (260, 1)

/-- A march register as it stands in a cycle: a preserving run goes from bank to bank (R240, R244). -/
def marchNow (now : Nat) (llm : Bool) (m : March) : March :=
  if m.mode = 2 ∧ m.state = 1 then
    let r := bankRows llm
    { m with bank := BitVec.ofNat 5 (min 31 ((now - m.since) / (r.1 * r.2 * rowCycles))) }
  else m

end Sys2Proof.Machine
end

