-- ==== Sys2Proof/Machine/HostLink.lean ====
section
/-! DEFINITION. Messages to the host over the Vorkiux Link (R390-R395): credits and replay room, reads and writes of host
memory, and the snoops that come before a device access to a line that the host holds. -/

namespace Sys2Proof.Machine

/-- Is the Vorkiux Link up (R398)? -/
def linkUp (s : State) : Bool := 2 ≤ s.vkx.state.toNat

/-! ### Sending (R391) -/

/-- The class of a message by its op (R393): 0 REQ, 1 SNP, 2 RSP, 3 DAT. -/
def outClass : Out → Nat
  | .host op _ _ _ _ _ _ => op.toNat / 16
  | _ => 4

/-- The credits held of a class (R391). -/
def creditOf (v : Vkx) : Nat → Nat
  | 0 => v.reqCredit | 1 => v.snpCredit | 2 => v.rspCredit | 3 => v.datCredit | _ => 0

/-- Credits of a class added or spent. -/
def modCredit (v : Vkx) (c : Nat) (f : Nat → Nat) : Vkx :=
  match c with
  | 0 => { v with reqCredit := f v.reqCredit } | 1 => { v with snpCredit := f v.snpCredit }
  | 2 => { v with rspCredit := f v.rspCredit } | 3 => { v with datCredit := f v.datCredit } | _ => v

/-- May a message of a class go now: the link up, a credit, and room among the 512 flits of the replay buffer (R391)? -/
def maySend (v : Vkx) (c : Nat) : Bool := decide (2 ≤ v.state.toNat) && decide (0 < creditOf v c) && decide (v.unacked.length < 512)

/-- A message goes out in a payload flit of its own (R391), or waits behind those of its class. -/
def sendHost (s : State) (o : Out) : State :=
  let c := outClass o
  let v := s.vkx
  if maySend v c && !(v.waitQ.any fun x => outClass x == c) then
    let v := modCredit v c (· - 1)
    emit { s with vkx := { v with unacked := v.unacked ++ [v.txSeq], txSeq := v.txSeq + 1 } } o
  else { s with vkx := { v with waitQ := v.waitQ ++ [o] } }

/-- Messages that waited go out as far as they may, those of one class in order (R395). -/
def drainHost (s : State) : State := s.vkx.waitQ.foldl sendHost { s with vkx := { s.vkx with waitQ := [] } }

/-! ### Requests to the host (R392, R393) -/

/-- Is a txid in use by a request or a snoop? -/
def txUsed (v : Vkx) (n : BitVec 12) : Bool := v.asked.any (fun x => x.1 == n) || v.snooped.any (fun x => x.1 == n)

/-- The next txid that is not in use. -/
def freshTx : Nat → Vkx → BitVec 12 → BitVec 12
  | 0, _, n => n
  | k + 1, v, n => if txUsed v n then freshTx k v (n + 1) else n

/-- The txid of the next request. -/
def newTx (s : State) : BitVec 12 := freshTx 4096 s.vkx s.vkx.nextTx

/-- A request to host memory at an address (R392). -/
def request (s : State) (op : BitVec 6) (a : Nat) (d : List Byte) : State :=
  let t := newTx s
  let s := { s with vkx := { s.vkx with asked := s.vkx.asked ++ [(t, a, op)], nextTx := t + 1 } }
  sendHost s (.host op t a 0 false 0 d)

/-- Bytes from an address on, cut at the 64 B lines. -/
def linePieces : Nat → Nat → List Byte → List (Nat × List Byte)
  | 0, _, _ => []
  | _, _, [] => []
  | k + 1, a, bs => let n := 64 - a % 64; (a, bs.take n) :: linePieces k (a + n) (bs.drop n)

/-- A piece of a write goes out as `WR_LINE` or `WR_UC`; the model's copy of host memory takes it up at once. -/
def writePiece (s : State) (x : Nat × List Byte) : State :=
  request { s with mem := { s.mem with host := wrBytes s.mem.host x.1 x.2 } } (if x.2.length = 64 then 5 else 4) x.1 x.2

/-- Bytes written to host memory, and the txids of the writes. -/
def writeHost (s : State) (a : Nat) (bs : List Byte) : State × List (BitVec 12) :=
  (linePieces (bs.length + 1) a bs).foldl (fun r x => (writePiece r.1 x, r.2 ++ [newTx r.1])) (s, [])

/-- Reads of host memory that may be in flight at once. -/
def askLimit : Nat := 64

/-- The ranges still to be asked for without their first line. -/
def askRest : List (Nat × Nat) → List (Nat × Nat)
  | [] => []
  | (a, n) :: t => let m := 64 - a % 64; if n ≤ m then t else (a + m, n - m) :: t

/-- Lines of host memory are asked for with `RD_UC`, some at a time (R394). -/
def pumpAsk : Nat → State → State
  | 0, s => s
  | k + 1, s =>
    match s.vkx.toAsk with
    | [] => s
    | (a, n) :: t =>
      if askLimit ≤ (s.vkx.asked.filter fun x => x.2.2 = 1).length then s
      else if n = 0 then pumpAsk k { s with vkx := { s.vkx with toAsk := t } }
      else pumpAsk k (request { s with vkx := { s.vkx with toAsk := askRest s.vkx.toAsk } } 1 (a / 64 * 64) [])

/-- A range of host memory is asked for. -/
def askHost (s : State) (a n : Nat) : State :=
  pumpAsk (askLimit + 1) { s with vkx := { s.vkx with toAsk := s.vkx.toAsk ++ [(a, n)] } }

/-- Is a read of some line of a range of host memory outstanding? -/
def hostPending (s : State) (a n : Nat) : Bool :=
  s.vkx.asked.any (fun x => (x.2.2 == 1 || x.2.2 == 2) && meets 64 x.2.1 a n) || s.vkx.toAsk.any fun x => x.1 < a + n && a < x.1 + x.2

/-- The first line of a range of host memory that came with an error (R396). -/
def hostMark (s : State) (a n : Nat) : Option Nat := s.mem.hostBad.find? fun l => meets 64 l a n

/-! ### Snoops (R394) -/

/-- The lines that the host holds and an access of a device agent must snoop first, with the op: a write invalidates, a
read takes the line from E or M to S. -/
def heldLines (s : State) (rs ws : List (Nat × Nat)) : List (Nat × BitVec 6) :=
  s.mem.slices.flatMap fun e => e.2.snoop.filterMap fun x =>
    if ws.any fun r => meets 64 (64 * x.1) r.1 r.2 then some (x.1, 0x10)
    else if x.2 = 2 && rs.any fun r => meets 64 (64 * x.1) r.1 r.2 then some (x.1, 0x11)
    else none

/-- A snoop goes out, unless one of the line is in flight already. -/
def snoopLine (s : State) (x : Nat × BitVec 6) : State :=
  if s.vkx.snooped.any fun y => y.2.1 = x.1 then s
  else
    let t := newTx s
    let s := { s with vkx := { s.vkx with snooped := s.vkx.snooped ++ [(t, x.1, x.2)], nextTx := t + 1 } }
    sendHost s (.host x.2 t (64 * x.1) 0 false 0 [])

/-- A device access with its reads and writes (R394): it takes effect only when no snoop is needed; else the snoops go out,
and the access is to be made again once they are answered. -/
def snoopGate (rs ws : List (Nat × Nat)) (s s' : State) : State :=
  match heldLines s rs ws with
  | [] => s'
  | ls => ls.foldl snoopLine s

end Sys2Proof.Machine
end

