-- ==== Sys2Proof/Machine/Replies.lean ====
section
/-! DEFINITION. Replies and ring entries by the three routes (R399-R403, R408), and the merging of
members' answers (R27). -/

namespace Sys2Proof.Machine

/-! ### The command window (R399-R403) -/

/-- Host addresses of the window (R399). -/
def winAt (s : State) (o : Nat) : Nat := s.vkx.base.toNat * 0x10000 + o

/-- Bytes 0-55 of a reply (R402). -/
def replyBytes (r : Reply) : List Byte :=
  natLe 4 r.tag.toNat ++ [r.status, 0] ++ natLe 2 r.opcode.toNat ++ natLe 8 r.detail.toNat ++ natLe 8 r.fec.toNat
    ++ natLe 4 r.members.toNat ++ natLe 4 r.data.length ++ natLe 8 (nth 0 r.result 0).toNat ++ natLe 8 (nth 0 r.result 1).toNat
    ++ natLe 8 (nth 0 r.result 2).toNat

/-- The lines of the window that the host-line cache holds are asked for: word 3 of every slot, and the ring head (R394,
R397). -/
def askWindow (s : State) : State :=
  (((List.range 64).map fun k => winAt s (0x1000 * k)) ++ [winAt s 0x41040]).foldl (fun s a => request s 2 a []) s

/-- A reply begins to be written: read data into the slot and the body (R400, R402); the rest waits for their `CMP`s (R395). -/
def beginReply (s : State) (k : Fin 64) (r : Reply) : State :=
  let d := writeHost s (winAt s (0x1000 * k.val + 32)) r.data
  let b := writeHost d.1 (winAt s (0x40000 + 0x40 * k.val)) (replyBytes r)
  { b.1 with vkx := { b.1.vkx with posts := b.1.vkx.posts ++ [{ need := d.2 ++ b.2, what := .reply k r }] } }

/-- A reply is finished: the valid word, and then word 3 of the slot is cleared (R400). -/
def endReply (s : State) (k : Fin 64) (r : Reply) : State :=
  let v := writeHost s (winAt s (0x40000 + 0x40 * k.val + 56)) (natLe 8 1)
  let z := writeHost v.1 (winAt s (0x1000 * k.val + 24)) (natLe 8 0)
  { z.1 with vkx := { z.1.vkx with replies := z.1.vkx.replies ++ [(k, r)] } }

/-- Does a member record of a command wait in the queue (R403)? -/
def recordsWait (s : State) (opcode : BitVec 16) (tag : BitVec 32) : Bool :=
  let ours := fun (e : RingEntry) => e.kind = 2 && e.code = opcode && e.tag = tag
  s.vkx.comps.any ours || s.vkx.posts.any fun p => match p.what with | .entry e => ours e | .reply _ _ => false

/-- Replies that wait are written in order: over a link that is up, into a window in use, after the member records that they
count (R397, R403). -/
def flushReplies (s : State) : State :=
  if !(linkUp s && s.vkx.en) then s
  else
    let q := s.vkx.replyQ
    q.foldl (fun s e => if recordsWait s e.2.opcode e.2.tag then { s with vkx := { s.vkx with replyQ := s.vkx.replyQ ++ [e] } }
                        else beginReply s e.1 e.2) { s with vkx := { s.vkx with replyQ := [] } }

/-- What was begun and not finished goes back to the front of its queue (R397). -/
def requeue (v : Vkx) : Vkx :=
  let rs := v.posts.filterMap fun p => match p.what with | .reply k r => some (k, r) | .entry _ => none
  let es := v.posts.filterMap fun p => match p.what with | .entry e => some e | .reply _ _ => none
  { v with posts := [], replyQ := rs ++ v.replyQ, comps := es.filter (fun e => e.kind ≠ 3) ++ v.comps,
           events := es.filter (fun e => e.kind = 3) ++ v.events }

/-- The ring entry of a completion (R403). -/
def compEntry (s : State) (opcode : BitVec 16) (tag : BitVec 32) (status : Nat) (detail : Word) (result : List Word) :
    RingEntry :=
  { kind := 1, status := BitVec.ofNat 8 status, code := opcode, tag := tag, detail := detail, fec := fec s,
    body := BitVec.ofNat 256 ((nth 0 result 0).toNat + 2 ^ 64 * (nth 0 result 1).toNat + 2 ^ 128 * (nth 0 result 2).toNat) }

/-- The member record of a group command (R403). -/
def memberEntry (s : State) (opcode : BitVec 16) (tag : BitVec 32) (ordinal : Nat) (path : Word) (a : Answer) : RingEntry :=
  { kind := 2, status := a.status, code := opcode, tag := tag, detail := a.detail, fec := fec s,
    body := BitVec.ofNat 256 (ordinal % 2 ^ 32 + 2 ^ 64 * path.toNat) }

/-- A reply goes out by the command's route (R402, R408): `members` member records precede it. -/
def sendReply (s : State) (c : PendCmd) (status : Nat) (detail : Word) (result : List Word) (data : List Byte) (members : Nat) :
    State :=
  let r : Reply := { tag := c.p.tag, status := BitVec.ofNat 8 status, opcode := c.opcode, detail := detail, fec := fec s,
                     members := BitVec.ofNat 32 members, result := result, data := data }
  match c.p.route with
  | .slot k => flushReplies { s with vkx := { s.vkx with replyQ := s.vkx.replyQ ++ [(k, r)] } }
  | .mctp ep => emit { s with firm := { s.firm with mctpOpen := s.firm.mctpOpen - 1 } } (.mctp ep r)
  | .fabric src => sendQ s src 0x02 0 c.p.tag (replyBytes r ++ natLe 8 1 ++ data)

/-- A ring entry goes by a route that leaves the module or ends at its window; a completion over MCTP to the endpoint of the most
recent command (R408). -/
def outEntry (s : State) (r : Route) (e : RingEntry) : State :=
  match r with
  | .slot _ => { s with vkx := { s.vkx with comps := s.vkx.comps ++ [e] } }
  | .mctp ep => emit s (.mctpEvent (if e.kind = 1 then s.firm.endpoint else ep) e)
  | .fabric src => sendQ s src 0x02 0 e.tag (entryBytes e)

/-- A reply and the member records that it counts, of which `earlier` have gone before: over MCTP the records follow the reply, and
by the other routes they precede it (R402, R408). -/
def replyWith (s : State) (c : PendCmd) (a : Answer) (earlier : Nat) (es : List RingEntry) : State :=
  let n := earlier + es.length
  let put := fun s => es.foldl (fun s e => outEntry s c.p.route e) s
  match c.p.route with
  | .mctp _ => put (sendReply s c a.status.toNat a.detail a.result a.data n)
  | _ => sendReply (put s) c a.status.toNat a.detail a.result a.data n

/-- The record of a command (R21, R418). -/
def cmdRecord (s : State) (c : PendCmd) (status : Nat) (detail : Word) : State :=
  record s { kind := 4, done := status == 0, space := 1, reason := BitVec.ofNat 8 status, who := c.p.tag,
             number := c.opcode.setWidth 32, detail := detail, fec := fec s }

/-! ### Members' answers (R27) -/

/-- The flag of R401 that asks for member records. -/
def wantsMembers (p : Packet) : Bool := p.flags.getLsbD 1

/-- Have all members given their last answer? `ACCEPTED` is not the last. -/
def allAnswered (g : Gather) : Bool := g.answers.all fun a => a.2.2.any fun (x : Answer) => x.status ≠ 1

/-- The merged answer (R27): the common status with the detail and result of member 0, else `PARTIAL`. -/
def mergeAnswers (g : Gather) : Answer :=
  let as := g.answers.filterMap fun a => a.2.2
  match as with
  | [] => { status := 0, detail := 0 }
  | a :: t => if t.all fun (b : Answer) => b.status = a.status then a else { status := 0x0A, detail := 0 }

/-- The member records that a group answer brings (R27, R401). -/
def memberRecords (s : State) (g : Gather) : List RingEntry :=
  match g.unit with
  | some w =>
    -- the slice is the one member (R29)
    if wantsMembers g.p then [memberEntry s g.opcode g.p.tag 0 w (mergeAnswers g)] else []
  | none =>
  if (mergeAnswers g).status = 0x0A ∨ wantsMembers g.p then
    g.answers.filterMap fun a => a.2.2.map (memberEntry s g.opcode g.p.tag a.1 a.2.1)
  else []

/-- A gather is over: its command is replied, or completed when it has been replied (R27, R408). -/
def finishGather (s : State) (g : Gather) : State :=
  let c : PendCmd := { opcode := g.opcode, p := g.p }
  let a := mergeAnswers g
  let s := { s with firm := { s.firm with
    gathers := s.firm.gathers.filter (fun x => !(x.p.tag == g.p.tag && x.opcode == g.opcode && x.p.route == g.p.route)),
    taken := s.firm.taken.filter fun x => !(x == c), accepted := s.firm.accepted.filter fun x => !(x == c) } }
  let es := if g.forward then g.late else memberRecords s g
  let s := cmdRecord s c a.status.toNat a.detail
  if g.replied then
    outEntry (es.foldl (fun s e => outEntry s g.p.route e) s) g.p.route (compEntry s g.opcode g.p.tag a.status.toNat a.detail a.result)
  else replyWith s c a (if g.forward then g.records else 0) es

/-- A gather with the answer of a member taken in. -/
def setAnswer (g : Gather) (ordinal : Nat) (a : Answer) : Gather :=
  { g with answers := g.answers.map fun x => if x.1 = ordinal then (x.1, x.2.1, some a) else x }

/-- A gather is put back in place of the one with its tag, opcode and route. -/
def putGather (s : State) (g : Gather) : State :=
  { s with firm := { s.firm with gathers := s.firm.gathers.map fun x =>
      if x.p.tag == g.p.tag && x.opcode == g.opcode && x.p.route == g.p.route then g else x } }

/-- A member's answer to the execution, or the target's answer to a forwarded packet (R27, R408). -/
def gatherAnswer (s : State) (g : Gather) (ordinal : Nat) (a : Answer) : State :=
  let g := setAnswer g ordinal a
  if g.forward && a.status = 1 && !g.replied then
    let c : PendCmd := { opcode := g.opcode, p := g.p }
    let s := putGather s { g with replied := true }
    let s := { s with firm := { s.firm with taken := s.firm.taken.filter (fun x => !(x == c)), accepted := s.firm.accepted ++ [c] } }
    sendReply s c 1 0 [] [] 0
  else if allAnswered g then finishGather s g
  else putGather s g

/-- A unit path that names this module's die. -/
def selfPath (s : State) : Word := BitVec.ofNat 64 (s.fab.node.toNat * 2 ^ 48)

/-- An entry goes by its route; the completion of this module's own part of a group command joins the others (R27). -/
def routeEntry (s : State) (r : Route) (e : RingEntry) : State :=
  match r with
  | .fabric src =>
    if src = s.fab.node then
      match s.firm.gathers.find? fun g => g.p.tag = e.tag && g.opcode = e.code && g.exec with
      | some g =>
        (match g.answers.find? fun a => a.2.1 = selfPath s with
          | some a =>
            let res := [e.body.setWidth 64, (e.body >>> 64).setWidth 64, (e.body >>> 128).setWidth 64]
            gatherAnswer s g a.1 { status := e.status, detail := e.detail, result := res }
          | none => s)
      | none => s
    else outEntry s r e
  | _ => outEntry s r e

end Sys2Proof.Machine
end

