-- ==== Sys2Proof/Machine/Lifecycle.lean ====
section
/-! DEFINITION. Command completions (R403, R408), the drain (R419), unloading a program
(R410, R412) and the resets (R428, R429). -/

namespace Sys2Proof.Machine

/-! ### Command completions (R403, R408, R418) -/

/-- A command's completion: its entry by its route, its record, and its place among the accepted commands (R21,
R403). -/
def completeTag (s : State) (opcode : BitVec 16) (tag : BitVec 32) (r : Route) (status : Nat) (detail : Word)
    (result : List Word) : State :=
  let s := { s with firm := { s.firm with
    accepted := s.firm.accepted.filter fun c => !(c.opcode == opcode && c.p.tag == tag && c.p.route == r) } }
  let own := r == .fabric s.fab.node
  let s := routeEntry s r (compEntry s opcode tag status detail result)
  -- this module's own part of a group command ends with the group's one record (R21, R27)
  if own then s
  else record s { kind := 4, done := status == 0, space := 1, reason := BitVec.ofNat 8 status, who := tag,
                  number := opcode.setWidth 32, detail := detail, fec := fec s }

/-- An accepted command completes. -/
def completeCmd (s : State) (c : PendCmd) (status : Nat) (detail : Word) (result : List Word) : State :=
  completeTag s c.opcode c.p.tag c.p.route status detail result

/-- Does a unit path name a unit of this module (R406)? -/
def pathHere (s : State) (w : Word) : Bool := w.getLsbD 47 || bitsN w.toNat 48 16 = s.fab.node.toNat

/-- An entry of the epoch queue ends without acting (R346-R348): its snapshot buffer is free again, and its command completes;
of a group command, this module's members have answered. -/
def endEntry (s : State) (e : EpochEntry) (status : Nat) (detail : Word) : State :=
  let id := BitVec.ofNat 16 (leNat (e.p.payload.take 2))
  let s := if e.opcode ≠ 0x0602 then s
    else match (List.range 4).find? fun i => let x := rd {} s.time.snaps i; x.waits && x.id == id && x.epoch == e.epoch with
      | some i => { s with time := { s.time with snaps := wr {} s.time.snaps i {} } }
      | none => s
  match s.firm.gathers.find? fun g => g.exec && g.p.tag == e.p.tag && g.opcode == e.opcode && g.p.route == e.p.route with
  | some g => (g.answers.filter fun m => pathHere s m.2.1).foldl (fun s m =>
      match s.firm.gathers.find? fun x => x.p.tag == g.p.tag && x.opcode == g.opcode && x.p.route == g.p.route with
      | some x => gatherAnswer s x m.1 { status := BitVec.ofNat 8 status, detail := detail }
      | none => s) s
  | none =>
    -- an arm completes at the anchor alone (R375)
    if e.opcode = 0x0700 && !isAnchor s then s else completeCmd s { opcode := e.opcode, p := e.p } status detail []

/-- The first accepted command of an opcode. -/
def acceptedOf (s : State) (opcode : Nat) : Option PendCmd :=
  s.firm.accepted.find? fun c => c.opcode.toNat = opcode

/-- Every accepted command completes `FAILED` with a detail (R419). -/
def failAccepted (s : State) (detail : Nat) : State :=
  s.firm.accepted.foldl (fun s c => completeCmd s c 0x09 (BitVec.ofNat 64 detail) []) s

/-- The opcode of `HAMPER_ARM` (R412). -/
def opArm : BitVec 16 := 0x0700

/-- A pending arm that no release has taken completes `FAILED`, cause 2 (R372): at the anchor, for all its members. -/
def dropArm (s : State) : State :=
  match s.hamper.arm with
  | some a =>
    if a.gen.isSome then s
    else if !isAnchor s then { s with hamper := { s.hamper with arm := none } }
    else completeTag { s with hamper := { s.hamper with arm := none } } opArm a.tag a.route 0x09 2 []
  | none => s

/-! ### Unloading and resets -/

/-- A tile without its program: the context and its units' work go; memory, faults and tallies stay. -/
def clearTile (t : Tile) : Tile :=
  { t with loaded := none, carried := [], ctx := { sp := t.ctx.sp, spUe := t.ctx.spUe },
           ibuf := [], items := [], dmaQ := [], dmaRun := [], pages := [], signals := [], reissue := [],
           vec := { t.vec with holder := none, released := false, queue := [], started := [] }, arrays := [] }

/-- The program is unloaded: no context, counters, trees or samples of it remain. The ledger report is cleared (R419),
and a pending arm fails (R372). -/
def unloadProgram (s : State) : State :=
  let s := dropArm s
  { s with tiles := s.tiles.map fun e => (e.1, clearTile e.2), saved := [], slots := [], prog := none, cluster := [], dieSync := [],
           samples := [], trees := [], firm := { s.firm with ledger := [] } }

/-- A tile after a reset other than power-on (R118, R119, R227, R244, R429): fences, fault tallies and repairs stay;
mode 2 keeps the scratchpad. Fenced mode stays with its fences (DESIGN CHOICE, log 99). -/
def resetTile (t : Tile) : Tile :=
  { ctx := { sp := t.ctx.sp, spUe := t.ctx.spUe }, fenced := t.fenced, fencedMode := t.fencedMode, phys := t.phys,
    spCe := t.spCe, spUeTally := t.spUeTally, spUeAddr := t.spUeAddr, march := t.march, spares := t.spares,
    unusable := t.unusable, ovfLost := t.ovfLost, vec := { ecc := t.vec.ecc } }

/-- An LLM slice after a reset other than power-on (R229, R243, R245). -/
def resetSlice (x : Slice) : Slice :=
  { scratch := x.scratch, disabled := x.disabled, ce := x.ce, ue := x.ue, ueOff := x.ueOff, march := x.march,
    spares := x.spares }

/-- An HBM stack after a reset other than power-on (R265, R429). -/
def resetStack (x : Stack) : Stack :=
  { ce := x.ce, ue := x.ue, ueAddr := x.ueAddr, ondie := x.ondie, poison := x.poison, softRepairs := x.softRepairs,
    sparesLeft := x.sparesLeft, soft := x.soft, candidates := x.candidates, ueRows := x.ueRows }

/-- The memories after a reset that does not leave them alone (R429, R435): what a start-up that failed had completed stays mapped. -/
def resetMem (keep : Bool) (m : Memory) : Memory :=
  let stack := fun (x : Stack) => if keep then { resetStack x with trained := x.trained } else resetStack x
  let m := if keep then m else { m with onchip := false, offchip := false, cxl := [], cxlDown := 0, bifur := 0, ways := 1, gran := 0 }
  { m with slices := m.slices.map fun (e : Nat × Slice) => (e.1, resetSlice e.2), hbm := m.hbm.map fun (e : Nat × Stack) => (e.1, stack e.2),
           chans := [], told := [], p0cap := 4, w1 := 0x0C, w2 := 4, w3 := 2, bytesP := [], cxlTimeout := 0x001E8480 }

/-- The Hamper after a reset: its store stays, its work in progress ends (R429). -/
def resetHamper (h : Hamper) : Hamper :=
  { h with state := 0, refresh := [], arm := none, write := none, mirrorTx := none, mirrorRx := none, restore := none,
           copyOut := none, background := false, age := 30, faultAfter := false, eccAfter := false }

/-- A flash slot written. -/
def putFlash (s : State) (opcode : BitVec 16) (slot : Nat) (x : FlashSlot) : State :=
  if opcode = 0x0110 then
    (if slot = 0 then { s with firm := { s.firm with slath0 := x } } else { s with firm := { s.firm with slath1 := x } })
  else if slot = 0 then { s with firm := { s.firm with fw0 := x } } else { s with firm := { s.firm with fw1 := x } }

/-- A write of a flash slot is cut short: the slot fails verification from then on (R422, R433). -/
def abortWrite (s : State) : State :=
  match s.firm.writing with
  | some w => putFlash { s with firm := { s.firm with writing := none } } w.1.opcode w.2.1 {}
  | none => s

/-- The module restarts (R428, R429). `cause` is `DIE.BOOT`.reset_cause, `part` a mode 2 reset, which leaves memories,
fabric and clocks alone. A restart after a start-up failure keeps the failure record (R427), and memory whose phase the start-up had
completed stays mapped (R435; log 105). -/
def restart (s : State) (cause : Nat) (part : Bool) : State :=
  let s := abortWrite s
  let f := s.firm
  let keep := cause = 5
  let s := unloadProgram { s with firm := { f with ledger := [] } }
  let s := { s with firm := { s.firm with ledger := f.ledger } }
  let fw : Firm :=
    { cause := if keep then f.cause else 0, failedPhase := if keep then f.failedPhase else 0,
      detail := if keep then f.detail else 0, notes := if keep then f.notes else 0,
      resetCause := BitVec.ofNat 4 cause, bootStart := if keep then f.bootStart else s.time.elapsed,
      phase := if cause = 0 ∨ cause = 6 then 0 else 1,
      mode := if cause = 3 ∨ cause = 5 then 1 else if cause = 4 ∨ cause = 7 then 2 else 0,
      slath0 := f.slath0, slath1 := f.slath1, fw0 := f.fw0, fw1 := f.fw1,
      ledger := f.ledger, records := s.firm.records, absent := f.absent, resetTag := f.resetTag,
      endpoint := f.endpoint, accepted := s.firm.accepted, taken := f.taken, cut := f.cut,
      state := s.firm.state }
  let v := requeue s.vkx
  let s : State := { s with
    firm := fw,
    closed := 0, ovfLog := [], ovfOver := 0, ovfSat := false, normStep := [],
    ces := s.ces.map fun (e : Nat × Engine) => (e.1, { csum := e.2.csum }),
    tiles := s.tiles.map fun (e : Nat × Tile) => (e.1, if part then { resetTile e.2 with watchdog := e.2.watchdog } else resetTile e.2),
    hamper := resetHamper s.hamper,
    vkx := { base := v.base, en := v.en, order := v.order, timeout := v.timeout, crcErr := v.crcErr, retrain := v.retrain,
             lost := v.lost, evLost := v.evLost, tail := v.tail, head := v.head, events := v.events, comps := v.comps,
             lostSince := v.lostSince, replies := v.replies, replyQ := v.replyQ } }
  let s : State := if part then { s with time := { s.time with epochQ := [], snaps := [] } }
    else { s with
      fab := { proto := s.fab.proto, lowest := s.serial,
               ports := s.fab.ports.map fun (e : Nat × Port) => (e.1, { cwUncorr := e.2.cwUncorr }) },
      time := { cycle := s.time.cycle, rest := s.time.rest, elapsed := s.time.elapsed },
      mem := resetMem keep s.mem }
  setState s .boot

/-- What a drain leads to once no item is in flight (R419): the fault event, the unloading or the reset. -/
def finishDrain (s : State) : State :=
  match s.firm.draining with
  | none => s
  | some d =>
    if itemsInFlight s || extentsInFlight s || commandsInFlight s then s
    else
      let s := { s with firm := { s.firm with draining := none } }
      match d with
      | .faulted => faultEvent s
      | .idle =>
        let s := setState (unloadProgram s) .idle
        (s.firm.accepted.filter fun c => c.opcode = 0x0204).foldl (fun s c => completeCmd s c 0 0 []) s
      | .boot =>
        match s.firm.pendingReset with
        | some m =>
          -- commands that no rule of their own completes fail (R419)
          let s := (s.firm.accepted.filter fun c => c.opcode ≠ 0x0102 && c.opcode ≠ opArm && !s.firm.cut.contains c).foldl (fun s c => completeCmd s c 9 5 []) s
          let s := (s.firm.taken.filter fun c => !s.firm.cut.contains c).foldl (fun s c =>
            sendReply (cmdRecord { s with firm := { s.firm with taken := s.firm.taken.filter fun x => !(x == c) } } c 9 5) c 9 5 [] [] 0) s
          restart s (if m = 0 then 2 else if m = 1 then 3 else if m = 2 then 4 else 7) (2 ≤ m.toNat)
        | none => s
      | _ => s

end Sys2Proof.Machine
end

