-- ==== Sys2Proof/Machine/Dma.lean ====
section
/-! DEFINITION. The tile DMA engine (R93, R95, R137, R138): the descriptor's checks, its queue, and its completion. -/

namespace Sys2Proof.Machine

/-- The spaces that are tile scratchpads (R137). -/
def spSpace (k : Nat) : Bool := k < 2

/-- A signed field. -/
def sfld (w : BitVec 246) (top low : Nat) : Int := sext (top + 1 - low) (fld w top low)

/-- The resolved source address of a descriptor (R137, R138): field plus register, modulo 2^48. -/
def dmaSrc (x : StreamCtx) (w : BitVec 246) : Nat :=
  (fld w 191 144 + (if fld w 199 196 = 0 then 0 else (aReg x (fld w 199 196)).toNat)) % 2 ^ 48
/-- The resolved destination address. -/
def dmaDst (x : StreamCtx) (w : BitVec 246) : Nat :=
  (fld w 127 80 + (if fld w 195 192 = 0 then 0 else (aReg x (fld w 195 192)).toNat)) % 2 ^ 48

/-- The place of token k of lane l in a skewed edge (R93). -/
def skewOff (width k l : Nat) : Nat :=
  if width = 1 then 64 * (k + l) + l else 64 * (2 * k + l / 2) + 4 * (l / 4) + 2 * (l % 2)

/-- The place of token k of lane l in a plain edge (R95). -/
def plainOff (width k l : Nat) : Nat := if width = 1 then 64 * k + l else 128 * k + 2 * l

/-- The rows of a descriptor: source and destination starts and length; a zero row count or length gives none (R133). -/
def dmaRows (w : BitVec 246) (src dst : Nat) : List (Int × Int × Nat) :=
  let n := fld w 63 40
  if n = 0 then []
  else (List.range (fld w 217 202)).map fun q =>
    let panel : Nat := if fld w 236 235 = 0 then q else q / 64
    ((src : Int) + (q : Int) * sfld w 39 20, (dst : Int) + (panel : Int) * sfld w 19 0, n)

/-- The bytes that a descriptor writes, as pieces: source, destination and length (R138). -/
def dmaPieces (w : BitVec 246) (src dst : Nat) : List (Int × Int × Nat) :=
  let k := fld w 236 235
  let rows := dmaRows w src dst
  if k = 0 then rows
  else (List.range rows.length).flatMap fun q =>
    let r := nth (0, 0, 0) rows q
    (List.range (r.2.2 / k)).map fun i => (r.1 + (k * i : Nat), r.2.1 + skewOff k i (q % 64), k)

/-- The region of a memory space (R137). -/
def spaceRegion (k : Nat) : Region := if k = 2 then .hbm else if k = 3 then .llm else .far

/-- The first address of a row that a space does not hold: none if it lies wholly in it (R138). -/
def rowOut (s : State) (space : Nat) (a : Int) (n : Nat) : Option Nat :=
  let low := trunc 48 a
  if a < 0 then some low
  else
    let b := a.toNat
    if spSpace space then
      if spSize ≤ b then some b else if spSize < b + n then some spSize else none
    else
      let r := spaceRegion space
      if inRegion s b n r then none
      else if regionAt s b ≠ r then some b
      else some (match r with
        | .hbm => hbmSize
        | .llm => llmBase + ((b - llmBase) / wayGroup + 1) * wayGroup
        | _ => farBase + mappedCap s * 2 ^ 28)

/-- The scratchpad ranges of rows. -/
def rowRanges (rs : List (Int × Nat)) : List Range := rs.map fun r => (r.1.toNat, r.2)

/-- The destination ranges of a descriptor: its rows, or its skewed lane panels (R93, R138). -/
def dstRows (w : BitVec 246) (src dst : Nat) : List (Int × Nat) :=
  let k := fld w 236 235
  let rows := dmaRows w src dst
  if k = 0 then rows.map fun r => (r.2.1, r.2.2)
  else
    let t := fld w 63 40 / k
    if t = 0 then []
    else (List.range (rows.length / 64)).map fun p =>
      ((nth (0, 0, 0) rows (64 * p)).2.1, if k = 1 then 64 * (t + 63) else 64 * (2 * t + 30))

/-- The program tile whose scratchpad a space names. -/
def spaceTile (s : State) (i : Issue) (w : BitVec 246) (space : Nat) : Nat :=
  if space = 1 then fld w 226 218 else ptileOf s i.tile

/-- The scratchpad operands of a descriptor: the source in slot 1, the destination in slot 2 (R127, R138). -/
def dmaOperands (s : State) (i : Issue) (w : BitVec 246) : List Operand :=
  let x := strm s i.tile i.stream
  let src := dmaSrc x w
  let dst := dmaDst x w
  (if spSpace (fld w 244 242) then
    [{ slot := 1, ptile := spaceTile s i w (fld w 244 242),
       ranges := rowRanges ((dmaRows w src dst).map fun r => (r.1, r.2.2)), producer := false,
       named := effSeal x (fbit w 201) (fld w 143 140) }] else []) ++
  (if spSpace (fld w 241 239) then
    [{ slot := 2, ptile := spaceTile s i w (fld w 241 239), ranges := rowRanges (dstRows w src dst), producer := true,
       named := effSeal x (fbit w 200) (fld w 79 76) }] else [])

/-- The listed fields of `DMA` (R137). -/
def dmaFields : List (Nat × Nat) :=
  [(244, 242), (241, 239), (238, 237), (236, 235), (234, 233), (232, 227), (226, 218), (217, 202), (201, 201),
   (200, 200), (199, 196), (195, 192), (191, 144), (143, 140), (127, 80), (79, 76), (63, 40), (39, 20), (19, 0)]

/-- The checks of a `DMA` (R129, R136-R138). -/
def dmaChecks (s : State) (i : Issue) (w : BitVec 246) : List Check :=
  let x := strm s i.tile i.stream
  let ss := fld w 244 242
  let ds := fld w 241 239
  let skew := fld w 236 235
  let src := dmaSrc x w
  let dst := dmaDst x w
  let out := fun (slot : Nat) (a : Option Nat) => ckRange a.isSome slot (a.getD 0)
  reservedChecks w dmaFields ++
  [ ckRes (decide (5 ≤ ss)) 244, ckRes (decide (5 ≤ ds)) 241, ckRes (decide (fld w 238 237 = 3)) 238,
    ckRes (decide (skew = 3)) 236,
    ckRes (!spSpace ss && fbit w 201) 201, ckRes (!spSpace ds && fbit w 200) 200,
    ckRes (!spSpace ss && decide (fld w 143 140 ≠ 0)) 143, ckRes (!spSpace ds && decide (fld w 79 76 ≠ 0)) 79,
    ckFmt (decide (skew ≠ 0) && !spSpace ds) 2 0 0,
    ckAlign (decide (skew ≠ 0 ∧ fld w 217 202 % 64 ≠ 0)) 0 (fld w 217 202),
    ckRange (decide (fld w 234 233 = 2 ∧ 31 < fld w 232 227)) 0 (fld w 232 227),
    ckRange (decide ((ss = 1 ∨ ds = 1) ∧ progP s ≤ fld w 226 218)) 0 (fld w 226 218) ] ++
  ((dmaRows w src dst).map fun r => out 1 (rowOut s ss r.1 r.2.2)) ++
  ((dstRows w src dst).map fun r => out 2 (rowOut s ds r.1 r.2)) ++
  [ ckConf (decide (32 ≤ (tileAt s i.tile).dmaQ.length + (tileAt s i.tile).dmaRun.length)) 4 6 3 0 ] ++
  sealChecks s (dmaOperands s i w)

/-- `DMA` (R137, R138): one descriptor becomes a work item and joins the queue; an empty one is DONE at once (R133).
The item keeps its resolved addresses in `scalar` and `draw`. -/
def execDma (i : Issue) (w : BitVec 246) (s : State) : Res :=
  done s (issueN s i 0x060 w (fun s => dmaChecks s i w) fun s =>
    let t := i.tile.val
    let p := ptileOf s t
    let x := strm s t i.stream
    let src := dmaSrc x w
    let dst := dmaDst x w
    let it := { newItem s t i.stream .dma 0x060 w ⟨BitVec.ofNat 2 (fld w 234 233), BitVec.ofNat 6 (fld w 232 227)⟩ with
      scalar := BitVec.ofNat 64 src, draw := BitVec.ofNat 64 dst }
    let s := takeSeq s t i.stream
    if (dmaRows w src dst).isEmpty then completeItem s t p it none 0
    else
      let s := register s p i.stream it.seq none (dmaOperands s i w)
      modTile (addItem s t it) t fun y => { y with dmaQ := y.dmaQ ++ [it] })

/-- `DMA_DESCRIPTOR_START` (R138): in issue order, up to four at once; none starts in `CHECKPOINT` (R37). -/
def execDmaDescriptorStart (t : Fin 64) (s : State) : Res :=
  let x := tileAt s t
  done s (match x.dmaQ with
    | [] => s
    | it :: q =>
      if x.dmaRun.length < 4 && s.firm.state != .checkpoint && !s.firm.held then
        putTile s t { x with dmaQ := q, dmaRun := x.dmaRun ++ [{ it with started := true }] }
      else s)

/-- Bytes of a space at an address (R137). -/
def spaceRead (s : State) (space ptile a n : Nat) : List Byte :=
  if spSpace space then rdBytes (ctxOf s ptile).sp a n else devRead s a n

/-- The first marked unit that a read of a space meets, as a device address (R138). -/
def spaceMark (s : State) (space ptile a n : Nat) : Option Nat :=
  if spSpace space then (spError (ctxOf s ptile) a n).map (· + spBase + devTile s ptile * spSize) else devMark s a n

/-- Bytes written into a space, and the first marked unit left as it is. -/
def spaceWrite (s : State) (space ptile a : Nat) (bs : List Byte) : State × Option Nat :=
  if spSpace space then
    let c := ctxOf s ptile
    let w := wrMarked c.sp c.spUe 8 a bs
    (modCtxOf s ptile fun c => { c with sp := w.1, spUe := w.2.1 }, w.2.2.map (· + spBase + devTile s ptile * spSize))
  else devWrite s a bs

/-- The device address of a space's address. -/
def spaceDev (s : State) (space ptile a : Nat) : Nat :=
  if spSpace space then spBase + devTile s ptile * spSize + a else a

/-- How many pieces write an address. -/
def hits (ps : List (Int × Int × Nat)) (a : Int) : Nat :=
  (ps.filter fun q => decide (q.2.1 ≤ a) && decide (a < q.2.1 + q.2.2)).length

/-- Is a byte of a piece one whose value hangs on the order of the copy, which the spec does not give: written twice, or read
from where another is written (log 64)? `same` says that both sides are one memory. -/
def raceByte (same : Bool) (ps : List (Int × Int × Nat)) (p : Int × Int × Nat) (k : Nat) : Bool :=
  decide (2 ≤ hits ps (p.2.1 + k)) || (same && decide (p.1 ≠ p.2.1) && decide (1 ≤ hits ps (p.1 + k)))

/-- One piece is copied; the first marked destination unit that it left is kept in the second component. -/
def copyPiece (ss ds ps pd : Nat) (all : List (Int × Int × Nat)) (r : State × Option Nat) (p : Int × Int × Nat) :
    State × Option Nat :=
  let race := raceByte (spSpace ss == spSpace ds && (!spSpace ss || ps == pd)) all p
  let bs := freeMix r.1 race (spaceRead r.1 ss ps p.1.toNat p.2.2)
  let s := if (List.range p.2.2).any race then { r.1 with free := r.1.free + p.2.2 } else r.1
  let w := spaceWrite s ds pd p.2.1.toNat bs
  (w.1, match r.2 with | some a => some a | none => w.2)

/-- One piece of a FAILED descriptor (R138): each byte keeps its value or takes the one it was to get, as the free
values say; a byte whose source read failed, in a marked unit or where `bad` says, is not written. -/
def freePiece (ss ds ps pd : Nat) (bad : Nat → Bool) (s : State) (p : Int × Int × Nat) : State :=
  let bs := spaceRead s ss ps p.1.toNat p.2.2
  let old := spaceRead s ds pd p.2.1.toNat p.2.2
  let src := spaceDev s ss ps p.1.toNat
  let mix := (List.range p.2.2).map fun k =>
    if freeBit s k && !bad (src + k) && (spaceMark s ss ps (p.1.toNat + k) 1).isNone then nth 0 bs k else nth 0 old k
  { (spaceWrite s ds pd p.2.1.toNat mix).1 with free := s.free + p.2.2 }

/-- A descriptor that fails on its source: what it had written is free (R138). -/
def dmaPartial (s : State) (p : Nat) (it : Item) (bad : Nat → Bool) : State :=
  let w := it.w
  let ss := fld w 244 242
  let ds := fld w 241 239
  let of := fun (space : Nat) => if space = 1 then fld w 226 218 else p
  (dmaPieces w it.scalar.toNat it.draw.toNat).foldl (freePiece ss ds (of ss) (of ds) bad) s

/-- An item that ends FAILED on a memory error, with the die fault that follows (R138, R436). -/
def failEcc (s : State) (t p : Nat) (it : Item) (a source : Nat) : State :=
  dieFault (completeItem s t p it (some 0x0D) (eccDetail source a)) 0x05

/-- The end of a descriptor (R138, R225, R253, R263): a failure that its reads reported, or a marked unit of its source, fails it; a marked
destination unit that it covers in part fails it at its end. -/
def dmaFinish (s : State) (t p : Nat) (it : Item) (reported : Option (Nat × Nat)) : State :=
  let w := it.w
  let ss := fld w 244 242
  let ds := fld w 241 239
  let of := fun (space : Nat) => if space = 1 then fld w 226 218 else p
  let pieces := dmaPieces w it.scalar.toNat it.draw.toNat
  let down := pieces.any fun q =>
    (ss = 4 && farDown s q.1.toNat q.2.2) || (ds = 4 && farDown s q.2.1.toNat q.2.2)
  if down then completeItem s t p it (some 0x0B) 0
  else match it.failed, reported with
  | some f, _ =>
    let s := completeItem (dmaPartial s p it fun _ => false) t p it (some f) it.fdetail
    if f = 0x0D then dieFault s 0x05 else s
  | none, some r =>
    let u := markUnit (regionAt s r.1)
    failEcc (dmaPartial s p it fun a => decide (r.1 ≤ a) && decide (a < r.1 + u)) t p it r.1 r.2
  | none, none =>
    match pieces.findSome? fun q => spaceMark s ss (of ss) q.1.toNat q.2.2 with
    | some a =>
      let r := regionAt s a
      let a := a / markUnit r * markUnit r
      failEcc (noteMark (dmaPartial s p it fun _ => false) a) t p it a (sourceOf r)
    | none =>
      let r := pieces.foldl (copyPiece ss ds (of ss) (of ds) pieces) (s, none)
      match r.2 with
      | none => completeItem r.1 t p it none 0
      | some a => failEcc (noteMark r.1 a) t p it a (sourceOf (regionAt s a))

/-- The device ranges that a descriptor reads or writes outside the scratchpads. -/
def dmaRanges (it : Item) (dst : Bool) : List (Nat × Nat) :=
  if spSpace (if dst then fld it.w 241 239 else fld it.w 244 242) then []
  else (dmaPieces it.w it.scalar.toNat it.draw.toNat).map fun p => ((if dst then p.2.1 else p.1).toNat, p.2.2)

/-- The class of a descriptor's requests (R137, R248). -/
def dmaClass (it : Item) : Nat := fld it.w 238 237 + 1

/-- The cycles that a descriptor lost to other masters of the scratchpads (R224): free, as the engine's pace is (log 84). -/
def dmaConflict (s : State) (t : Nat) (it : Item) : State :=
  if spSpace (fld it.w 244 242) || spSpace (fld it.w 241 239) then
    let n := (Config.freeValue s.free).toNat
    modTile { s with free := s.free + 1 } t fun x => { x with conflict := upd 0 x.conflict 3 (· + n) }
  else s

/-- `DMA_COMPLETE` (R138): the descriptor's bytes are written and it completes DONE or FAILED. `e` is the outcome of its
source reads, by device address. A line that the host holds is snooped first (R394). -/
def execDmaComplete (t : Fin 64) (st : Stream) (seq : BitVec 32) (e : ReadFault) (s : State) : Res :=
  done s (match (tileAt s t).dmaRun.find? fun i => i.stream == st && i.seq == seq with
    | none => s
    | some it =>
      snoopGate (dmaRanges it false) (dmaRanges it true) s <|
      let p := ptileOf s t
      let s := modTile s t fun x => { x with dmaRun := x.dmaRun.filter fun i => !(i.stream == st && i.seq == seq) }
      let r := noteFault s e
      let s := dmaConflict (touchReads (dmaClass it) r.1 (dmaRanges it false)) t it
      let s := dmaFinish s t p it r.2
      finishDrain (chainStop (touchWrites (dmaClass it) s (dmaRanges it true)) t))

end Sys2Proof.Machine
end

