-- ==== Sys2Proof/Machine/DotProduct.lean ====
section
/-! DEFINITION. The dot product of the array instructions: block mode (R68-R74), panel mode (R75-R86) and
reference mode (R87-R89), from the elements of one row and one column. -/

namespace Sys2Proof.Machine

/-! ### Block mode -/

/-- Significand and effective exponent of a T16 element (R68). -/
def t16Sig (x : Nat) : Nat × Nat :=
  let e := bitsN x 8 7
  if e = 0 then (x % 256, 1) else (256 + x % 256, e)

/-- One block's mantissas, none for poison, with its LSB exponent (R68). -/
def blockMant (f : Nat) (xs : List Nat) (e : Nat) : List (Option Int) × Int :=
  if f = 3 then
    let eb := xs.foldl (fun m x => if x = 0x8000 then m else max m (t16Sig x).2) 1
    (xs.map fun x =>
      if x = 0x8000 then none
      else
        let (s, e) := t16Sig x
        let m := s * 64 / 2 ^ (eb - e)
        some (sgn (x.testBit 15) m),
     (eb : Int) - 77)
  else
    let w := fmtWidth f
    (xs.map fun x => if x = 2 ^ (w - 1) then none else some (sext w x), (e : Int) - 127 - blkS f)

/-- The block sum of R69 and whether a poison element took part. -/
def blockSum : List (Option Int) → List (Option Int) → Int × Bool
  | a :: as, b :: bs =>
    let (p, z) := blockSum as bs
    match a, b with
    | some x, some y => (p + x * y, z)
    | _, _ => (p, true)
  | _, _ => (0, false)

/-- shift_floor (R70). -/
def shiftFloor (v : Int) (d : Nat) : Int × Bool := (v / (2 ^ d : Nat), decide (v % (2 ^ d : Nat) ≠ 0))

/-- The widening loop of fold (R70); `fuel` bounds it. -/
def widen : Nat → Int → Int → Bool → Int × Int × Bool
  | 0, a, le, st => (a, le, st)
  | n + 1, a, le, st =>
    if a < -(2 ^ 47) ∨ a ≥ 2 ^ 47 then
      let (a', l) := shiftFloor a 1
      widen n a' (le + 1) (st || l)
    else (a, le, st)

/-- fold (R70). -/
def foldBlock (s : Acc) (p x : Int) (poison : Bool) : Acc :=
  let s := { s with pz := s.pz || poison }
  if p = 0 then s
  else if !s.live then { s with acc := BitVec.ofInt 48 p, le := BitVec.ofInt 12 x, live := true }
  else
    let acc := s.acc.toInt
    let le := s.le.toInt
    let (acc, p, le', st) :=
      if x > le then
        let (a, l) := shiftFloor acc (x - le).toNat
        (a, p, x, s.st || l)
      else
        let (q, l) := shiftFloor p (le - x).toNat
        (acc, q, le, s.st || l)
    let (a, le'', st) := widen 8 (acc + p) le' st
    { s with acc := BitVec.ofInt 48 a, le := BitVec.ofInt 12 le'', st := st }

/-- The value that a cell presents at the drain (R71, R72). -/
def drainVal (s : Acc) : Val :=
  if s.pz then .poison
  else if !s.live || (s.acc = 0 && !s.st) then .fin false 0 1
  else
    let v := 2 * s.acc.toInt + (if s.st then 1 else 0)
    mkDy (decide (v < 0)) v.natAbs (s.le.toInt - 1)

/-- One output element that is not block-scaled, rounded as R72 says. -/
def drainElem (f : Nat) (v : Val) (mode : RMode) (r : Nat) : ERes :=
  if f = 3 then toT16 v mode r
  else match v with
    | .fin s n d =>
      let e := satRound f s n d mode r
      -- never a negative zero (R72)
      if e.bits = 2 ^ (fmtWidth f - 1) then { e with bits := 0 } else e
    | _ => { bits := poisonBits f, pout := true }

/-- One output row of block mode or of reference mode with short operands (R72, R87): exponent bytes and elements.
Output blocks have `b` elements; `given` holds given exponents. -/
def drainRow (f b : Nat) (given : Option (List Nat)) (mode : RMode) (vs : List Val) (rs : List Nat) :
    List Nat × List ERes :=
  if isBlk f then
    let g := fun j => given.map fun l => nth 0 l j
    let res := (List.range (vs.length / b)).map fun j => toBlock f (g j) mode (sub vs (j * b) b) (sub rs (j * b) b)
    (res.map (·.1), (res.map (·.2)).flatten)
  else ([], (List.range vs.length).map fun i => drainElem f (nth .poison vs i) mode (nth 0 rs i))

/-! ### Special values of panel mode -/

/-- What a cell records of its products (R85, R86, R97). -/
structure Cls where
  pois : Bool := false
  nan  : Bool := false
  pinf : Bool := false
  ninf : Bool := false
  inv  : Bool := false
  negz : Bool := true
  deriving DecidableEq, Repr

/-- The kind of an element (R97): 0 finite non-zero, 1 zero, 2 infinite, 3 quiet NaN, 4 signalling NaN, 5 poison. -/
def kindOf : Val → Nat
  | .fin _ n _ => if n = 0 then 1 else 0
  | .inf _ => 2
  | .nan _ sig _ => if sig then 4 else 3
  | .poison => 5

/-- The sign of an encoded element. -/
def signOf (f x : Nat) : Bool := x.testBit (fmtWidth f - 1)

/-- The class byte of an element (R97). -/
def classByte (f x : Nat) : Nat := 8 * bn (signOf f x) + kindOf (decBin f x)

/-- One product classified from its class bytes (R85). -/
def clsStep (c : Cls) (a b : Nat) : Cls :=
  let ka := min (a % 8) 5
  let kb := min (b % 8) 5
  let neg := a.testBit 3 != b.testBit 3
  let isNan := fun k => k == 3 || k == 4
  let infZero := (ka == 2 && kb == 1) || (ka == 1 && kb == 2)
  let nan := isNan ka || isNan kb || infZero
  let inf := (ka == 2 || kb == 2) && !nan
  let zero := (ka == 1 || kb == 1) && !nan
  { pois := c.pois || ka == 5 || kb == 5,
    nan := c.nan || nan,
    pinf := c.pinf || (inf && !neg), ninf := c.ninf || (inf && neg),
    inv := c.inv || ka == 4 || kb == 4 || infZero,
    negz := c.negz && zero && neg }

/-- hi and lo of a compensated pair for a finite v (R84). -/
def pairOut (s : Bool) (n d : Nat) : ERes × ERes :=
  let hi := ieeeRound 5 s n d .rne 0
  if hi.ieee.overflow then
    ({ hi with ieee := { overflow := true, inexact := true } }, { bits := 0 })
  else
    match decBin 5 hi.bits with
    | .fin hs hn hd =>
      let (es, en, ed) := addFin (s, n, d) (!hs, hn, hd)
      if en = 0 then ({ hi with ieee := {} }, { bits := 0 })
      else
        let lo := ieeeRound 5 es en ed .rne 0
        let tiny := lo.bits % 2 ^ 63 < 2 ^ 52
        ({ hi with ieee := {} },
         { lo with ieee := { inexact := lo.ieee.inexact, underflow := lo.ieee.inexact && tiny } })
    | _ => (hi, { bits := 0 })

/-- The output of panel mode, and of reference mode with binary operands, from v and the classification
(R83-R87). -/
def panelOut (fmt : Nat) (pair : Bool) (c : Cls) (s : Bool) (n d : Nat) (mode : RMode) (r : Nat) : ERes × ERes :=
  let f := if pair then 5 else fmt
  if c.pois then
    ({ bits := poisonBits f, pin := true, pout := true }, { bits := poisonBits f })
  else if c.nan || (c.pinf && c.ninf) then
    ({ bits := canonNan f, ieee := { invalid := c.inv || (c.pinf && c.ninf) } }, { bits := canonNan f })
  else if c.pinf || c.ninf then ({ bits := binInf f c.ninf }, { bits := 0 })
  else
    let s := if n = 0 then c.negz else s
    if pair then pairOut s n d else (ieeeRound f s n d mode r, { bits := 0 })

/-! ### Panel mode -/

/-- Slices of a panel format: n, window width less one slice, and t (R76, R78). -/
def panelN (f : Nat) : Nat := if f = 5 then 9 else 4
/-- t of R76. -/
def panelT (f : Nat) : Nat := if f = 5 then 70 else 30

/-- The aligned element of R76 with panel exponent `ep`; infinities, NaNs and zeros align to 0. -/
def panelAlign (f : Nat) (v : Val) (ep : Int) : Int :=
  match v with
  | .fin s n d => let p := pow2 (panelT f - ep); sgn s (n * p.1 / (d * p.2))
  | _ => 0

/-- Slice `i` of an aligned element, as its byte (R78). -/
def sliceByte (a : Int) (i : Nat) : Nat := (a / (256 ^ i : Nat) % 256).toNat

/-- A slice byte as the signed or unsigned number of R78. -/
def sliceNum (n i b : Nat) : Int := if i = n - 1 then sext 8 b else b

/-- The pass set of R80 in the canonical order of R110. -/
def passSet (f : Nat) (std : Bool) : List (Nat × Nat) :=
  let n := panelN f
  let all := (List.range (2 * n - 1)).flatMap fun s =>
    ((List.range n).filter fun i => i ≤ s && s - i < n).map fun i => (i, s - i)
  if std then all.filter fun p => n - 1 ≤ p.1 + p.2 else all

/-- The composed window T of R82 as a signed 160-bit integer: `a k i` and `b k j` are the slice bytes. -/
def compose (f : Nat) (std : Bool) (K : Nat) (a b : Nat → Nat → Nat) : Int :=
  let n := panelN f
  let t := (passSet f std).foldl (fun t p =>
    let sum := (List.range K).foldl (fun s k => s + sliceNum n p.1 (a k p.1) * sliceNum n p.2 (b k p.2)) (0 : Int)
    t + sum * (2 ^ (8 * (p.1 + p.2)) : Nat)) (0 : Int)
  (BitVec.ofInt 160 t).toInt

/-! ### Reference mode -/

/-- The exact sum of products of finite elements (R87), and whether a poison element was met. -/
def refSum (K : Nat) (a b : Nat → Val) : (Bool × Nat × Nat) × Bool :=
  (List.range K).foldl (fun (s, z) k =>
    match a k, b k with
    | .fin sa na da, .fin sb nb db => (addFin s (sa != sb, na * nb, da * db), z)
    | .poison, _ => (s, true)
    | _, .poison => (s, true)
    | _, _ => (s, z)) ((false, 0, 1), false)

end Sys2Proof.Machine
end

