-- ==== Sys2Proof/Machine/Mma.lean ====
section
/-! DEFINITION. The array instruction `MMA` (R66-R116, R139-R142, R456): its fields, checks, results and timing. -/

namespace Sys2Proof.Machine

/-- One operand edge of `MMA` (R139), addresses in bytes. -/
structure Edge where
  base    : Nat
  aux     : Nat
  pstride : Nat
  lanes   : Nat
  fmt     : Nat
  named   : Nat
  rel     : Bool
  plain   : Bool
  deriving DecidableEq, Repr

/-- The fields of an `MMA` word (R139), addresses in bytes. -/
structure MmaWord where
  cin   : Bool
  cout  : Bool
  round : Nat
  gang  : Nat
  mode  : Nat
  pair  : Bool
  array : Nat
  bs    : Bool
  k     : Nat
  a     : Edge
  b     : Edge
  cBase : Nat
  cAux  : Nat
  rstride : Nat
  cFmt  : Nat
  gmark : Bool
  emode : Bool
  obs   : Bool
  cSeal : Nat
  cRel  : Bool
  deriving DecidableEq, Repr

/-- The fields of a word (R139). -/
def mmaWord (w : BitVec 246) : MmaWord :=
  let edge := fun (lo rel plain : Nat) =>
    ({ base := 64 * fld w (lo + 63) (lo + 48), aux := 64 * fld w (lo + 47) (lo + 32),
       pstride := 64 * fld w (lo + 31) (lo + 16), lanes := fld w (lo + 15) (lo + 8) + 1, fmt := fld w (lo + 7) (lo + 4),
       named := fld w (lo + 3) lo, rel := fbit w rel, plain := fbit w plain } : Edge)
  { cin := fbit w 244, cout := fbit w 243, round := fld w 242 241, gang := fld w 240 239, mode := fld w 238 237,
    pair := fbit w 236, array := fld w 233 232, bs := fbit w 231, k := fld w 216 192,
    a := edge 128 222 235, b := edge 64 221 234,
    cBase := 16 * fld w 63 46, cAux := 16 * fld w 45 28, rstride := 16 * fld w 27 12, cFmt := fld w 11 8,
    gmark := fbit w 7, emode := fbit w 6, obs := fbit w 5, cSeal := fld w 3 0, cRel := fbit w 220 }

/-- Is the mode panel exact or standard (R139)? -/
def isPanel (m : MmaWord) : Bool := m.mode == 1 || m.mode == 2
/-- Is the mode reference mode? -/
def isRef (m : MmaWord) : Bool := m.mode == 3
/-- Do the operands have a short format? -/
def shortOps (m : MmaWord) : Bool := isShort m.a.fmt

/-- Lane panels of each edge (R140). -/
def panelsOf (m : MmaWord) : Nat := if m.gang = 1 then 2 else if m.gang = 2 then 4 else 1
/-- Arrays of the gang shape (R106). -/
def gangArrays (m : MmaWord) : Nat := if m.gang = 0 then 1 else if m.gang = 2 then 16 else 4

/-- The block size of the operands (R66). -/
def mmaBlk (m : MmaWord) : Nat := if m.bs then 16 else 32

/-- Tokens that an edge lane delivers (R92). -/
def edgeTokens (f k : Nat) : Nat := if f = 1 then k / 2 else k
/-- Token width in bytes (R92). -/
def tokenWidth (f : Nat) : Nat := if f = 2 ∨ f = 3 then 2 else 1

/-- The bytes of one lane panel's mantissas or of one plane (R93, R95). The T of a CK4 edge is its own count of tokens, K / 2, in a pairing
with CK8 too (DESIGN CHOICE, log 97). -/
def edgeSpan (f k : Nat) (plain : Bool) : Nat :=
  let n := edgeTokens f k
  if tokenWidth f = 1 then 64 * (if plain then n else n + 63) else (if plain then 128 * n else 64 * (2 * n + 32))

/-- Slice planes and class plane of a panel edge (R96). -/
def planesOf (f : Nat) : Nat := panelN f + 1

/-- The byte ranges that an edge reads in lane panel `p` (R140, R456). -/
def edgeRanges (m : MmaWord) (e : Edge) (p : Nat) : List Range :=
  if isPanel m then
    ((List.range (planesOf e.fmt)).map fun i => (e.base + (p * planesOf e.fmt + i) * e.pstride, 64 * (if e.plain then m.k else m.k + 63)))
      ++ [(e.aux + 512 * p, 512)]
  else if isRef m && isBin e.fmt then [(e.base + p * e.pstride, 64 * m.k * (fmtWidth e.fmt / 8))]
  else
    [(e.base + p * e.pstride, edgeSpan e.fmt m.k e.plain)] ++
      (if isBlk e.fmt then [(e.aux + p * (m.k / mmaBlk m) * 64, m.k / mmaBlk m * 64)] else [])

/-- Member tiles of a 4 × 4 gang with the program tile's number in the cluster; else the tile alone (R106). -/
def gangMembers (m : MmaWord) : List Nat := if m.gang = 2 then [0, 1, 2, 3] else [0]

/-- The member that feeds lane panel `p`: of A tiles 0 and 2, of B tiles 0 and 1 (R106). -/
def feederOf (m : MmaWord) (isA : Bool) (p : Nat) : Nat := if m.gang = 2 then (if isA then p / 2 * 2 else p / 2) else 0

/-- The rows, columns of a member's part of the output: starts and counts (R106, R140). -/
def partOf (m : MmaWord) (member : Nat) : (Nat × Nat) × (Nat × Nat) :=
  if m.gang = 2 then
    let r := member / 2 * 128
    let c := member % 2 * 128
    ((r, min 128 (m.a.lanes - r)), (c, min 128 (m.b.lanes - c)))
  else ((0, m.a.lanes), (0, m.b.lanes))

/-- Bytes of `n` output elements (R42). -/
def outBytes (f n : Nat) : Nat := (n * fmtWidth f + 7) / 8
/-- The output block size. -/
def outBlk (m : MmaWord) : Nat := if m.obs then 16 else 32

/-- The byte ranges that a member writes (R140). -/
def outRanges (m : MmaWord) (member : Nat) : List Range :=
  let ((_, nr), (_, nc)) := partOf m member
  if m.cout || nc = 0 then []
  else
    ((List.range nr).map fun r => (m.cBase + r * m.rstride, outBytes m.cFmt nc)) ++
    (if isBlk m.cFmt then (List.range nr).map fun r => (m.cAux + 16 * r, nc / outBlk m) else []) ++
    (if m.pair then (List.range nr).map fun r => (m.cAux + r * m.rstride, outBytes m.cFmt nc) else [])

/-- The scratchpad operands of an instruction; with K = 0 there are none (R133, R140). -/
def mmaOperands (s : State) (t : Nat) (st : Stream) (m : MmaWord) : List Operand :=
  if m.k = 0 then []
  else
    let p := ptileOf s t
    let x := strm s t st
    let edge := fun (slot : Nat) (e : Edge) (isA : Bool) =>
      (gangMembers m).filterMap fun g =>
        let ps := (List.range (panelsOf m)).filter fun q => feederOf m isA q = g
        if ps.isEmpty then none
        else some ({ slot := slot, ptile := p + g, ranges := ps.flatMap fun q => edgeRanges m e q,
                     producer := false, named := effSeal x e.rel e.named } : Operand)
    edge 1 m.a true ++ edge 2 m.b false ++
      (if m.cout then [] else (gangMembers m).map fun g =>
        { slot := 3, ptile := p + g, ranges := outRanges m g, producer := true, named := effSeal x m.cRel m.cSeal })

/-! ### Timing (R92, R98, R107, R110, R117, R456) -/

/-- Passes of a panel-mode instruction, those of one array in a pass split (R80, R110). -/
def passCount (m : MmaWord) : Nat :=
  let n := (passSet m.a.fmt (m.mode == 2)).length
  if m.gang = 3 then (n + 3) / 4 else n

/-- T of block mode (R92). -/
def feedT (m : MmaWord) : Nat :=
  if m.a.fmt = 1 ∧ m.b.fmt = 1 then m.k / 2 else if tokenWidth m.a.fmt = 2 then 4 * m.k else m.k

/-- The span of an instruction (R92, R456). -/
def mmaSpan (m : MmaWord) : Nat :=
  if m.k = 0 then 0
  else if isRef m then 64 * m.k * ((m.a.lanes * m.b.lanes + gangArrays m - 1) / gangArrays m)
  else if isPanel m then (passCount m - 1) * max m.k 128 + m.k
  else feedT m

/-- Cycles beyond the span from issue to the completion record (R117). -/
def fillDrain (m : MmaWord) : Nat :=
  if isRef m then 198
  else
    (match m.gang with | 1 => 328 | 2 => 590 | 3 => 206 | _ => if isPanel m then 202 else 198)
      + (if m.a.plain || m.b.plain then 64 else 0) + (if m.a.fmt = 3 then 128 else 0)

/-- Program arrays that an instruction uses on a tile. -/
def arraysUsed (m : MmaWord) : List Nat := if m.gang = 0 then [m.array] else [0, 1, 2, 3]

/-- The arrays of an instruction: member tile and program array (R106). -/
def gangCells (m : MmaWord) : List (Nat × Nat) := (gangMembers m).flatMap fun g => (arraysUsed m).map fun n => (g, n)

/-- The row and the column of arrays in which an array of a gang stands (R106). -/
def cellPlace (m : MmaWord) (g n : Nat) : Nat × Nat :=
  if m.gang = 2 then (g / 2 * 2 + n / 2, g % 2 * 2 + n % 2) else if m.gang = 1 then (n / 2, n % 2) else (0, 0)

/-- The array of a gang that forms an output element, and the element's cell in it (R106). -/
def cellOf (m : MmaWord) (r c : Nat) : (Nat × Nat) × Nat :=
  let key := 64 * (r % 64) + c % 64
  if m.gang = 2 then ((r / 128 * 2 + c / 128, r / 64 % 2 * 2 + c / 64 % 2), key)
  else if m.gang = 1 then ((0, r / 64 * 2 + c / 64), key) else ((0, (arraysUsed m).head?.getD 0), key)

/-- Does a plain edge delay the instruction (R95)? -/
def staggered (m : MmaWord) : Bool := m.a.plain || m.b.plain
/-- Cycles of look-ahead of a T16 instruction (R94). -/
def lookAhead (m : MmaWord) : Nat := if m.a.fmt = 3 && !isRef m then 128 else 0

/-- The offset of an array in a gang: 64 cycles and the link's for each array before it, and those of R94 and R95 (R107). -/
def cellStart (m : MmaWord) (g n : Nat) : Nat :=
  let q := cellPlace m g n
  let link := fun (i : Nat) => if m.gang = 2 then i + i / 2 else i
  if isRef m then 0
  else 64 * (q.1 + q.2) + link q.1 + link q.2 + (if staggered m then 64 else 0) + lookAhead m

/-- The passes that an array runs (R80, R110): in a pass split those of its number modulo 4. -/
def passesOn (m : MmaWord) (n : Nat) : List (Nat × Nat) :=
  let ps := passSet m.a.fmt (m.mode == 2)
  if m.gang = 3 then (List.range ps.length).filterMap fun q => if q % 4 = n then some (nth (0, 0) ps q) else none else ps

/-- What an array reads of an edge (R93-R96, R106, R110): lane panel `p` of it, where it feeds the edge. -/
def edgeFeed (m : MmaWord) (e : Edge) (isA : Bool) (p n : Nat) (on : Bool) : EdgeFeed :=
  let lead := (if e.plain then 64 else 0) + lookAhead m
  if isRef m then { on := false, pace := 0, words := 0, planes := [], exps := none, lead := 0 }
  else if isPanel m then
    let plane := fun (i : Nat) => e.base + (p * planesOf e.fmt + i) * e.pstride
    let ps := passesOn m n
    { on := on, pace := 0, words := if e.plain then m.k else m.k + 63,
      planes := (List.range ps.length).map fun q =>
        let ij := nth (0, 0) ps q
        plane (if isA then ij.1 else ij.2) :: (if q = 0 && n = (arraysUsed m).head?.getD 0 then [plane (panelN e.fmt)] else []),
      exps := none, lead := lead }
  else
    { on := on, pace := if tokenWidth e.fmt = 2 then 1 else if e.fmt = 1 && feedT m = m.k then (if e.plain then 1 else 2) else 0,
      words := edgeSpan e.fmt m.k e.plain / 64, planes := [[e.base + p * e.pstride]],
      exps := if isBlk e.fmt then some (e.aux + p * (m.k / mmaBlk m) * 64, m.k / mmaBlk m, feedT m / (m.k / mmaBlk m)) else none,
      lead := lead }

/-- Does an array feed an edge of the gang: those of the first column the A edge, those of the first row the B edge (R106)? -/
def feeds (m : MmaWord) (isA : Bool) (g n : Nat) : Bool :=
  let q := cellPlace m g n
  if isA then q.2 = 0 else q.1 = 0

/-- What an array of a gang reads of its A and B edges. -/
def cellEdges (m : MmaWord) (g n : Nat) : EdgeFeed × EdgeFeed :=
  let q := cellPlace m g n
  (edgeFeed m m.a true q.1 n (feeds m true g n), edgeFeed m m.b false q.2 n (feeds m false g n))

/-- The offset from the first read to the cycle after the last of an edge's words in one pass. -/
def readSpan (e : EdgeFeed) : Nat :=
  let w := if e.pace = 0 then e.words else if e.pace = 1 then 2 * e.words - 1 else 2 * e.words - 64
  match e.exps with
  | some (_, n, every) => max w ((n - 1) * every + 1)
  | none => w

/-- The cycle offset, from issue, after the last read of an edge (R107, R149). -/
def feedEnd (m : MmaWord) (isA : Bool) : Nat :=
  if isRef m then mmaSpan m
  else (gangCells m).foldl (fun z c =>
    if !feeds m isA c.1 c.2 then z
    else
      let e := if isA then (cellEdges m c.1 c.2).1 else (cellEdges m c.1 c.2).2
      max z (cellStart m c.1 c.2 - e.lead + ((passesOn m c.2).length - 1) * (if isPanel m then max m.k 128 else 0) + readSpan e)) 0

/-! ### Fences (R114-R116) -/

/-- Is an array's physical array busy with an instruction whose span is not over (R116)? -/
def physBusy (s : State) (t n : Nat) : Bool :=
  let x := tileAt s t
  (List.range 4).any fun k =>
    physOf x.fenced k = physOf x.fenced n &&
      (match (rd {} x.arrays k).lastCycle with
        | none => false
        | some c => decide (s.time.cycle < c + (rd {} x.arrays k).lastSpan))

/-! ### Checks (R129, R141) -/

/-- Is a pairing allowed in block mode (R66)? -/
def shortPair (a b : Nat) : Bool := (a < 2 && b < 2) || (a == 2 && b == 2) || (a == 3 && b == 3)

/-- Is an output format allowed (R67)? -/
def outFmtOk (m : MmaWord) : Bool :=
  if isPanel m || (isRef m && !shortOps m) then isBin m.cFmt else m.cFmt < 6

/-- The highest non-zero field of slot 3, for a cout instruction (R141). -/
def slot3Field (w : BitVec 246) : Option Nat :=
  ([(63, 46), (45, 28), (27, 12), (11, 8), (7, 7), (6, 6), (5, 5), (3, 0)].find? fun f => fld w f.1 f.2 ≠ 0).map (·.1)

/-- The lanes of a panel edge whose header is not that of the instruction (R96). -/
def badHeader (c : Context) (m : MmaWord) (e : Edge) (p : Nat) : Bool :=
  (List.range (min 64 (e.lanes - 64 * p))).any fun l =>
    let h := rdNat c.sp (e.aux + 512 * p + 8 * l) 8
    !h.testBit 63 || (h.testBit 62 != (e.fmt == 5)) || bitsN h 32 17 ≠ m.k

/-- Does an open chain continue (R73, R141)? -/
def chainFits (c : Chain) (p : Nat) (st : Stream) (m : MmaWord) : Bool :=
  c.owner = p && c.stream == st && c.afmt.toNat == m.a.fmt && c.bfmt.toNat == m.b.fmt && c.bs == m.bs && m.mode == 0

/-- The open chain on a program array. -/
def chainAt (s : State) (t n : Nat) : Option Chain := (rd {} (tileAt s t).arrays n).chain

/-- The largest M and N of a gang shape (R141). -/
def dimLimit (m : MmaWord) : Nat := if m.gang = 1 then 128 else if m.gang = 2 then 256 else 64

/-- May the instruction issue on the chain that stands open on an array: it continues it (R141, R142)? -/
def onChain (s : State) (t n p : Nat) (st : Stream) (m : MmaWord) : Bool :=
  match chainAt s t n with
  | some c => m.cin && chainFits c p st m
  | none => true

/-- The claims of an instruction on its tile's arrays, and in a 4 × 4 gang on the members', whose slot maps must reserve them in the phase
of the stream of the same name (R108, R141, R144; log 83). -/
def mmaClaims (s : State) (t : Nat) (st : Stream) (m : MmaWord) : List Check :=
  let p := ptileOf s t
  let own := (arraysUsed m).flatMap fun n =>
    -- a stream of a member tile whose arrays its phase keeps for the gang (R108)
    let e := phaseEntry s p (strm s t st).phase.toNat
    [ ckConf (e.getLsbD 15 && decide (p % 4 ≠ 0)) 5 n 3 (sinceIssue s t n) ] ++ claimCheck s t st n ++
    [ ckConf (!onChain s t n p st m) 6 n (match chainAt s t n with | some c => sc c.stream | none => 3) (sinceIssue s t n),
      ckConf (!(tileAt s t).fencedMode && physBusy s t n) 2 n
        (match holderOf s t n with | some h => sc h | none => 3) (sinceIssue s t n) ]
  let gang := if m.gang ≠ 2 then [] else
    [ ckConf (!(phaseEntry s p (strm s t st).phase.toNat).getLsbD 15) 0 0 3 0 ] ++
    [1, 2, 3].flatMap fun g => [0, 1, 2, 3].map fun n =>
      ckConf (!(phaseEntry s (p + g) (strm s (t + g) st).phase.toNat).getLsbD 15 || (holderOf s (t + g) n).isSome
        || (!(tileAt s t).fencedMode && physBusy s (t + g) n) || (tileAt s (t + g)).loaded != some (p + g)
        || !onChain s (t + g) n p st m) 5 n 3 (sinceIssue s (t + g) n)
  own ++ gang

/-- The checks of an `MMA` (R40, R43, R50, R66, R67, R75, R88, R96, R115, R129, R141, R456). -/
def mmaChecks (s : State) (i : Issue) (w : BitVec 246) : List Check :=
  let m := mmaWord w
  let t := i.tile.val
  let st := i.stream
  let x := tileAt s t
  let fm := fun (bad : Bool) (slot f : Nat) => ckFmt bad slot m.mode f
  let blockLike := m.mode = 0 ∨ (isRef m ∧ shortOps m)
  let ops := mmaOperands s t st m
  reservedChecks w [(244, 244), (243, 243), (242, 241), (240, 239), (238, 237), (236, 236), (235, 235), (234, 234),
    (233, 232), (231, 231), (230, 229), (228, 223), (222, 222), (221, 221), (220, 220), (216, 192), (191, 5), (3, 0)] ++
  [ ckRes (decide (m.round = 3)) 242,
    ckRes (decide (blockLike ∧ m.round = 2)) 242, ckRes (m.pair && decide (¬ blockLike ∧ m.round ≠ 0)) 242,
    ckRes (decide (14 ≤ m.a.fmt)) 135, ckRes (decide (14 ≤ m.b.fmt)) 71, ckRes (!m.cout && decide (14 ≤ m.cFmt)) 11,
    ckRes (bsReserved m.a.fmt m.bs || bsReserved m.b.fmt m.bs) 231, ckRes (!m.cout && bsReserved m.cFmt m.obs) 5,
    ckRes (decide (m.gang ≠ 0 ∧ m.array ≠ 0)) 233, ckRes (decide (m.gang = 2 ∧ ptileOf s t % 4 ≠ 0)) 240,
    ckRes (m.cout && (slot3Field w).isSome) ((slot3Field w).getD 63) ] ++
  ((gangCells m).map fun c =>
    ckAbsent (x.fencedMode && decide (m.gang ≠ 0) && (tileAt s (t + c.1)).fenced.getLsbD c.2) .array (4 * (t + c.1) + c.2)) ++
  [ -- a format that the mode does not have at all, then a B that does not go with A (R66)
    fm (if m.mode = 0 then !isShort m.a.fmt else if isPanel m then !isBin m.a.fmt else !(isShort m.a.fmt || isBin m.a.fmt)) 1 m.a.fmt,
    fm (!(if isBin m.a.fmt then m.a.fmt == m.b.fmt else shortPair m.a.fmt m.b.fmt)) 2 m.b.fmt,
    fm (bsMismatch m.a.fmt m.bs) 1 m.a.fmt, fm (bsMismatch m.b.fmt m.bs) 2 m.b.fmt,
    fm (!m.cout && !outFmtOk m) 3 m.cFmt, fm (!m.cout && bsMismatch m.cFmt m.obs) 3 m.cFmt,
    fm (!m.cout && m.gmark && isShort m.cFmt && decide (m.round ≠ 1)) 3 m.cFmt,
    fm ((m.cin || m.cout) && decide (m.mode ≠ 0)) 0 m.a.fmt,
    fm (decide (m.gang = 3) && !isPanel m) 0 m.a.fmt,
    fm (m.pair && (decide (m.mode = 0) || (isRef m && shortOps m) || decide (m.cFmt ≠ 5))) 3 m.cFmt,
    fm (m.emode && !isBlk m.cFmt) 3 m.cFmt, fm (decide (m.cAux ≠ 0) && !isBlk m.cFmt && !m.pair) 3 m.cFmt,
    fm (isRef m && isBin m.a.fmt && (!m.a.plain || decide (m.a.aux ≠ 0))) 1 m.a.fmt,
    fm (isRef m && isBin m.b.fmt && (!m.b.plain || decide (m.b.aux ≠ 0))) 2 m.b.fmt,
    fm (m.cin && !((gangCells m).all fun q =>
      match chainAt s (t + q.1) q.2 with | some c => chainFits c (ptileOf s t) st m | none => false)) 0 m.a.fmt ] ++
  [ ckAlign (decide ((m.mode = 0 ∨ (isRef m ∧ isBlk m.a.fmt)) ∧ m.k % mmaBlk m ≠ 0)) 0 m.k,
    ckAlign (!m.cout && isBlk m.cFmt && decide (m.b.lanes % outBlk m ≠ 0)) 2 m.b.lanes,
    ckAlign (isPanel m && decide (m.a.aux % 512 ≠ 0)) 1 m.a.aux,
    ckAlign (isPanel m && decide (m.b.aux % 512 ≠ 0)) 2 m.b.aux,
    ckRange (decide (dimLimit m < m.a.lanes)) 1 m.a.lanes, ckRange (decide (dimLimit m < m.b.lanes)) 2 m.b.lanes,
    ckRange (isPanel m && decide (65536 < m.k)) 0 m.k, ckRange (isRef m && decide (16777216 < m.k)) 0 m.k,
    ckRange (decide (fld w 230 229 = 2 ∧ 31 < fld w 228 223)) 0 (fld w 228 223) ] ++
  (if m.k = 0 then [] else
    [(1, m.a), (2, m.b)].flatMap fun e =>
      let span := (edgeRanges m e.2 0).head?.getD (0, 0)
      [ckRange ((isPanel m || decide (1 < panelsOf m)) && decide (e.2.pstride < span.2)) e.1 (e.2.pstride / 64)]) ++
  [ ckRange (!m.cout && decide (1 < m.a.lanes ∧ m.k ≠ 0 ∧ m.rstride < outBytes m.cFmt (partOf m 0).2.2)) 3 (m.rstride / 16) ] ++
  (ops.flatMap fun o => ckSp o.slot o.ranges) ++ mmaClaims s t st m ++ sealChecks s ops ++
  -- the headers are read once the operands are known to be in range and sealed (R96; log 82)
  (if isPanel m && m.k ≠ 0 then
    ((List.range (panelsOf m)).map fun p =>
      ⟨12, badHeader (ctxOf s (ptileOf s t + feederOf m true p)) m m.a p, 0x0A, fmtDetail 1 m.mode m.a.fmt⟩) ++
    ((List.range (panelsOf m)).map fun p =>
      ⟨12, badHeader (ctxOf s (ptileOf s t + feederOf m false p)) m m.b p, 0x0A, fmtDetail 2 m.mode m.b.fmt⟩) else [])

/-! ### Results -/

/-- The stored bits of element `k` of lane `l` of a lane panel (R42, R93, R95, R456). -/
def edgeElem (c : Context) (m : MmaWord) (e : Edge) (p l k : Nat) : Nat :=
  let b := e.base + p * e.pstride
  if isRef m && isBin e.fmt then rdNat c.sp (b + (64 * k + l) * (fmtWidth e.fmt / 8)) (fmtWidth e.fmt / 8)
  else
    let tw := tokenWidth e.fmt
    let off := fun q => if e.plain then plainOff tw q l else skewOff tw q l
    if e.fmt = 1 then bitsN (rdNat c.sp (b + off (k / 2)) 1) (4 * (k % 2)) 4 else rdNat c.sp (b + off k) tw

/-- The exponent byte of block `j` of a lane (R94). -/
def edgeExp (c : Context) (m : MmaWord) (e : Edge) (p l j : Nat) : Nat :=
  if isBlk e.fmt then rdNat c.sp (e.aux + p * (m.k / mmaBlk m) * 64 + 64 * j + l) 1 else 0

/-- A slice byte, or the class byte as slice n, of an element of a panel edge (R96). -/
def edgeSlice (c : Context) (e : Edge) (p l k i : Nat) : Nat :=
  rdNat c.sp (e.base + (p * planesOf e.fmt + i) * e.pstride + (if e.plain then plainOff 1 k l else skewOff 1 k l)) 1

/-- The panel exponent of a lane (R96). -/
def edgePanelExp (c : Context) (e : Edge) (p l : Nat) : Int := sext 12 (bitsN (rdNat c.sp (e.aux + 512 * p + 8 * l) 8) 0 12)

/-- The blocks of a lane: mantissas with their LSB exponent (R68). -/
def laneBlocks (c : Context) (m : MmaWord) (e : Edge) (lane : Nat) : List (List (Option Int) × Int) :=
  let p := lane / 64
  let l := lane % 64
  let b := mmaBlk m
  (List.range (m.k / b)).map fun j =>
    blockMant e.fmt ((List.range b).map fun q => edgeElem c m e p l (j * b + q)) (edgeExp c m e p l j)

/-- One cell's blocks folded (R70). -/
def foldCell (a0 : Acc) : List (List (Option Int) × Int) → List (List (Option Int) × Int) → Acc
  | a :: as, b :: bs =>
    let (p, z) := blockSum a.1 b.1
    foldCell (foldBlock a0 p (a.2 + b.2) z) as bs
  | _, _ => a0

/-- The element values of a lane in reference mode (R87). -/
def laneVals (c : Context) (m : MmaWord) (e : Edge) (lane : Nat) : List Val :=
  (List.range m.k).map fun k =>
    decVal e.fmt (edgeElem c m e (lane / 64) (lane % 64) k) (edgeExp c m e (lane / 64) (lane % 64) (k / mmaBlk m)) false

/-- The rows of a gang's contexts: the context that feeds a lane of an edge. -/
def laneCtx (s : State) (p : Nat) (m : MmaWord) (isA : Bool) (lane : Nat) : Context :=
  ctxOf s (p + feederOf m isA (lane / 64))

/-- The accumulators of one array after a block-mode instruction's folds, keyed 64 r + c (R70, R73): a chain's cells outside the output
keep what they hold. -/
def blockAccs (s : State) (p : Nat) (m : MmaWord) (g n : Nat) (start : Table Acc) : Table Acc :=
  let q := cellPlace m g n
  let rows := (List.range 64).filter fun r => 64 * q.1 + r < m.a.lanes
  let cols := (List.range 64).filter fun c => 64 * q.2 + c < m.b.lanes
  let as := rows.map fun r => laneBlocks (laneCtx s p m true (64 * q.1 + r)) m m.a (64 * q.1 + r)
  let bs := cols.map fun c => laneBlocks (laneCtx s p m false (64 * q.2 + c)) m m.b (64 * q.2 + c)
  rows.foldl (fun t r => cols.foldl (fun t c =>
    wr {} t (64 * r + c) (foldCell (rd {} start (64 * r + c)) (nth [] as r) (nth [] bs c))) t) start

/-- The accumulators that an instruction starts from on an array: the open chain's, or none (R73, R91). -/
def chainAccs (s : State) (t n : Nat) (m : MmaWord) : Table Acc :=
  match m.cin, chainAt s t n with
  | true, some c => (match rd (.block []) (rd {} (tileAt s t).arrays n).sets c.set.val with | .block a => a | .pass _ => [])
  | _, _ => []

/-- The accumulators of every array of a block-mode instruction. -/
def allAccs (s : State) (t p : Nat) (m : MmaWord) : List ((Nat × Nat) × Table Acc) :=
  (gangCells m).map fun q => (q, blockAccs s p m q.1 q.2 (chainAccs s (t + q.1) q.2 m))

/-- The accumulator of an output element. -/
def accOf (accs : List ((Nat × Nat) × Table Acc)) (m : MmaWord) (r c : Nat) : Acc :=
  let q := cellOf m r c
  rd {} (((accs.find? fun e => e.1 = q.1).map (·.2)).getD []) q.2

/-- The sums of one pass in an array's cells, keyed 64 r + c (R79, R91). -/
def passSums (s : State) (p : Nat) (m : MmaWord) (ij : Nat × Nat) : Table Int :=
  let n := panelN m.a.fmt
  (List.range m.a.lanes).foldl (fun t r => (List.range m.b.lanes).foldl (fun t c =>
    wr 0 t (64 * (r % 64) + c % 64) ((List.range m.k).foldl (fun z k =>
      z + sliceNum n ij.1 (edgeSlice (laneCtx s p m true r) m.a (r / 64) (r % 64) k ij.1)
        * sliceNum n ij.2 (edgeSlice (laneCtx s p m false c) m.b (c / 64) (c % 64) k ij.2)) 0)) t) []

/-- What an output element presents for rounding when its operands are short (R72, R87). -/
def shortCell (s : State) (p : Nat) (m : MmaWord) (accs : List ((Nat × Nat) × Table Acc)) (r c : Nat) : Val :=
  if isRef m then
    let a := laneVals (laneCtx s p m true r) m m.a r
    let b := laneVals (laneCtx s p m false c) m m.b c
    let (v, z) := refSum m.k (nth .poison a) (nth .poison b)
    if z then .poison else .fin v.1 v.2.1 v.2.2
  else drainVal (accOf accs m r c)

/-- One output element of panel mode, or of reference mode with binary operands (R82-R87). -/
def binaryCell (s : State) (p : Nat) (m : MmaWord) (rnd : Nat) (r c : Nat) : ERes × ERes :=
  let ca := laneCtx s p m true r
  let cb := laneCtx s p m false c
  let mode := rmodeOf m.round
  if isRef m then
    let ea := fun k => edgeElem ca m m.a (r / 64) (r % 64) k
    let eb := fun k => edgeElem cb m m.b (c / 64) (c % 64) k
    let cls := (List.range m.k).foldl (fun x k => clsStep x (classByte m.a.fmt (ea k)) (classByte m.b.fmt (eb k))) {}
    let (v, _) := refSum m.k (fun k => decBin m.a.fmt (ea k)) (fun k => decBin m.b.fmt (eb k))
    panelOut m.cFmt m.pair cls v.1 v.2.1 v.2.2 mode rnd
  else
    let n := panelN m.a.fmt
    let sa := fun k i => edgeSlice ca m.a (r / 64) (r % 64) k i
    let sb := fun k i => edgeSlice cb m.b (c / 64) (c % 64) k i
    let cls := (List.range m.k).foldl (fun x k => clsStep x (sa k n) (sb k n)) {}
    let t := compose m.a.fmt (m.mode == 2) m.k sa sb
    let e := edgePanelExp ca m.a (r / 64) (r % 64) + edgePanelExp cb m.b (c / 64) (c % 64) - 2 * panelT m.a.fmt
    match mkDy (decide (t < 0)) t.natAbs e with
    | .fin sg num den => panelOut m.cFmt m.pair cls sg num den mode rnd
    | _ => panelOut m.cFmt m.pair cls false 0 1 mode rnd

/-- The bytes that an instruction writes, as (member, address, byte), and what its rounding raises (R72, R140). -/
def mmaResult (s : State) (p : Nat) (m : MmaWord) (accs : List ((Nat × Nat) × Table Acc)) (rs : List Nat) :
    List (Nat × Nat × Byte) × Raised :=
  let mm := m.a.lanes
  let nn := m.b.lanes
  let w := fmtWidth m.cFmt
  let bytesAt := fun (g a : Nat) (bs : List Byte) => (List.range bs.length).map fun k => (g, a + k, nth 0 bs k)
  let member := fun (r c : Nat) => if m.gang = 2 then r / 128 * 2 + c / 128 else 0
  let lr := fun (r : Nat) => if m.gang = 2 then r % 128 else r
  let part := if m.gang = 2 then 128 else 256
  let emit := fun (r base : Nat) (es : List Nat) =>
    -- one output row, cut at the members' parts
    (List.range ((nn + part - 1) / part)).flatMap fun q =>
      bytesAt (member r (q * part)) (base + lr r * m.rstride) (packElems w (sub es (q * part) part))
  if isPanel m || (isRef m && !shortOps m) then
    let rows := (List.range mm).map fun r => (List.range nn).map fun c => binaryCell s p m (nth 0 rs (r * nn + c)) r c
    ((List.range mm).flatMap fun r =>
        emit r m.cBase ((nth [] rows r).map (·.1.bits)) ++
        (if m.pair then emit r m.cAux ((nth [] rows r).map (·.2.bits)) else []),
     raisedOf 32 (rows.flatten.flatMap fun e => if m.pair then [e.1, { e.2 with pin := false, pout := false }] else [e.1]))
  else
    let ob := outBlk m
    let rows := (List.range mm).map fun r =>
      let vs := (List.range nn).map fun c => shortCell s p m accs r c
      let given := if m.emode then
          some ((List.range (nn / ob)).map fun j =>
            rdNat (ctxOf s (p + member r (j * ob))).sp (m.cAux + 16 * lr r + (if m.gang = 2 then j % (128 / ob) else j)) 1)
        else none
      drainRow m.cFmt ob given (rmodeOf m.round) vs (sub rs (r * nn) nn)
    ((List.range mm).flatMap fun r =>
        emit r m.cBase ((nth ([], []) rows r).2.map (·.bits)) ++
        (List.range (nth ([], []) rows r).1.length).map fun j =>
          (member r (j * ob), m.cAux + 16 * lr r + (if m.gang = 2 then j % (128 / ob) else j),
           BitVec.ofNat 8 (nth 0 (nth ([], []) rows r).1 j)),
     raisedOf (if isBlk m.cFmt then ob else 32) (rows.flatMap (·.2)))

/-! ### Issue -/

/-- The bank words of an array's output rows, from row 63 on (R98, R99, R140). -/
def cellRows (m : MmaWord) (g n : Nat) : List (List Nat) :=
  let ((_, nr), (_, nc)) := partOf m g
  let q := if m.gang = 0 || m.gang = 3 then (0, 0) else (n / 2, n % 2)
  let c0 := 64 * q.2
  let w := min 64 (nc - c0)
  let put := if m.gang = 3 then n = 0 else true
  (List.range 64).map fun k =>
    let r := 64 * q.1 + (63 - k)
    if !put || nr ≤ r || w = 0 then []
    else
      let row := fun (b : Nat) => (b + r * m.rstride + outBytes m.cFmt c0, outBytes m.cFmt w)
      wordsOf ([row m.cBase] ++ (if m.pair then [row m.cAux] else []) ++
        (if isBlk m.cFmt then [(m.cAux + 16 * r + c0 / outBlk m, w / outBlk m)] else []))

/-- The set that an instruction starts with on an array: its chain's, or the next in turn (R91). -/
def startSet (s : State) (t n : Nat) (m : MmaWord) : Fin 2 :=
  match m.cin, chainAt s t n with
  | true, some c => c.set
  | _, _ => (rd {} (tileAt s t).arrays n).nextSet

/-- The flow of an instruction on one of its arrays (R98, R107, R110). -/
def cellFeed (s : State) (t p : Nat) (st : Stream) (m : MmaWord) (seq : BitVec 32) (g n : Nat) : Feed :=
  let e := cellEdges m g n
  { stream := st, seq := seq, owner := p, charge := if g = 0 then sc st else 0, start := s.time.cycle + cellStart m g n,
    len := if isPanel m then m.k else mmaSpan m, gap := if isPanel m then max m.k 128 else mmaSpan m,
    passes := if isPanel m then (passesOn m n).length else 1, set := startSet s (t + g) n m, cont := m.cin, out := !m.cout,
    a := e.1, b := e.2, rows := if m.cout then [] else cellRows m g n,
    lat := if isPanel m then (if m.gang = 3 then 10 else 6) else 2,
    next := if m.gang = 1 || m.gang = 2 then (if n % 2 = 0 then [n + 1] else []) ++ (if n < 2 then [n + 2] else []) else [] }

/-- What the accumulator sets of an array hold after an instruction: in block mode the set that it uses, in panel mode the sums of its
last two passes (R91). -/
def cellSets (s : State) (p : Nat) (m : MmaWord) (accs : Table Acc) (f : Feed) (n : Nat) (old : Table AccSet) : Table AccSet :=
  if m.mode = 0 then wr (.block []) old f.set.val (.block accs)
  else if isPanel m then
    let ps := passesOn m n
    [ps.length - 2, ps.length - 1].foldl (fun t q =>
      if q < ps.length then wr (.block []) t (setOf f q).val (.pass (passSums s p m (nth (0, 0) ps q))) else t) old
  else old

/-- The arrays of an instruction are taken: holder, last issue and span, its flow, its sets, and its chain if it leaves one open (R91, R100,
R108, R142, R144). -/
def takeArrays (s : State) (t p : Nat) (st : Stream) (m : MmaWord) (seq : BitVec 32) (accs : List ((Nat × Nat) × Table Acc))
    (first : List (Nat × Nat × Nat)) : State :=
  (gangCells m).foldl (fun s q =>
    let g := q.1
    let n := q.2
    let s := if g = 0 then takeHolder s t st n else s
    let f := cellFeed s t p st m seq g n
    let mine := ((accs.find? fun e => e.1 = q).map (·.2)).getD []
    let ch : Option Chain := if m.cout then
        some { stream := st, seq := seq, owner := p, afmt := BitVec.ofNat 4 m.a.fmt, bfmt := BitVec.ofNat 4 m.b.fmt, bs := m.bs,
               reads := first, set := f.set }
      else none
    let last := setOf f (f.passes - 1)
    modTile s (t + g) fun x =>
      { x with arrays := upd {} x.arrays n fun a =>
        let a := { a with lastCycle := some s.time.cycle, lastSpan := mmaSpan m,
                          chain := if m.mode = 0 then ch else a.chain,
                          nextSet := if m.cout then f.set else 1 - last }
        if m.k = 0 then
          -- an instruction of no product that ends a chain discards it (log 81)
          if m.cin && !m.cout then { setFree a f.set (some s.time.cycle) with sets := wr (.block []) a.sets f.set.val (.block []) } else a
        else { a with feeds := a.feeds ++ [f], sets := cellSets s p m mine f n a.sets } }) s

/-- The issue of an `MMA` whose checks have passed: the work item with its results, the chain, the claims and the
seals in flight (R53, R73, R91, R123, R140, R142). An instruction of no product is DONE at once; with cout it leaves a chain open all
the same, and without it ends one (R142; log 81). -/
def mmaIssue (i : Issue) (w : BitVec 246) (s : State) : State :=
  let m := mmaWord w
  let t := i.tile.val
  let st := i.stream
  let p := ptileOf s t
  let it := newItem s t st .array 0x080 w ⟨BitVec.ofNat 2 (fld w 230 229), BitVec.ofNat 6 (fld w 228 223)⟩
  let ops := mmaOperands s t st m
  let s := takeSeq s t st
  let reads := (ops.filter fun o => !o.producer).flatMap fun o => (pagesOf o.ranges).map fun g => (o.ptile, g, o.named)
  let first := match chainAt s t ((arraysUsed m).head?.getD 0) with | some c => if m.cin then c.reads else reads | none => reads
  if m.k = 0 then completeItem (takeArrays s t p st m it.seq [] first) t p it none 0
  else
    let accs := if m.mode = 0 then allAccs s t p m else []
    let n := m.a.lanes * m.b.lanes
    let mode := rmodeOf m.round
    let rs := if m.cout then [] else randoms s p it mode n
    let res := if m.cout then ([], {}) else mmaResult s p m accs rs
    let ecc := (ops.filter fun o => !o.producer).findSome? fun o =>
      o.ranges.findSome? fun r => spError (ctxOf s o.ptile) r.1 r.2
    let it := { it with
      due := s.time.cycle + mmaSpan m + (if m.cout then fillDrain m - 68 else fillDrain m),
      arrays := (arraysUsed m).map (physOf (tileAt s t).fenced), reads := reads ++ first,
      writes := res.1, raised := res.2, started := true, failed := ecc.map fun _ => 0x0D,
      fdetail := BitVec.ofNat 64 (ecc.getD 0) }
    let s := if !m.cout && mode = .sr && !m.pair then drawN s t st n else s
    let s := takeArrays s t p st m it.seq accs first
    let end_ := fun (isA : Bool) => some (s.time.cycle + feedEnd m isA)
    let s := register s p st it.seq (end_ true) (ops.filter fun o => o.slot = 1)
    let s := register s p st it.seq (end_ false) (ops.filter fun o => o.slot = 2)
    let s := register s p st it.seq none (ops.filter fun o => o.slot = 3)
    addItem s t it

/-- `MMA` (R139): in fenced mode it waits while its physical array is busy (R116). -/
def execMma (i : Issue) (w : BitVec 246) (s : State) : Res :=
  done s (issueWord s i (BitVec.ofNat 10 0x080 ++ w)
    (fun s => (arraysUsed (mmaWord w)).any fun n => physBusy s i.tile n)
    (fun s => mmaChecks s i w)
    fun s => modStrm (mmaIssue i w s) i.tile i.stream advance1)

/-! ### Completion -/

/-- May the firmware reissue an item (R115): apart, its operand pages not stamped anew, and a healthy array left? -/
def reissuable (s : State) (t : Nat) (it : Item) : Bool :=
  (mmaWord it.w).gang = 0 && (tileAt s t).fenced ≠ 0xF &&
    it.reads.all fun r => sealOf s r.1 r.2.1 = r.2.2

/-- Is an item in flight on a physical array of a member tile (R106, R114)? -/
def onPhys (g phys : Nat) (i : Item) : Bool :=
  i.kind == .array && (if g = 0 then i.arrays.contains phys else isGang4 i)

/-- A residue mismatch (R114): the drain completes with spoiled values, the array is fenced, every instruction in flight
on it fails, and the tile halts. The failed items wait for the firmware; an item that it will not reissue is a die
fault (R115). The detail names the program array, and the other instructions that fail take the faulting one's detail with bit 31 set (DESIGN
CHOICE, log 98). -/
def residueMismatch (s : State) (t : Nat) (it : Item) (g array column index : Nat) : State :=
  let p := ptileOf s t
  let m := mmaWord it.w
  let phys := physOf (tileAt s (t + g)).fenced array
  let d := bn (isPanel m) * 2 ^ 30 + array * 2 ^ 28 + column * 2 ^ 22 + index % 2 ^ 22
  let s := freeWrites s p it.writes
  let it := { it with failed := some 0x0E, fdetail := BitVec.ofNat 64 d }
  let s := modTile s (t + g) fun x =>
    { x with fenced := x.fenced ||| BitVec.ofNat 4 (2 ^ phys),
             phys := upd {} x.phys phys fun y => { y with residue := tallyAdd y.residue 1 } }
  let s := modTile (dropItem s t it.stream it.seq) t fun x =>
    { x with items := x.items.map fun i =>
               if onPhys g phys i && i.failed.isNone then { i with failed := some 0x0E, fdetail := BitVec.ofNat 64 (2 ^ 31 + d) } else i,
             reissue := x.reissue ++ [it] }
  haltTile s t it.stream it.addr 0x0E d (!reissuable s t it)

/-- Time moves on until an array item's flow is over; the buffers hold a result back for 4,096 cycles at most (R98, R105). -/
def toArrayDone : Nat → State → Nat → Stream → BitVec 32 → State
  | 0, s, _, _, _ => s
  | n + 1, s, t, st, seq =>
    match findItem s t st seq with
    | none => s
    | some it => match arrayDone s t it with
      | some c => toCycle s c
      | none => toArrayDone n (toCycle s (max (s.time.cycle + 1) it.due)) t st seq

/-- The completion of an array item with what its checks found (R98, R99, R111-R114, R142). -/
def completeArray (s : State) (t : Nat) (it : Item) (c : DrainCheck) : State :=
  match c with
  | .sound => finishArray s t it
  | .residue g a col idx =>
    -- the residue check does not run in reference mode (R111)
    if isRef (mmaWord it.w) || it.failed.isSome then finishArray s t it
    else residueMismatch s t it (if isGang4 it then g.val else 0) a.val col.val idx.toNat
  | .parity => if isCout it then finishArray s t it else failAtDrain s t it (2 ^ 28)
  | .operandEcc a => failAtDrain (noteSp s t a.toNat true) t it a.toNat
  | .operandCorrected a => finishArray (noteSp s t a.toNat false) t it

/-- An array item of the kind asked for that is over completes. -/
def arrayEvent (s : State) (t : Fin 64) (st : Stream) (seq : BitVec 32) (cout : Bool) (c : DrainCheck) : State :=
  match findItem s t st seq with
  | none => s
  | some it =>
    if it.kind == .array && isCout it == cout then
      let s := toArrayDone 4096 s t st seq
      if (arrayDone s t it).isSome then finishDrain (chainStop (completeArray s t it c) t) else s
    else s

/-- `MMA_COUT_COMPLETE` (R112, R142): time moves to the cycle in which the last cell folds its last block. -/
def execMmaCoutComplete (t : Fin 64) (st : Stream) (seq : BitVec 32) (c : DrainCheck) (s : State) : Res :=
  done s (arrayEvent s t st seq true c)

/-- `MMA_DRAIN_COMPLETE` (R98, R112-R114): time moves to the cycle after the last output row. -/
def execMmaDrainComplete (t : Fin 64) (st : Stream) (seq : BitVec 32) (c : DrainCheck) (s : State) : Res :=
  done s (arrayEvent s t st seq false c)

/-- An item put into a list in issue order (R114, R121). -/
def insIssue (i : Item) : List Item → List Item
  | [] => [i]
  | x :: t => if comesFirst i.issued i.stream x.issued x.stream then i :: x :: t else x :: insIssue i t

/-- One failed item after the drain: reissued in fenced mode it is done, else it keeps its FAILED record (R114, R115). -/
def reissueOne (s : State) (t : Nat) (it : Item) : State :=
  if reissuable s t it then finishArray s t { it with failed := none, fdetail := 0 }
  else completeItem s t (ptileOf s t) it (some 0x0E) it.fdetail

/-- `FENCED_REISSUE` (R114-R116): with the tile's ledger drained, the firmware puts the tile in fenced mode and reissues the failed items in issue
order, those that it may, and resumes the streams; if it may not reissue one, the streams stay halted and the die
reports a fault. -/
def execFencedReissue (t : Fin 64) (s : State) : Res :=
  let x := tileAt s t
  done s (if x.reissue.isEmpty || !x.items.isEmpty then s
    else
      let its := x.reissue.foldl (fun l i => insIssue i l) []
      let ok := its.all (fun it => reissuable s t it) && s.firm.state == .running
      let s := modTile s t fun y => { y with reissue := [], fencedMode := true }
      let s := its.foldl (fun s it => reissueOne s t it) s
      if ok then
        modCtx s t fun c =>
          let go := fun (y : StreamCtx) => if y.run == .halted then { y with run := .active } else y
          { c with f := go c.f, b := go c.b, u := go c.u }
      else finishDrain (dieFault s 0x01))

/-- The detail of a Withy overflow or drain timeout (R103, R105). -/
def edgeDetail (e : EdgeLane) (cycles : Nat) : Nat :=
  e.edge.val * 2 ^ 30 + e.array.val * 2 ^ 28 + e.member.val * 2 ^ 26 + e.lane.val * 2 ^ 20 + min cycles 0xFFFFF

/-- The failing array item of a halt in flight: the tile halts and the item is FAILED (R103, R105, R154). -/
def edgeFault (s : State) (t : Nat) (it : Item) (e : EdgeLane) (reason cycles : Nat) : State :=
  let d := edgeDetail e cycles
  let p := ptileOf s t
  let s := halt s t it.stream it.addr reason d
  finishDrain (completeItem s t p it (some (BitVec.ofNat 8 reason)) (BitVec.ofNat 64 d))

/-- The lane buffer that an item has made overflow, and the cycle (R103): every lane of an array waits alike, so the first is lane 0 of its A
edge, of its B edge if it feeds only that, or of its link in the gang. -/
def overflowOf (s : State) (t : Nat) (it : Item) : Option (EdgeLane × Nat) :=
  (clusterTiles t).findSome? fun g => (tileAt s g).arrays.findSome? fun e => match e.2.full with
    | some (st, seq, x) =>
      if st == it.stream && seq == it.seq then
        let edge := match e.2.feeds.find? fun f => f.stream == st && f.seq == seq with
          | some f => if f.a.on then 0 else if f.b.on then 1 else 3
          | none => 0
        some (({ edge := edge, array := Fin.ofNat 4 e.1, member := Fin.ofNat 4 (g - t), lane := 0 } : EdgeLane), x)
      else none
    | none => none

/-- `WITHY_OVERFLOW` (R103). -/
def execWithyOverflow (t : Fin 64) (st : Stream) (seq : BitVec 32) (s : State) : Res :=
  done s (match findItem s t st seq with
    | some it => match overflowOf s t it with
      | some (e, x) => edgeFault s t it e 0x07 (x - it.issued)
      | none => s
    | none => s)

/-- `DRAIN_TIMEOUT` (R105): the results that cannot be delivered stand at a drain column or at a link between ganged
arrays. -/
def execDrainTimeout (t : Fin 64) (st : Stream) (seq : BitVec 32) (at_ : EdgeLane) (s : State) : Res :=
  done s (match findItem s t st seq with
    | some it => if it.kind == .array && 2 ≤ at_.edge.val then edgeFault s t it at_ 0x08 (s.time.cycle - it.issued) else s
    | none => s)

end Sys2Proof.Machine
end

