-- ==== Sys2Proof/Machine/VectorWord.lean ====
section
/-! DEFINITION. Vector instructions before they start (R130, R131, R164-R176): fields, linear descriptors, checks, issue
and occupancy. -/

namespace Sys2Proof.Machine

/-- The control fields of a vector word (R172). -/
structure VWord where
  vd : Nat
  va : Nat
  vb : Nat
  vc : Nat
  fmt : Nat
  round : Nat
  uns : Bool
  vl : Nat
  imm : Nat
  s1 : Nat
  s2 : Nat
  s3 : Nat
  deriving DecidableEq, Repr

/-- The fields of a vector word (R172). -/
def vword (w : BitVec 246) : VWord :=
  { vd := fld w 244 240, va := fld w 239 235, vb := fld w 234 230, vc := fld w 229 225, fmt := fld w 224 221,
    round := fld w 220 219, uns := fbit w 218, vl := fld w 209 199, imm := fld w 198 192,
    s1 := fld w 191 128, s2 := fld w 127 64, s3 := fld w 63 0 }

/-- A linear descriptor (R130). -/
structure Lin where
  addr   : Nat
  count  : Nat
  stride : Int
  fmt    : Nat
  bs     : Bool
  gmark  : Bool
  rel    : Bool
  named  : Nat
  deriving DecidableEq, Repr

/-- A 64-bit slot read as a linear descriptor (R130). -/
def linOf (x : Nat) : Lin :=
  { addr := bitsN x 42 22, count := bitsN x 25 17, stride := sext 14 (bitsN x 11 14), fmt := bitsN x 7 4,
    bs := x.testBit 6, gmark := x.testBit 5, rel := x.testBit 4, named := x % 16 }

/-- Where the elements of an operand lie: runs of start and bytes (R130); stride 1 is one run. -/
def linRuns (d : Lin) : List (Int × Nat) :=
  let wb := fmtWidth d.fmt / 8
  if d.count = 0 then []
  else if d.stride = 1 then [((d.addr : Int), (d.count * fmtWidth d.fmt + 7) / 8)]
  else (List.range d.count).map fun (i : Nat) => ((d.addr : Int) + (i : Int) * d.stride * wb, wb)

/-- The byte ranges of an operand inside the scratchpad. -/
def linRanges (d : Lin) : List Range := (linRuns d).map fun r => (r.1.toNat, r.2)

/-- The range check of an operand: its first address outside the scratchpad (R130, R155). -/
def ckLin (slot : Nat) (d : Lin) : List Check :=
  (linRuns d).map fun r =>
    ckRange (decide (r.1 < 0 ∨ (spSize : Int) < r.1 + r.2)) slot (if r.1 < 0 then trunc 30 r.1 else max r.1.toNat spSize)

/-- The block size that a descriptor names. -/
def linBlk (d : Lin) : Nat := if d.bs then 16 else 32

/-- The lowest bit of a slot in the word (R127). -/
def slotLow (slot : Nat) : Nat := 64 * (3 - slot)

/-- The checks of one linear operand and of its exponent slot (R40, R43, R130, R131, R172). `mode` is the mode field of
the details; without blocks the exponent slot is unused. -/
def linChecks (slot mode : Nat) (d : Lin) (xraw : Nat) : List Check :=
  let x := linOf xraw
  let lo := slotLow slot
  let blk := isBlk d.fmt
  [ ckRes (decide (14 ≤ d.fmt)) (lo + 10), ckRes (bsReserved d.fmt d.bs) (lo + 6),
    ckRes (!blk && decide (xraw ≠ 0)) (slotLow (slot + 1) + 63),
    ckFmt (bsMismatch d.fmt d.bs) slot mode d.fmt,
    ckAlign (blk && decide (d.stride ≠ 1)) slot d.addr, ckAlign (blk && decide (d.count % linBlk d ≠ 0)) slot d.count ] ++
  ckLin slot d ++
  (if blk then
    [ ckRes (decide (14 ≤ x.fmt)) (slotLow (slot + 1) + 10), ckRes (bsReserved x.fmt x.bs) (slotLow (slot + 1) + 6),
      ckFmt (decide (x.fmt ≠ 6 ∨ x.stride ≠ 1)) (slot + 1) mode x.fmt,
      ckRange (decide (x.count ≠ d.count / linBlk d)) (slot + 1) x.count ] ++ ckLin (slot + 1) x
  else [])

/-- The scratchpad operands of one linear operand and its exponent array (R131, R133, R150). -/
def linOperands (p : Nat) (x : StreamCtx) (slot : Nat) (producer : Bool) (d : Lin) (xraw : Nat) : List Operand :=
  let e := linOf xraw
  let mk := fun (k : Nat) (l : Lin) =>
    ({ slot := k, ptile := p, ranges := linRanges l, producer := producer, named := effSeal x l.rel l.named } : Operand)
  if d.count = 0 then []
  else mk slot d :: (if isBlk d.fmt then [mk (slot + 1) e] else [])

/-! ### Rows of the opcode table (R172, R173) -/

/-- What a row uses and allows: its opcode and formats, the fields it uses, the classes of R168, and the used bits of its
slots. -/
structure VRow where
  op   : Nat
  fmts : List Nat
  vd   : Bool := true
  va   : Bool := true
  vb   : Bool := false
  vc   : Bool := false
  rnd  : Bool := false
  uns  : Bool := false
  vl   : Bool := true
  imm  : List (Nat × Nat) := []
  slots : List (Nat × Nat) := []
  /-- the memory slot of `VLD`, `VST`, `VCVTL` and `VCVTS`, and whether it is written -/
  mem  : Option (Nat × Bool) := none
  deriving DecidableEq, Repr

/-- The INT lane formats. -/
def intF : List Nat := [6, 7, 8, 9]
/-- T16, B16, binary32 and binary64. -/
def fpF : List Nat := [3, 2, 4, 5]
/-- T16, binary32 and binary64. -/
def fp3F : List Nat := [3, 4, 5]
/-- All lane formats. -/
def laneF : List Nat := intF ++ fpF

/-- Is the row a rounding instruction under SR (R178)? -/
def drawsSR (r : VRow) (v : VWord) : Bool := r.rnd && v.round == 1

/-- The source format of `VCVT` (R173). -/
def vcvtSrc (v : VWord) : Nat := v.imm % 16

/-- The memory descriptor and its exponent slot. -/
def memLin (r : VRow) (v : VWord) : Option (Nat × Bool × Lin × Nat) :=
  r.mem.map fun m => if m.1 = 1 then (1, m.2, linOf v.s1, v.s2) else (2, m.2, linOf v.s2, v.s3)

/-- The element count of an instruction: vl or its memory descriptor's count (R166). -/
def vCount (r : VRow) (v : VWord) : Nat := match memLin r v with | some m => m.2.2.1.count | none => v.vl

/-- The elements by which an instruction is counted as empty or not: a row without an element count always acts (R133,
R188). -/
def vElems (r : VRow) (v : VWord) : Nat := if r.vl || r.mem.isSome then vCount r v else 1

/-- The widest lane width that an instruction reads or writes (R166). -/
def laneWidth (r : VRow) (v : VWord) : Nat :=
  let w := fmtWidth v.fmt
  if r.op = 0x119 then 2 * w else if r.op = 0x104 then max w (fmtWidth (vcvtSrc v)) else w

/-- The widest lane or element width (R168). -/
def opWidth (r : VRow) (v : VWord) : Nat :=
  match memLin r v with | some m => max (laneWidth r v) (fmtWidth m.2.2.1.fmt) | none => laneWidth r v

/-- Datapath cycles of `n` elements of width `w`. -/
def cyclesOf (n w : Nat) : Nat := (n * w + 1023) / 1024

/-- Occupancy (R168). -/
def occupancy (r : VRow) (v : VWord) : Nat :=
  let n := vCount r v
  let base := max 1 (cyclesOf n (opWidth r v))
  if r.op = 0x172 ∨ r.op = 0x122 then 1
  else if r.op = 0x145 ∨ r.op = 0x146 then 8 * base
  else if 0x160 ≤ r.op ∧ r.op ≤ 0x163 then base + 4
  else match memLin r v with
    | some m => if m.2.2.1.stride = 1 then base else max (cyclesOf n (opWidth r v)) ((n + 15) / 16)
    | none => base

/-- The limit of a shift amount (R173, R177). -/
def shiftLimit (r : VRow) (v : VWord) : Option Nat :=
  let w := fmtWidth v.fmt
  if r.op = 0x115 then some (2 * w - 1)
  else if r.op = 0x116 ∨ r.op = 0x117 ∨ r.op = 0x118 then some (w - 1) else none

/-- Is a register named as a B16 operand (R165)? -/
def b16Regs (r : VRow) (v : VWord) : List Nat :=
  if r.op = 0x104 then (if v.fmt = 2 then [v.vd] else []) ++ (if vcvtSrc v = 2 then [v.va] else [])
  else if v.fmt ≠ 2 then []
  else
    let acc := 0x160 ≤ r.op
    (if r.vd && !acc then [v.vd] else []) ++ (if r.va then [v.va] else []) ++
      (if r.vb && r.op ≠ 0x103 then [v.vb] else []) ++ (if r.vc then [v.vc] else [])

/-- The fields of R172 that a row does not use must be zero. -/
def vUnused (r : VRow) (v : VWord) : List Check :=
  let blkDst := match memLin r v with | some m => isBlk m.2.2.1.fmt | none => false
  let given := r.op = 0x103 && blkDst && v.imm % 2 = 1
  [ ckRes (!r.vd && decide (v.vd ≠ 0)) 244, ckRes (!r.va && decide (v.va ≠ 0)) 239,
    ckRes (!(r.vb || given) && decide (v.vb ≠ 0)) 234, ckRes (!r.vc && decide (v.vc ≠ 0)) 229,
    ckRes (!r.rnd && decide (v.round ≠ 0)) 220, ckRes (v.uns && !(r.uns && isInt v.fmt)) 218,
    ckRes (!r.vl && decide (v.vl ≠ 0)) 209,
    ckRes (decide (r.op = 0x103) && !blkDst && decide (v.imm % 2 = 1)) 192 ]

/-- The used bits of the slots: those of the row, or the memory slot and its exponent slot. -/
def vSlots (r : VRow) : List (Nat × Nat) :=
  match r.mem with
  | some (1, _) => [(191, 128), (127, 64)]
  | some _ => [(127, 64), (63, 0)]
  | none => r.slots

/-- The claim and queue checks of a vector-queue instruction of `n` elements (R144, R145, R167): instructions queued or
on the datapath fill the queue. -/
def vecClaims (s : State) (t : Nat) (st : Stream) (n : Nat) : List Check :=
  let x := (tileAt s t).vec
  let h := match holderOf s t 4 with | some h => sc h | none => 3
  claimCheck s t st 4 ++
    [ckConf (decide (n ≠ 0 ∧ 4 ≤ x.queue.length + bn (decide (s.time.cycle < x.freeAt)))) 3 4 h (sinceIssue s t 4)]

/-- The scratchpad operands of a vector instruction. -/
def vOperands (s : State) (t : Nat) (st : Stream) (r : VRow) (v : VWord) : List Operand :=
  match memLin r v with
  | some m => linOperands (ptileOf s t) (strm s t st) m.1 m.2.1 m.2.2.1 m.2.2.2
  | none => []

/-- The checks that only some rows make (R174-R177, R183, R187, R188). -/
def vRowChecks (r : VRow) (v : VWord) : List Check :=
  let mem := memLin r v
  let mf := match mem with | some m => m.2.2.1.fmt | none => 0
  let slot := match mem with | some m => m.1 | none => 0
  let n := vCount r v
  let E := if v.fmt = 5 then 8 else 4
  (match mem with | some m => linChecks m.1 v.round m.2.2.1 m.2.2.2 | none => []) ++
  [ ckRes (decide (0x160 ≤ r.op ∧ r.op ≤ 0x162 ∧ (v.vd = v.va ∨ (r.op = 0x162 ∧ v.vd = v.vb)))) 244,
    ckRes (decide (r.op = 0x104 ∧ 14 ≤ vcvtSrc v)) 195,
    ckFmt (!r.fmts.contains v.fmt) 0 v.round v.fmt,
    ckFmt (decide ((r.op = 0x100 ∨ r.op = 0x101) ∧ mf ≠ v.fmt)) slot v.round mf,
    ckFmt (decide (r.op = 0x102) && !pairOk mf v.fmt) 1 v.round mf,
    ckFmt (decide (r.op = 0x103) && !pairOk v.fmt mf) 2 v.round mf,
    ckFmt (decide (r.op = 0x104) && !(fpF.contains (vcvtSrc v) && pairOk (vcvtSrc v) v.fmt)) 0 v.round (vcvtSrc v),
    ckFmt (match mem with
      | some m => decide (r.op = 0x103) && m.2.2.1.gmark && isShort mf && decide (v.round ≠ 1)
      | none => false) 2 v.round mf ] ++
  ((b16Regs r v).map fun k => ckAlign (decide (k % 2 = 1)) 0 k) ++
  [ ckAlign (!(b16Regs r v).isEmpty && decide (n % 16 ≠ 0)) slot n,
    ckRange (decide (8192 / laneWidth r v < n)) slot n,
    ckRange (match shiftLimit r v with | some l => decide (l < v.imm) | none => false) 0 v.imm,
    ckRange (decide (r.op = 0x171 ∧ (panelN v.fmt < v.imm % 16 ∨ E ≤ bitsN v.imm 4 3))) 0 v.imm,
    ckRange (decide (r.op = 0x172 ∧ (v.s2 % 2 ^ 17 = 0 ∨ 65536 < v.s2 % 2 ^ 17))) 2 (v.s2 % 2 ^ 17) ]

/-- The checks of a vector instruction (R40, R50, R129, R165-R167, R172-R177). -/
def vecChecks (r : VRow) (s : State) (i : Issue) (w : BitVec 246) : List Check :=
  let v := vword w
  reservedChecks w ([(244, 240), (239, 235), (234, 230), (229, 225), (224, 221), (220, 219), (218, 218), (217, 216),
      (215, 210), (209, 199)] ++ r.imm ++ vSlots r) ++
  vUnused r v ++
  [ ckRes (decide (14 ≤ v.fmt)) 224, ckRes (decide (v.round = 3)) 220 ] ++ vRowChecks r v ++
  [ ckRange (decide (fld w 217 216 = 2 ∧ 31 < fld w 215 210)) 0 (fld w 215 210) ] ++
  vecClaims s i.tile i.stream (vElems r v) ++ sealChecks s (vOperands s i.tile i.stream r v)

/-! ### Issue (R133, R167, R172) -/

/-- A vector-queue instruction of `n` elements enters the queue with the scalar it read at issue; `k` Nutmeg values are
drawn. With no element it is DONE at once (R167). -/
def vecIssue (s : State) (i : Issue) (op : Nat) (w : BitVec 246) (n k : Nat) (scalar : Word) (ops : List Operand) :
    State :=
  let t := i.tile.val
  let st := i.stream
  let p := ptileOf s t
  let it := { newItem s t st .vector op w ⟨BitVec.ofNat 2 (fld w 217 216), BitVec.ofNat 6 (fld w 215 210)⟩ with
    scalar := scalar }
  let s := takeHolder (takeSeq s t st) t st 4
  let s := modTile s t fun x => { x with vec := { x.vec with lastCycle := some s.time.cycle } }
  if n = 0 then completeItem s t p it none 0
  else
    let s := register (drawN s t st k) p st it.seq none ops
    let s := addItem s t it
    modTile s t fun x => { x with vec := { x.vec with queue := x.vec.queue ++ [it] } }

/-- The scalar that an instruction reads at issue (R170, R173, R182). -/
def vScalar (r : VRow) (v : VWord) (x : StreamCtx) : Word :=
  if r.op = 0x122 then (if v.s1.testBit 5 then BitVec.ofNat 64 v.s2 else sReg x (v.s1 % 32))
  else if r.op = 0x149 then (if v.s1.testBit 8 then sReg x (bitsN v.s1 9 5) else BitVec.ofNat 64 v.s1)
  else 0

/-- A vector instruction comes to issue. A row without an element count is never a no-op (R188). -/
def vecInstr (r : VRow) (i : Issue) (w : BitVec 246) (s : State) : Res :=
  done s (issueN s i r.op w (fun s => vecChecks r s i w) fun s =>
    let v := vword w
    let n := vElems r v
    vecIssue s i r.op w n (if drawsSR r v then n else 0) (vScalar r v (strm s i.tile i.stream))
      (vOperands s i.tile i.stream r v))

end Sys2Proof.Machine
end

