-- ==== Sys2Proof/Machine/VectorLanes.lean ====
section
/-! DEFINITION. Lane arithmetic of the vector unit: fixed point (R177), floating point (R180-R182), exact reductions
(R183-R185) and panel slicing (R186-R188). -/

namespace Sys2Proof.Machine

/-! ### Registers as lanes (R164) -/

/-- Lane `i` of a register at width `w`. -/
def laneOf (v : BitVec 8192) (w i : Nat) : Nat := (v.extractLsb' (w * i) w).toNat

/-- Lanes 0 to n − 1. -/
def lanesOf (v : BitVec 8192) (w n : Nat) : List Nat := (List.range n).map (laneOf v w)

/-- Lanes packed into a number, lane 0 lowest. -/
def packLanes (w : Nat) : List Nat → Nat
  | [] => 0
  | x :: xs => x % 2 ^ w + 2 ^ w * packLanes w xs

/-- The bits of a register from `low` on replaced by `n` bits of `x`. -/
def putBits (v : BitVec 8192) (low n x : Nat) : BitVec 8192 :=
  let y := v.toNat
  BitVec.ofNat 8192 (y % 2 ^ low + 2 ^ low * (x % 2 ^ n) + 2 ^ (low + n) * (y / 2 ^ (low + n)))

/-! ### Fixed point (R177) -/

/-- An INT lane's value. -/
def intVal (w : Nat) (uns : Bool) (x : Nat) : Int := if uns then x else sext w x

/-- sat of R177: the lane's bits, with fxsat when it saturates. -/
def satInt (w : Nat) (uns : Bool) (v : Int) : ERes :=
  let lo : Int := if uns then 0 else -(2 ^ (w - 1) : Nat)
  let hi : Int := if uns then (2 ^ w : Nat) - 1 else (2 ^ (w - 1) : Nat) - 1
  if v < lo then { bits := trunc w lo, ieee := { fxsat := true } }
  else if hi < v then { bits := trunc w hi, ieee := { fxsat := true } }
  else { bits := trunc w v }

/-- rsr of R177. -/
def rsr (v : Int) (sh : Nat) (mode : RMode) (r : Nat) : Int :=
  sgn (decide (v < 0)) (roundMag v.natAbs (2 ^ sh) mode r)

/-- A lane of all ones or zero. -/
def maskLane (w : Nat) (b : Bool) : Nat := if b then 2 ^ w - 1 else 0

/-- One result lane of a fixed-point, selecting or moving row from raw lanes (R173, R177). -/
def intLane (op w : Nat) (uns : Bool) (imm : Nat) (mode : RMode) (a b c r : Nat) : ERes :=
  let x := intVal w uns a
  let y := intVal w uns b
  match op with
  | 0x110 => { bits := trunc w (x + y) }
  | 0x111 => { bits := trunc w (x - y) }
  | 0x112 => satInt w uns (x + y)
  | 0x113 => satInt w uns (x - y)
  | 0x114 => { bits := trunc w (x * y) }
  | 0x115 => satInt w uns (rsr (x * y) imm mode r)
  | 0x116 => { bits := trunc w (rsr x imm mode r) }
  | 0x117 => satInt (w / 2) uns (rsr x imm mode r)
  | 0x118 => satInt w uns (x * (2 ^ imm : Nat))
  | 0x119 => { bits := trunc (2 * w) x }
  | 0x11A => { bits := if x ≤ y then a else b }
  | 0x11B => { bits := if x ≤ y then b else a }
  | 0x11C => { bits := a &&& b }
  | 0x11D => { bits := a ||| b }
  | 0x11E => { bits := a ^^^ b }
  | 0x11F => { bits := maskLane w (decide (x < y)) }
  | 0x120 => { bits := maskLane w (decide (x = y)) }
  | 0x121 => { bits := if c.testBit (w - 1) then a else b }
  | 0x124 => satInt w false (x.natAbs : Int)
  | 0x125 => satInt w false (-x)
  | _ => { bits := a }

/-! ### Floating point (R180-R182) -/

/-- A value with its sign turned. -/
def negVal : Val → Val
  | .fin s n d => .fin (!s) n d
  | .inf s => .inf (!s)
  | v => v

/-- The exact sum of two numbers; none for ∞ − ∞. The sign of a zero sum is that of both zeros, else positive (R180). -/
def addVal : Val → Val → Option Val
  | .inf s, .inf t => if s = t then some (.inf s) else none
  | .inf s, _ => some (.inf s)
  | _, .inf t => some (.inf t)
  | .fin s n d, .fin t m e =>
    let (g, k, h) := addFin (s, n, d) (t, m, e)
    some (if k = 0 then .fin (n == 0 && m == 0 && s && t) 0 1 else .fin g k h)
  | _, _ => none

/-- The exact product; none for 0 × ∞. -/
def mulVal : Val → Val → Option Val
  | .fin s n d, .fin t m e => some (.fin (s != t) (n * m) (d * e))
  | .inf s, .inf t => some (.inf (s != t))
  | .inf s, .fin t m _ => if m = 0 then none else some (.inf (s != t))
  | .fin s n _, .inf t => if n = 0 then none else some (.inf (s != t))
  | _, _ => none

/-- The exact quotient, none for 0 / 0 and ∞ / ∞, and whether a finite non-zero value is divided by zero. -/
def divVal : Val → Val → Option Val × Bool
  | .fin s n d, .fin t m e =>
    if m = 0 then (if n = 0 then (none, false) else (some (.inf (s != t)), true))
    else (some (.fin (s != t) (n * e) (d * m)), false)
  | .inf _, .inf _ => (none, false)
  | .inf s, .fin t _ _ => (some (.inf (s != t)), false)
  | .fin s _ _, .inf t => (some (.fin (s != t) 0 1), false)
  | _, _ => (none, false)

/-- The square root of `n / d`: exact, or short of it by a sticky half unit far below every rounding quantum. -/
def sqrtFin (n d : Nat) : Nat × Nat :=
  let k := 160 + Nat.log2 d
  let r := isqrt (n * 2 ^ (2 * k) / d)
  (2 * r + (if r * r * d = n * 2 ^ (2 * k) then 0 else 1), 2 ^ (k + 1))

/-- The square root; none for a value below zero. -/
def sqrtVal : Val → Option Val
  | .fin s n d => if n = 0 then some (.fin s 0 1) else if s then none else
    let p := sqrtFin n d
    some (.fin false p.1 p.2)
  | .inf s => if s then none else some (.inf false)
  | _ => none

/-- A value times `2 ^ k` (R182). -/
def scaleVal (k : Int) : Val → Val
  | .fin s n d => let p := pow2 k; .fin s (n * p.1) (d * p.2)
  | v => v

/-- The exact result of a row from its operands: none where the operation is invalid, and the divzero flag (R180). -/
def exactOp (op : Nat) (k : Int) (a b c : Val) : Option Val × Bool :=
  match op with
  | 0x140 => (addVal a b, false)
  | 0x141 => (addVal a (negVal b), false)
  | 0x142 => (mulVal a b, false)
  | 0x143 => ((mulVal a b).bind fun p => addVal p c, false)
  | 0x144 => ((mulVal a b).bind fun p => addVal (negVal p) c, false)
  | 0x145 => divVal a b
  | 0x146 => (sqrtVal a, false)
  | _ => (some (scaleVal k a), false)

/-- The operands that a row reads (R173). -/
def opArgs (op : Nat) (a b c : Val) : List Val :=
  if op = 0x143 ∨ op = 0x144 then [a, b, c] else if op = 0x146 ∨ op = 0x149 then [a] else [a, b]

/-- Is a value a non-poison NaN? -/
def isNanV : Val → Bool
  | .nan .. => true
  | _ => false

/-- Is a value a signalling NaN? -/
def isSnan : Val → Bool
  | .nan _ s _ => s
  | _ => false

/-- Is the first number the smaller, −0 being below +0 (R181)? -/
def leVal : Val → Val → Bool
  | .inf s, .inf t => s || !t
  | .inf s, _ => s
  | _, .inf t => !t
  | .fin s n d, .fin t m e =>
    if n = 0 && m = 0 then s || !t else decide (sgn s (n * e) ≤ sgn t (m * d))
  | _, _ => true

/-- `VFMIN` and `VFMAX` on binary lanes (R181): the operand pattern that is chosen. -/
def minMaxBin (f : Nat) (max : Bool) (xa xb : Nat) : ERes :=
  let a := decBin f xa
  let b := decBin f xb
  let inv : IeeeFlags := { invalid := isSnan a || isSnan b }
  if a = .poison ∨ b = .poison then { bits := poisonBits f }
  else if isNanV a && isNanV b then { bits := canonNan f, ieee := inv }
  else if isNanV a then { bits := xb, ieee := inv }
  else if isNanV b then { bits := xa, ieee := inv }
  else { bits := if leVal a b != max then xa else xb }

/-- One binary32 or binary64 result lane (R180, R182). -/
def binLane (op f : Nat) (k : Int) (mode : RMode) (a b c : Val) (r : Nat) : ERes :=
  let args := opArgs op a b c
  let snan := args.any isSnan
  if args.contains .poison then { bits := poisonBits f }
  else if args.any isNanV then
    let bad := (op == 0x143 || op == 0x144) && !isNanV a && !isNanV b && (mulVal a b).isNone
    { bits := canonNan f, ieee := { invalid := snan || bad } }
  else match exactOp op k a b c with
    | (none, _) => { bits := canonNan f, ieee := { invalid := true } }
    | (some (.inf s), dz) => { bits := binInf f s, ieee := { divzero := dz } }
    | (some (.fin s n d), _) => ieeeRound f s n d mode r
    | (some _, _) => { bits := canonNan f }

/-- One T16 result lane (R181). -/
def t16Lane (op : Nat) (k : Int) (mode : RMode) (a b c : Val) (r : Nat) : ERes :=
  if (opArgs op a b c).contains .poison then { bits := 0x8000, pin := true, pout := true }
  else match exactOp op k a b c with
    | (some (.inf _), true) =>
      let s := match a with | .fin s _ _ => s | _ => false
      { bits := if s then 0xFFFF else 0x7FFF, sat := true, ovf := true }
    | (some v, _) => toT16 v mode r
    | (none, _) => { bits := 0x8000, pout := true }

/-- `VFMIN` and `VFMAX` on T16 lanes (R181). -/
def minMaxT16 (max : Bool) (xa xb : Nat) : ERes :=
  let a := decT16 xa
  let b := decT16 xb
  if a = .poison ∨ b = .poison then { bits := 0x8000, pin := true, pout := true }
  else { bits := if leVal a b != max then xa else xb }

/-- The exact element of a B16 row (R182); a poison operand gives poison. -/
def b16Elem (op : Nat) (k : Int) (a b c : Val) : Val :=
  if (opArgs op a b c).contains .poison then .poison else ((exactOp op k a b c).1).getD .poison

/-- The result elements of a floating-point row, with the exponents of B16 blocks (R180-R182). `raw` are the lanes of
va and vb. -/
def floatLanes (op f : Nat) (k : Int) (mode : RMode) (a b c : List Val) (ra rb rs : List Nat) : List Nat × List ERes :=
  let n := a.length
  let at_ := fun (l : List Val) (i : Nat) => nth (.fin false 0 1) l i
  if f = 2 then
    let vs := (List.range n).map fun i => b16Elem op k (at_ a i) (at_ b i) (at_ c i)
    let r := convAll 2 2 16 (fun _ => none) mode vs rs
    (r.1, r.2)
  else
    ([], (List.range n).map fun i =>
      let r := nth 0 rs i
      if op = 0x147 ∨ op = 0x148 then
        (if f = 3 then minMaxT16 else minMaxBin f) (op = 0x148) (nth 0 ra i) (nth 0 rb i)
      else if f = 3 then t16Lane op k mode (at_ a i) (at_ b i) (at_ c i) r
      else binLane op f k mode (at_ a i) (at_ b i) (at_ c i) r)

/-! ### Exact reductions (R183, R185) -/

/-- An accumulator with its four flags (R183). -/
structure RAcc where
  acc    : Int
  poison : Bool
  nonfin : Bool
  sat    : Bool
  trunc  : Bool
  deriving DecidableEq, Repr

/-- The accumulator in lanes 0 to 2 of a register. -/
def racc (v : BitVec 8192) : RAcc :=
  let l := laneOf v 64 2
  { acc := sext 128 (laneOf v 128 0), poison := l.testBit 3, nonfin := l.testBit 2, sat := l.testBit 1, trunc := l.testBit 0 }

/-- The 192 bits of lanes 0 to 2. -/
def raccBits (a : RAcc) : Nat :=
  trunc 128 a.acc + 2 ^ 128 * (8 * bn a.poison + 4 * bn a.nonfin + 2 * bn a.sat + bn a.trunc)

/-- The contribution of one lane (R183). -/
def contribution (op : Nat) (x y : Val) : Option Val :=
  match op with
  | 0x160 => some x
  | 0x161 => mulVal x x
  | _ => mulVal x y

/-- Is a value infinite or a non-poison NaN? -/
def isNonfin : Val → Bool
  | .inf _ => true
  | .nan .. => true
  | _ => false

/-- The running total over the lanes (R183). -/
def reduceLanes (op : Nat) (lsb : Int) : List Val → List Val → RAcc → RAcc
  | x :: xs, y :: ys, t =>
    let dot := op == 0x162
    if x = .poison ∨ (dot ∧ y = .poison) then reduceLanes op lsb xs ys { t with poison := true }
    else if isNonfin x || (dot && isNonfin y) then reduceLanes op lsb xs ys { t with nonfin := true }
    else match contribution op x y with
      | some (.fin s n d) =>
        let p := pow2 lsb
        let den := d * p.1
        let num := sgn s (n * p.2)
        reduceLanes op lsb xs ys { t with acc := t.acc + num / (den : Int), trunc := t.trunc || decide (num % (den : Int) ≠ 0) }
      | _ => reduceLanes op lsb xs ys t
  | _, _, t => t

/-- reduce of R183. -/
def reduceAcc (op : Nat) (lsb : Int) (xs ys : List Val) (a : RAcc) : RAcc :=
  let t := reduceLanes op lsb xs ys { a with acc := 0 }
  if a.sat then { t with acc := a.acc }
  else
    let s := a.acc + t.acc
    if (2 ^ 127 : Int) - 1 < s then { t with acc := 2 ^ 127 - 1, sat := true }
    else if s < -(2 ^ 127) then { t with acc := -(2 ^ 127), sat := true }
    else { t with acc := s }

/-- A magnitude with its order key: infinities above all. -/
def magKey (v : Val) : Option (Bool × Nat × Nat) :=
  match v with
  | .fin _ n d => some (false, n, d)
  | .inf _ => some (true, 0, 1)
  | _ => none

/-- Is a magnitude below another? -/
def magLt (a b : Bool × Nat × Nat) : Bool := (!a.1 && b.1) || (!a.1 && !b.1 && decide (a.2.1 * b.2.2 < b.2.1 * a.2.2))

/-- The new lane 0 of `VRAMAX` on float lanes (R185): `cur` is the old one. -/
def ramaxFloat (f cur : Nat) (xs : List Nat) : Nat :=
  let dec := fun (x : Nat) => if f = 3 then decT16 x else decBin f x
  if (cur :: xs).any fun x => dec x = .poison then poisonBits f
  else
    let best := (cur :: xs).foldl (fun (m : Option (Nat × Bool × Nat × Nat)) x =>
      match magKey (dec x) with
      | none => m
      | some k => match m with
        | none => some (x % 2 ^ (fmtWidth f - 1), k)
        | some b => if magLt b.2 k then some (x % 2 ^ (fmtWidth f - 1), k) else m) none
    match best with | some b => b.1 | none => cur

/-- The magnitude of an INT lane (R185). -/
def intMag (w : Nat) (uns : Bool) (x : Nat) : ERes :=
  if uns then { bits := x } else satInt w false ((sext w x).natAbs : Int)

/-- The new lane 0 of `VRAMAX` on INT lanes (R185). -/
def ramaxInt (w : Nat) (uns : Bool) (cur : Nat) (xs : List Nat) : ERes :=
  ((cur :: xs).map (intMag w uns)).foldl (fun m e =>
    { bits := max m.bits e.bits, ieee := ieeeOr m.ieee e.ieee }) { bits := 0 }

/-! ### Panel slicing (R186-R188) -/

/-- The panel exponent that lane 0 of vb gives (R187). -/
def laneEp (x : Nat) : Int := if x.testBit 63 then 0 else sext 12 (x % 4096)

/-- The exponent of a finite non-zero element (R186). -/
def elemExp : Val → Option Int
  | .fin _ n d => if n = 0 then none else some (log2F n d)
  | _ => none

/-- The new lane 0 of `VPEXP` (R186). -/
def pexpLane (cur : Nat) (xs : List Val) : Nat :=
  let start : Option Int := if cur.testBit 63 then none else some (sext 12 (cur % 4096))
  let m := xs.foldl (fun (m : Option Int) x => match elemExp x with
    | none => m
    | some e => some (match m with | some b => max b e | none => e)) start
  match m with | some e => trunc 12 e | none => cur

/-- The byte that `VPSLICE` cuts from an element (R187, R76-R78, R97). -/
def sliceOf (f plane : Nat) (ep : Int) (x : Nat) : Nat :=
  if plane = panelN f then classByte f x else sliceByte (panelAlign f (decBin f x) ep) plane

/-- The first element that cannot align (R187). -/
def misfit (f : Nat) (ep : Int) (xs : List Nat) : Option Nat :=
  (List.range xs.length).find? fun i => match elemExp (decBin f (nth 0 xs i)) with
    | some e => decide (ep < e)
    | none => false

/-- The header word of `VPHDR` (R96, R188). -/
def headerWord (f k ep : Nat) : Nat := 2 ^ 63 + bn (f == 5) * 2 ^ 62 + k % 2 ^ 17 * 2 ^ 32 + trunc 12 (laneEp ep)

end Sys2Proof.Machine
end

