-- ==== Sys2Proof/Machine/VectorUnit.lean ====
section
/-! DEFINITION. The results of vector instructions and what every start and completion on the vector unit shares
(R164-R171, R189-R191). -/

namespace Sys2Proof.Machine

/-- What an instruction does when it starts: register pieces as (register, low bit, bits, value), scratchpad pieces, what
it raises, and its failure as reason and detail (R187). -/
structure VOut where
  regs   : List (Nat × Nat × Nat × Nat) := []
  bytes  : List (Nat × List Byte) := []
  raised : Raised := {}
  fail   : Option (Nat × Nat) := none
  deriving DecidableEq, Repr

/-- A vector register. -/
def vReg (c : Context) (n : Nat) : BitVec 8192 := rd 0 c.v n

/-- Byte `j` of the exponent register of a B16 pair (R165). -/
def pairExp (c : Context) (n j : Nat) : Nat := laneOf (vReg c (n + 1)) 8 j

/-- The values of lanes 0 to n − 1 of a register in a lane format (R164, R165). -/
def laneVals8 (c : Context) (reg f n : Nat) (uns : Bool) : List Val :=
  let v := vReg c reg
  (List.range n).map fun i => decVal f (laneOf v (fmtWidth f) i) (if f = 2 then pairExp c reg (i / 16) else 0) uns

/-- Lanes of width `w` written to a register from lane 0. -/
def putLanes (reg w : Nat) (xs : List Nat) : Nat × Nat × Nat × Nat := (reg, 0, w * xs.length, packLanes w xs)

/-- The exponent bytes written for the blocks of a B16 result (R165). -/
def putExps (reg : Nat) (es : List Nat) : List (Nat × Nat × Nat × Nat) :=
  if es.isEmpty then [] else [putLanes (reg + 1) 8 es]

/-- The bytes of element `i` of a stored operand. -/
def linElem (c : Context) (d : Lin) (i : Nat) : Nat :=
  let w := fmtWidth d.fmt
  if w = 4 then bitsN (rdNat c.sp (d.addr + i / 2) 1) (4 * (i % 2)) 4
  else rdNat c.sp ((d.addr : Int) + i * d.stride * (w / 8)).toNat (w / 8)

/-- The elements of a stored operand. -/
def linElems (c : Context) (d : Lin) : List Nat := (List.range d.count).map (linElem c d)

/-- The pieces that write elements to a stored operand, in element order. -/
def putElems (d : Lin) (xs : List Nat) : List (Nat × List Byte) :=
  let w := fmtWidth d.fmt
  if d.stride = 1 then [(d.addr, packElems w xs)]
  else (List.range xs.length).map fun (i : Nat) => (((d.addr : Int) + (i : Int) * d.stride * (w / 8)).toNat, natLe (w / 8) (nth 0 xs i))

/-- The exponent bytes of a stored operand written. -/
def putExpBytes (x : Lin) (es : List Nat) : List (Nat × List Byte) :=
  if es.isEmpty then [] else [(x.addr, es.map (BitVec.ofNat 8))]

/-- The values of a stored operand with its exponent array (R42, R130, R131). -/
def linVals (c : Context) (d : Lin) (x : Lin) : List Val :=
  (List.range d.count).map fun i =>
    decVal d.fmt (linElem c d i) (if isBlk d.fmt then rdNat c.sp (x.addr + i / linBlk d) 1 else 0) false

/-- Loads, stores and conversions (R165, R174-R176). -/
def memRun (op : Nat) (v : VWord) (c : Context) (rs : List Nat) : VOut :=
  let mode := rmodeOf v.round
  let w := fmtWidth v.fmt
  match op with
  | 0x100 =>
    let d := linOf v.s1
    { regs := putLanes v.vd w (linElems c d) ::
        (if v.fmt = 2 then putExps v.vd ((rdBytes c.sp (linOf v.s2).addr (d.count / 16)).map (·.toNat)) else []) }
  | 0x101 =>
    let d := linOf v.s2
    { bytes := putElems d (lanesOf (vReg c v.va) w d.count) ++
        (if v.fmt = 2 then putExpBytes (linOf v.s3) ((List.range (d.count / 16)).map (pairExp c v.va)) else []) }
  | 0x102 =>
    let d := linOf v.s1
    let r := convAll d.fmt v.fmt 16 (fun _ => none) mode (linVals c d (linOf v.s2)) rs
    { regs := putLanes v.vd w (r.2.map (·.bits)) :: putExps v.vd r.1, raised := raisedOf (if v.fmt = 2 then 16 else 32) r.2 }
  | 0x103 =>
    let d := linOf v.s2
    let given := fun (j : Nat) => if v.imm % 2 = 1 then some (laneOf (vReg c v.vb) 8 j) else none
    let r := convAll v.fmt d.fmt (linBlk d) given mode (laneVals8 c v.va v.fmt d.count false) rs
    { bytes := putElems d (r.2.map (·.bits)) ++ putExpBytes (linOf v.s3) r.1,
      raised := raisedOf (if isBlk d.fmt then linBlk d else 32) r.2 }
  | _ =>
    let r := convAll (vcvtSrc v) v.fmt 16 (fun _ => none) mode (laneVals8 c v.va (vcvtSrc v) v.vl false) rs
    { regs := putLanes v.vd w (r.2.map (·.bits)) :: putExps v.vd r.1, raised := raisedOf (if v.fmt = 2 then 16 else 32) r.2 }

/-- Fixed-point, logical, selecting and moving rows (R165, R173, R177). -/
def intRun (op : Nat) (v : VWord) (c : Context) (rs : List Nat) : VOut :=
  let w := fmtWidth v.fmt
  let ow := if op = 0x117 then w / 2 else if op = 0x119 then 2 * w else w
  let a := vReg c v.va
  let b := vReg c v.vb
  let m := vReg c v.vc
  let es := (List.range v.vl).map fun i =>
    intLane op w v.uns v.imm (rmodeOf v.round) (laneOf a w i) (laneOf b w i) (laneOf m w i) (nth 0 rs i)
  { regs := putLanes v.vd ow (es.map (·.bits)) ::
      (if v.fmt = 2 then putExps v.vd ((List.range (v.vl / 16)).map (pairExp c v.va)) else []),
    raised := raisedOf 32 es }

/-- Floating-point rows (R180-R182): `scalar` holds the exponent of `VFSCALE`. -/
def floatRun (op : Nat) (v : VWord) (c : Context) (scalar : Word) (rs : List Nat) : VOut :=
  let w := fmtWidth v.fmt
  let vals := fun (r : Nat) => laneVals8 c r v.fmt v.vl false
  let k := sext 8 (scalar.toNat % 256)
  let r := floatLanes op v.fmt k (rmodeOf v.round) (vals v.va) (vals v.vb) (vals v.vc) (lanesOf (vReg c v.va) w v.vl)
    (lanesOf (vReg c v.vb) w v.vl) rs
  { regs := putLanes v.vd w (r.2.map (·.bits)) :: putExps v.vd r.1, raised := raisedOf (if v.fmt = 2 then 16 else 32) r.2 }

/-- Exact reductions and the running magnitude (R183-R185). -/
def reduceRun (op : Nat) (v : VWord) (c : Context) : VOut :=
  let w := fmtWidth v.fmt
  if op = 0x163 then
    let cur := laneOf (vReg c v.vd) w 0
    let xs := lanesOf (vReg c v.va) w v.vl
    if isInt v.fmt then
      let e := ramaxInt w v.uns cur xs
      { regs := [(v.vd, 0, w, e.bits)], raised := raisedOf 32 [e] }
    else { regs := [(v.vd, 0, w, ramaxFloat v.fmt cur xs)] }
  else
    let xs := laneVals8 c v.va v.fmt v.vl v.uns
    let ys := if op = 0x162 then laneVals8 c v.vb v.fmt v.vl v.uns else xs
    { regs := [(v.vd, 0, 192, raccBits (reduceAcc op (sext 12 (v.s1 % 4096)) xs ys (racc (vReg c v.vd))))] }

/-- Panel rows (R186-R188). -/
def panelRun (op : Nat) (v : VWord) (c : Context) : VOut :=
  let w := fmtWidth v.fmt
  let xs := lanesOf (vReg c v.va) w v.vl
  match op with
  | 0x170 => { regs := [(v.vd, 0, 64, pexpLane (laneOf (vReg c v.vd) 64 0) (xs.map (decBin v.fmt)))] }
  | 0x171 =>
    let ep := laneEp (laneOf (vReg c v.vb) 64 0)
    let E := if v.fmt = 5 then 128 else 256
    { regs := [(v.vd, 8 * (bitsN v.imm 4 3 * E), 8 * v.vl, packLanes 8 (xs.map (sliceOf v.fmt (v.imm % 16) ep)))],
      fail := (misfit v.fmt ep xs).map fun i => (0x03, slotDetail 1 i) }
  | _ => { regs := [(v.vd, 64 * (v.s1 % 64), 64, headerWord v.fmt (v.s2 % 2 ^ 17) (laneOf (vReg c v.vb) 64 0))] }

/-- The result of a vector instruction (R173). -/
def vectorRun (op : Nat) (v : VWord) (c : Context) (scalar : Word) (rs : List Nat) : VOut :=
  if op < 0x110 then memRun op v c rs
  else if op = 0x122 then { regs := [putLanes v.vd (fmtWidth v.fmt) (List.replicate v.vl scalar.toNat)] }
  else if op < 0x140 then intRun op v c rs
  else if op < 0x160 then floatRun op v c scalar rs
  else if op < 0x170 then reduceRun op v c
  else panelRun op v c

/-! ### Writing results -/

/-- One register piece written; a 64-bit word written whole loses its error mark (R191). -/
def putPiece (c : Context) (q : Nat × Nat × Nat × Nat) : Context :=
  { c with v := wr 0 c.v q.1 (putBits (vReg c q.1) q.2.1 q.2.2.1 q.2.2.2),
           vBad := c.vBad.filter fun k => !(k / 128 = q.1 && q.2.1 ≤ 64 * (k % 128) && 64 * (k % 128) + 64 ≤ q.2.1 + q.2.2.1) }

/-- Register pieces written to a tile's context. -/
def putPieces (s : State) (t : Nat) (ps : List (Nat × Nat × Nat × Nat)) : State :=
  modCtx s t fun c => ps.foldl putPiece c

/-- The register pieces of a failed instruction: free values (log 13). -/
def freePieces (s : State) (t : Nat) (ps : List (Nat × Nat × Nat × Nat)) : State :=
  ps.foldl (fun s q =>
    let n := (q.2.2.1 + 63) / 64
    let x := packLanes 64 ((List.range n).map fun k => (Config.freeValue (s.free + k)).toNat)
    { putPieces s t [(q.1, q.2.1, q.2.2.1, x)] with free := s.free + n }) s

/-- The bits that an instruction reads of each register, from bit 0 on (R165, R177, R183-R188, R191): the lanes of its operands, the exponent
bytes of B16 pairs, and of the panel and accumulator registers what they hold. -/
def readRegs (op : Nat) (v : VWord) : List (Nat × Nat) :=
  let lanes := fun (r f : Nat) => (r, v.vl * fmtWidth f)
  let exps := fun (r f : Nat) => if f = 2 then [(r + 1, v.vl / 16 * 8)] else []
  let full := fun (r : Nat) => lanes r v.fmt :: exps r v.fmt
  let three := op = 0x143 ∨ op = 0x144
  let two := three ∨ (0x110 ≤ op ∧ op ≤ 0x115) ∨ (0x11A ≤ op ∧ op ≤ 0x120) ∨ (0x140 ≤ op ∧ op ≤ 0x145) ∨
    op = 0x147 ∨ op = 0x148 ∨ op = 0x162
  let n := (linOf v.s2).count
  if op = 0x100 ∨ op = 0x102 ∨ op = 0x122 then []
  else if op = 0x101 ∨ op = 0x103 then
    (v.va, n * fmtWidth v.fmt) :: (if v.fmt = 2 then [(v.va + 1, n / 16 * 8)] else []) ++
      (if op = 0x103 ∧ v.imm % 2 = 1 then [(v.vb, 8 * (n / linBlk (linOf v.s2)))] else [])
  else if op = 0x104 then lanes v.va (vcvtSrc v) :: exps v.va (vcvtSrc v)
  else if op = 0x121 then full v.va ++ [lanes v.vb v.fmt, lanes v.vc v.fmt]
  else if op = 0x170 then [lanes v.va v.fmt, (v.vd, 64)]
  else if op = 0x171 then [lanes v.va v.fmt, (v.vb, 64)]
  else if op = 0x172 then [(v.vb, 64)]
  else full v.va ++ (if two then full v.vb else []) ++ (if three then full v.vc else []) ++
    (if op = 0x163 then [(v.vd, fmtWidth v.fmt)] else if 0x160 ≤ op ∧ op ≤ 0x162 then [(v.vd, 192)] else [])

/-- Does an instruction that reads these bits read a 64-bit word of a register? -/
def readsWord (regs : List (Nat × Nat)) (k : Nat) : Bool := regs.any fun r => r.1 = k / 128 && 64 * (k % 128) < r.2

/-! ### Start and completion (R168-R171) -/

/-- What a fault met at the start fails: the reason and detail of an uncorrectable error in a register or scratchpad word
that the instruction reads (R155, R191, R225). -/
def vecFault (c : Context) (e : VectorFault) (regs : List (Nat × Nat)) (reads : List Range) : Option (Nat × Nat) :=
  let bad := c.vBad.any (readsWord regs)
  let hit := match e with | .regDouble v k => readsWord regs (128 * v.val + k.val) | _ => false
  if bad || hit then some (0x0D, 2 * 2 ^ 28)
  else match (match e with | .spDouble a => (if reads.any fun r => r.1 ≤ a.toNat && a.toNat < r.1 + r.2 then some a.toNat else none)
                           | _ => none) with
    | some a => some (0x0D, a)
    | none => (reads.findSome? fun r => spError c r.1 r.2).map fun a => (0x0D, a)

/-- The tallies of an error that a start meets, reported with it or marked in the scratchpad (R190, R227). -/
def noteVecFault (s : State) (t : Nat) (e : VectorFault) (fail : Option (Nat × Nat)) : State :=
  match e with
  | .clean =>
    match fail with
    | some f => if f.1 = 0x0D ∧ f.2 < 2 ^ 28 then noteSp s t f.2 true else s
    | none => s
  | .regCorrected n => modTile s t fun x => { x with vec := { x.vec with ecc := tallyAdd x.vec.ecc n } }
  | .regDouble v k => modCtx s t fun c => { c with vBad := insNat (128 * v.val + k.val) c.vBad }
  | .spCorrected a => noteSp s t a.toNat false
  | .spDouble a => noteSp s t a.toNat true

/-- The head of the queue starts: `occ` datapath cycles with the lost ones (R168), its completion `tail` cycles after the
cycle that follows them (R169, R196), its results by R170, its reads over with the occupancy (R149), its scratchpad accesses `acc` from its
first cycle on (R222). -/
def startItem (s : State) (t : Nat) (it : Item) (lost occ tail : Nat) (acc : List (List Nat)) (o : VOut) (fail : Option (Nat × Nat)) : State :=
  let p := ptileOf s t
  let x := (tileAt s t).vec
  let start := max it.issued x.freeAt
  let stop := start + occ + lost
  let f := match fail with | some f => some f | none => o.fail
  let it := { it with started := true, due := stop + tail, raised := o.raised,
                      failed := f.map fun q => BitVec.ofNat 8 q.1, fdetail := BitVec.ofNat 64 ((f.map (·.2)).getD 0),
                      writes := o.bytes.flatMap fun q => (List.range q.2.length).map fun k => (0, q.1 + k, nth 0 q.2 k) }
  let s := modTile s t fun y =>
    { y with vec := { x with queue := x.queue.drop 1, started := x.started ++ [it], freeAt := stop,
                             busy := x.busy + occ + lost, bankLoss := x.bankLoss + lost,
                             access := x.access ++ acc.zipIdx.map fun e => (start + e.2, e.1) },
             pages := y.pages.map fun u =>
               if isUseOf p it.stream it.seq u && !u.producer then { u with until_ := some stop } else u }
  if f.isSome then freePieces s t o.regs else putPieces s t o.regs

end Sys2Proof.Machine
end

