-- ==== Sys2Proof/Machine/Training.lean ====
section
/-! DEFINITION. Training instructions of the sequencer class (R194, R195): tags, recompute windows, the norm protocol and
the sample table (R204, R209, R210, R212-R215). -/

namespace Sys2Proof.Machine

/-! ### Tags and recompute windows -/

/-- A stream's word and recompute save changed (R197). -/
def modClove (s : State) (t : Nat) (st : Stream) (f : CloveStream → CloveStream) : State :=
  modCtx s t fun c => { c with clove := { c.clove with words := upd {} c.clove.words (sc st) f } }

/-- `TLAYER` (R204). -/
def execTlayer (i : Issue) (w : BitVec 246) (s : State) : Res :=
  done s (issueN s i 0x240 w (fun _ => reservedChecks w [(191, 176), (159, 128)]) fun s =>
    modClove s i.tile i.stream fun c =>
      { c with layer := BitVec.ofNat 16 (fld w 191 176), base := BitVec.ofNat 32 (fld w 159 128) })

/-- The stream's Clove word. -/
def cloveOf (s : State) (t : Nat) (st : Stream) : CloveStream := rd {} (tileAt s t).ctx.clove.words (sc st)

/-- `RCMP` (R215). -/
def execRcmp (i : Issue) (w : BitVec 246) (s : State) : Res :=
  let fin := fbit w 244
  let creg := fbit w 243
  done s (issueN s i 0x241 w
    (fun s => reservedChecks w [(244, 244), (243, 243), (242, 238), (191, 128)]
      ++ [ckRes ((creg || fin) && decide (fld w 191 128 ≠ 0)) 191,
          ckRange (fin != (cloveOf s i.tile i.stream).window) 0 (bn fin)])
    fun s =>
      let x := strm s i.tile i.stream
      if fin then
        let save := (cloveOf s i.tile i.stream).save
        modStrm (modClove s i.tile i.stream fun c => { c with window := false }) i.tile i.stream fun x =>
          { x with nutElem := save }
      else
        let s := modClove s i.tile i.stream fun c => { c with window := true, save := x.nutElem }
        modStrm s i.tile i.stream fun x =>
          { x with nutElem := if creg then sReg x (fld w 242 238) else BitVec.ofNat 64 (fld w 191 128) })

/-! ### The norm protocol (R208-R211) -/

/-- A linear descriptor that the table of R195 fixes: format, stride 1 and, where given, the count. -/
def fixedLin (slot : Nat) (d : Lin) (fmt : Nat) (count : Option Nat) : List Check :=
  let lo := slotLow slot
  [ ckRes (decide (14 ≤ d.fmt)) (lo + 10), ckRes (bsReserved d.fmt d.bs) (lo + 6),
    ckFmt (decide (d.fmt ≠ fmt ∨ d.stride ≠ 1)) slot 0 d.fmt,
    ckRange (match count with | some n => decide (d.count ≠ n) | none => false) slot d.count ] ++ ckLin slot d

/-- The operand of a linear descriptor. -/
def linOperand (s : State) (i : Issue) (slot : Nat) (producer : Bool) (d : Lin) : Operand :=
  { slot := slot, ptile := ptileOf s i.tile, ranges := linRanges d, producer := producer,
    named := effSeal (strm s i.tile i.stream) d.rel d.named }

/-- The payload of `NPACK` (R209). -/
def npackValue (acc flags : Nat) : Nat :=
  if bitsN flags 1 3 = 0 ∧ acc < 2 ^ 74 then acc else 2 ^ 101

/-- `NPACK` (R209; R129 check 11). -/
def execNpack (i : Issue) (w : BitVec 246) (s : State) : Res :=
  let d := linOf (fld w 191 128)
  let sd := fld w 244 240
  done s (issueN s i 0x244 w
    (fun s => reservedChecks w [(244, 240), (191, 128)] ++ [ckRange (decide (sd = 31)) 0 sd] ++ fixedLin 1 d 9 (some 3)
      ++ [ckAlign (decide (d.addr % 8 ≠ 0)) 1 d.addr] ++ sealChecks s [linOperand s i 1 false d]
      ++ [match spError (tileAt s i.tile).ctx d.addr 24 with
          | some a => ⟨11, true, 0x0D, a⟩
          | none => ⟨11, false, 0x0D, 0⟩])
    fun s =>
      let c := (tileAt s i.tile).ctx
      let v := npackValue (rdNat c.sp d.addr 16) (rdNat c.sp (d.addr + 16) 8)
      modStrm s i.tile i.stream fun x => setS (setS x sd (BitVec.ofNat 64 v)) (sd + 1) (BitVec.ofNat 64 (v / 2 ^ 64)))

/-- nclip of R210: the result word, and whether it is the overflow. -/
def nclipValue (sum tau : Nat) (lsb : Int) : Nat × Bool :=
  if 2 ^ 101 ≤ sum then (2 ^ 62, true)
  else match decBin 4 tau with
    | .fin _ n d =>
      let p := pow2 lsb
      -- tau * tau against sum * 2^lsb
      if sum * p.1 * (d * d) ≤ n * n * p.2 then (0x3F800000, false)
      else
        let q := sqrtFin (n * n * p.2) (d * d * (sum * p.1))
        (2 ^ 63 + (ieeeRound 4 false q.1 q.2 .rne 0).bits, false)
    | _ => (0x3F800000, false)

/-- Is a binary32 word positive and finite? -/
def posFinite (x : Nat) : Bool :=
  match decBin 4 x with | .fin s n _ => !s && decide (n ≠ 0) | _ => false

/-- The norm overflow event of a step, once (R210, R417). -/
def normEvent (s : State) (t : Nat) (step : BitVec 32) : State :=
  if s.normStep.contains step then s
  else raiseEvent { s with normStep := s.normStep ++ [step] } 0x04 1 (tilePath s t)
    (natLe 2 (ptileOf s t) ++ natLe 2 0 ++ natLe 4 step.toNat)

/-- `NCLIP` (R210). -/
def execNclip (i : Issue) (w : BitVec 246) (s : State) : Res :=
  let ss := fld w 239 235
  done s (issueN s i 0x245 w
    (fun s =>
      let tau := (sReg (strm s i.tile i.stream) (fld w 234 230)).toNat % 2 ^ 32
      reservedChecks w [(244, 240), (239, 235), (234, 230), (139, 128)] ++
      [ckRange (decide (ss = 31)) 0 ss, ckRange (!posFinite tau) 0 tau])
    fun s =>
      let x := strm s i.tile i.stream
      let sum := (sReg x ss).toNat + 2 ^ 64 * (sReg x (ss + 1)).toNat
      let r := nclipValue sum ((sReg x (fld w 234 230)).toNat % 2 ^ 32) (sext 12 (fld w 139 128))
      let s := if r.2 then normEvent s i.tile x.nutStep else s
      modStrm s i.tile i.stream fun x => setS x (fld w 244 240) (BitVec.ofNat 64 r.1))

/-! ### The sample table (R212-R214) -/

/-- The slot count S of the keep area. -/
def sampleSlots (s : State) : Nat := match s.prog with | some g => g.keepSlots | none => 0

/-- The keep map. -/
def keepMap (s : State) : List KeepEntry := match s.prog with | some g => g.keep | none => []

/-- A size rounded up to 4 KiB. -/
def page4k (n : Nat) : Nat := (n + 4095) / 4096 * 4096

/-- The address of a keep entry for a sample slot (R212). -/
def keepAddr (s : State) (slot entry : Nat) : Nat :=
  let sizes := (keepMap s).map fun e => page4k e.size.toNat
  let base := match s.prog with | some g => g.keepBase.toNat | none => 0
  base + slot * sizes.foldl (· + ·) 0 + (sizes.take entry).foldl (· + ·) 0

/-- The range check of a sample slot, and of a requirement on its state (R214). -/
def sampleChecks (s : State) (slot : Nat) (ok : Sample → Bool) : List Check :=
  let x := rd {} s.samples slot
  [ ckRange (decide (sampleSlots s ≤ slot)) 1 slot, ckRange (!ok x) 1 (x.state.toNat * 2 ^ 9 + slot) ]

/-- A sample slot changed. -/
def modSample (s : State) (slot : Nat) (f : Sample → Sample) : State := { s with samples := upd {} s.samples slot f }

/-- `SOPEN` (R214). -/
def execSopen (i : Issue) (w : BitVec 246) (s : State) : Res :=
  let k := fld w 136 128
  done s (issueN s i 0x248 w
    (fun s => reservedChecks w [(244, 240), (159, 144), (136, 128)] ++ sampleChecks s k fun x => x.state == 0)
    fun s =>
      let cur := sReg (strm s i.tile i.stream) (fld w 244 240)
      modSample s k fun _ => { cursor := cur, kept := 0, tag := BitVec.ofNat 16 (fld w 159 144), state := 1 })

/-- The state that `SSTEP` requires for its destination (R214). -/
def sstepFrom (dst : Nat) : Nat := if dst = 2 then 1 else if dst = 3 then 2 else 3

/-- `SSTEP` (R214). -/
def execSstep (i : Issue) (w : BitVec 246) (s : State) : Res :=
  let k := fld w 136 128
  let dst := fld w 139 137
  done s (issueN s i 0x249 w
    (fun s => reservedChecks w [(139, 137), (136, 128)] ++
      [ckRange (decide (sampleSlots s ≤ k)) 1 k, ckRange (decide (dst = 1 ∨ 4 ≤ dst)) 1 dst] ++
      sampleChecks s k fun x => x.state.toNat = sstepFrom dst)
    fun s =>
      let s := modSample s k fun x => { x with state := BitVec.ofNat 3 dst }
      if dst = 0 then { s with closed := s.closed + 1 } else s)

/-- `SKADDR` (R214). -/
def execSkaddr (i : Issue) (w : BitVec 246) (s : State) : Res :=
  let k := fld w 136 128
  let e := fld w 142 137
  let read := fbit w 143
  done s (issueN s i 0x24A w
    (fun s => reservedChecks w [(243, 240), (143, 143), (142, 137), (136, 128)] ++
      [ckRange (decide (sampleSlots s ≤ k)) 1 k, ckRange (decide ((keepMap s).length ≤ e)) 1 e] ++
      sampleChecks s k fun x => if read then x.state == 3 && x.kept.getLsbD e else x.state == 1)
    fun s =>
      let a := BitVec.ofNat 48 (keepAddr s k e)
      let s := if read then s else modSample s k fun x => { x with kept := x.kept ||| BitVec.ofNat 64 (2 ^ e) }
      modStrm s i.tile i.stream fun x => setA x (fld w 243 240) a)

end Sys2Proof.Machine
end

