-- ==== Sys2Proof/Machine/TrainingVec.lean ====
section
/-! DEFINITION. The vector-queue training instructions (R194-R203, R207), and the starts and completions of the vector
unit (R168, R169). -/

namespace Sys2Proof.Machine

/-- The layer records declared for a tile's program tile (R199). -/
def recordCount (s : State) (t : Nat) : Nat :=
  match s.prog with | some g => rd 0 g.recCount (ptileOf s t) | none => 0

/-- A layer record of a tile's context. -/
def recOf (s : State) (t n : Nat) : LayerRec := rd {} (tileAt s t).ctx.clove.records n

/-- A layer record changed. -/
def modRec (s : State) (t n : Nat) (f : LayerRec → LayerRec) : State :=
  modCtx s t fun c => { c with clove := { c.clove with records := upd {} c.clove.records n f } }

/-- An instruction marked U that another stream issues (R194). -/
def onlyU (s : State) (i : Issue) : Check :=
  ckConf (i.stream != .U) 0 4 (match holderOf s i.tile 4 with | some h => sc h | none => 3) (sinceIssue s i.tile 4)

/-- The completion-signal range check (R136). -/
def csigCheck (w : BitVec 246) : Check := ckRange (decide (fld w 217 216 = 2 ∧ 31 < fld w 215 210)) 0 (fld w 215 210)

/-- The completion-signal fields of R172. -/
def csigFields : List (Nat × Nat) := [(217, 216), (215, 210)]

/-! ### `TUPD` (R200, R201) -/

/-- c of `TUPD` as binary32 bits (R200). -/
def tupdC (x : StreamCtx) (w : BitVec 246) : Nat :=
  if fbit w 142 then (sReg x (fld w 141 137)).toNat % 2 ^ 32 else 0x3F800000

/-- Is c negative, −0, infinite or a NaN? -/
def badC (c : Nat) : Bool := match decBin 4 c with | .fin s _ _ => s | _ => true

/-- The checks of `TUPD` (R165, R194, R195, R200). -/
def tupdChecks (s : State) (i : Issue) (w : BitVec 246) : List Check :=
  let v := vword w
  let c := tupdC (strm s i.tile i.stream) w
  let r := fld w 135 128
  reservedChecks w ([(244, 240), (239, 235), (234, 230), (224, 221), (220, 219)] ++ csigFields ++
    [(209, 199), (142, 142), (141, 137), (135, 128)]) ++
  [ ckRes (decide (14 ≤ v.fmt)) 224, ckRes (decide (v.round = 3)) 220,
    ckFmt (decide (v.fmt ≠ 2 ∧ v.fmt ≠ 3)) 0 v.round v.fmt, ckFmt (decide (v.round ≠ 1)) 0 v.round v.fmt ] ++
  ([v.vd, v.va, v.vb].map fun k => ckAlign (decide (v.fmt = 2 ∧ k % 2 = 1)) 0 k) ++
  [ ckAlign (decide (v.fmt = 2 ∧ v.vl % 16 ≠ 0)) 0 v.vl, ckRange (decide (512 < v.vl)) 0 v.vl, csigCheck w,
    ckRange (decide (recordCount s i.tile ≤ r)) 1 r, ckRange (badC c) 1 c, onlyU s i ] ++
  vecClaims s i.tile i.stream v.vl

/-- `TUPD` comes to issue: c is read and a Nutmeg value drawn for each element (R200). -/
def execTupd (i : Issue) (w : BitVec 246) (s : State) : Res :=
  done s (issueN s i 0x250 w (fun s => tupdChecks s i w) fun s =>
    let n := (vword w).vl
    vecIssue s i 0x250 w n n (BitVec.ofNat 64 (tupdC (strm s i.tile i.stream) w)) [])

/-- The exact new value of an element (R200). -/
def tupdElem (c : Val) (lam : Int) (w d : Val) : Val :=
  let zero := match c with | .fin _ n _ => n == 0 | _ => false
  if w = .poison ∨ (!zero ∧ d = .poison) then .poison
  else if zero then w
  else match mulVal c (scaleVal lam d) with
    | some p => (addVal w (negVal p)).getD .poison
    | none => .poison

/-- The floor of a finite value's square in units of 2^lsb, and whether it lost bits. -/
def sqFloor (lsb : Int) (v : Val) : Nat × Bool :=
  match v with
  | .fin _ n d => let p := pow2 lsb; (n * n * p.2 / (d * d * p.1), decide (n * n * p.2 % (d * d * p.1) ≠ 0))
  | _ => (0, false)

/-- A saturating addition of `k` bits. -/
def satAdd (k a b : Nat) : Nat × Bool := (min (a + b) (2 ^ k - 1), decide (2 ^ k - 1 < a + b))

/-- One counted element enters a record (R200). -/
def countElem (w w' : Val) (r : LayerRec) : LayerRec :=
  let u := (addVal w' (negVal w)).getD .poison
  let same := match u with | .fin _ n _ => n == 0 | _ => false
  let lsb := r.lsb.toInt
  let qu := sqFloor lsb u
  let qw := sqFloor lsb w
  let nn := satAdd 32 r.n.toNat 1
  let zz := satAdd 32 r.z.toNat (bn same)
  let us := satAdd 128 r.uss.toNat qu.1
  let ws := satAdd 128 r.wss.toNat qw.1
  { r with n := BitVec.ofNat 32 nn.1, z := BitVec.ofNat 32 zz.1, uss := BitVec.ofNat 128 us.1, wss := BitVec.ofNat 128 ws.1,
           cntSat := r.cntSat || nn.2 || zz.2, accSat := r.accSat || us.2 || ws.2, accTrunc := r.accTrunc || qu.2 || qw.2 }

/-- tupd of R200: the result and the record. -/
def tupdRun (v : VWord) (ctx : Context) (cbits : Nat) (rs : List Nat) (rec : LayerRec) : VOut × LayerRec :=
  let c := decBin 4 cbits
  let zero := cbits % 2 ^ 31 = 0
  let ws := laneVals8 ctx v.va v.fmt v.vl false
  let ds := laneVals8 ctx v.vb v.fmt v.vl false
  let xs := (List.range v.vl).map fun e => tupdElem c rec.lam.toInt (nth .poison ws e) (nth .poison ds e)
  let r : List Nat × List ERes := if v.fmt = 2 then convAll 2 2 16 (fun _ => none) .sr xs rs
    else ([], (List.range v.vl).map fun e => { toT16 (nth .poison xs e) .sr (nth 0 rs e) with
      pin := decide (nth .poison xs e = .poison) })
  let new := (List.range v.vl).map fun e => decVal v.fmt (nth { bits := 0 } r.2 e).bits (nth 0 r.1 (e / 16)) false
  let rec' := if zero then rec
    else (List.range v.vl).foldl (fun (q : LayerRec) e =>
      if nth .poison xs e = .poison then { q with poison := true } else countElem (nth .poison ws e) (nth .poison new e) q) rec
  ({ regs := putLanes v.vd 16 (r.2.map (·.bits)) :: putExps v.vd r.1, raised := raisedOf (if v.fmt = 2 then 16 else 32) r.2 },
   rec')

/-! ### `TCLOSE` (R202, R203) -/

/-- 128 × log₂(u / w) rounded to the nearest integer: half of one more than ⌊256 log₂⌋ (R202). -/
def logRatio (u w : Nat) : Int := (log2F (u ^ 256) (w ^ 256) + 1) / 2

/-- The ratio of a closed step (R202). -/
def closeRatio (r : LayerRec) : BitVec 16 :=
  let u := r.uss.toNat
  let w := r.wss.toNat
  if u = 0 ∧ w = 0 then 0x8000
  else if u = 0 then 0x8001
  else if w = 0 then 0x7FFF
  else BitVec.ofInt 16 (max (-32767) (min 32767 (logRatio u w)))

/-- tclose of R202: the record, the conditions that rose, the action, the exponent before, and the streak before a
restart. -/
def tclose (r : LayerRec) : LayerRec × Nat × Nat × BitVec 16 :=
  let some' := r.n ≠ 0
  let ratio := if some' then closeRatio r else 0x8000
  let zf := if some' then min (r.z.toNat * 65536 / r.n.toNat) 0xFFFF else 0
  let defined := some' && ratio != 0x8000
  let low := defined && r.rlo != 0x8000 && ratio.slt r.rlo
  let high := defined && r.rhi != 0x8000 && r.rhi.slt ratio
  let vanish := r.zthr ≠ 0 && decide (r.zthr.toNat * r.n.toNat ≤ r.z.toNat * 65536)
  let streak := if some' then (if vanish then min (r.streak.toNat + 1) 0xFFFF else 0) else r.streak.toNat
  let hit := decide (r.limit.toNat ≤ streak)
  let rose := bn (low && !r.alarmLow) + 2 * bn (high && !r.alarmHigh) + 4 * bn (hit && !r.alarmStreak)
  let lam := r.lam.toInt
  let lam' := if !r.auto then lam
    else if high && decide (r.lamMin.toInt < lam) then lam - 1
    else if !high && (low || hit) && decide (lam < r.lamMax.toInt) then lam + 1
    else lam
  let moved := decide (lam' ≠ lam)
  let after := if moved then 0 else streak
  let action := if !r.auto then 4 else if lam' < lam then 2 else if lam < lam' then 1 else 3
  ({ r with
      ratio := ratio, zfrac := BitVec.ofNat 16 zf, lam := BitVec.ofInt 8 lam', streak := BitVec.ofNat 16 after,
      adjusts := if moved then BitVec.ofNat 8 (min (r.adjusts.toNat + 1) 0xFF) else r.adjusts,
      alarmLow := low, alarmHigh := high, alarmStreak := hit && decide (r.limit.toNat ≤ after),
      uss := 0, wss := 0, n := 0, z := 0, poison := false, cntSat := false, accSat := false, accTrunc := false },
   rose, action, BitVec.ofNat 16 streak)

/-- A record closes, with its alarm event (R202, R203). -/
def closeRecord (s : State) (t k : Nat) (step : BitVec 32) : State :=
  let r := recOf s t k
  let q := tclose r
  let s := modRec s t k fun _ => q.1
  if q.2.1 = 0 || !r.evt then s
  else raiseEvent s 0x02 1 (tilePath s t)
    (natLe 2 (ptileOf s t) ++ natLe 2 k ++ natLe 2 r.layer.toNat ++ [BitVec.ofNat 8 q.2.1, BitVec.ofNat 8 q.2.2.1] ++
      natLe 4 step.toNat ++ natLe 2 q.1.ratio.toNat ++ natLe 2 q.1.zfrac.toNat ++ natLe 2 q.2.2.2.toNat ++
      [r.lam, q.1.lam] ++ natLe 4 r.n.toNat ++ natLe 4 r.z.toNat)

/-- The checks of a record instruction: its reserved fields, its record, stream and claims (R194, R195). -/
def recChecks (s : State) (i : Issue) (w : BitVec 246) (slot : Nat) (slots : List (Nat × Nat)) : List Check :=
  let r := fld w (slotLow slot + 7) (slotLow slot)
  reservedChecks w (csigFields ++ slots) ++
  [csigCheck w, ckRange (decide (recordCount s i.tile ≤ r)) slot r, onlyU s i] ++ vecClaims s i.tile i.stream 1

/-- `TCLOSE` (R202). -/
def execTclose (i : Issue) (w : BitVec 246) (s : State) : Res :=
  done s (issueN s i 0x251 w (fun s => recChecks s i w 1 [(135, 128)]) fun s => vecIssue s i 0x251 w 1 0 0 [])

/-! ### Records in the scratchpad (R198, R199) -/

/-- Word 0 of a record (R198). -/
def recWord0 (r : LayerRec) : Nat :=
  r.layer.toNat * 2 ^ 48 + r.lam.toNat * 2 ^ 40 + r.lamMin.toNat * 2 ^ 32 + r.lamMax.toNat * 2 ^ 24 + bn r.valid * 2 ^ 23
    + bn r.auto * 2 ^ 22 + bn r.evt * 2 ^ 21 + r.limit.toNat
/-- Word 1 of a record. -/
def recWord1 (r : LayerRec) : Nat :=
  r.rlo.toNat * 2 ^ 48 + r.rhi.toNat * 2 ^ 32 + r.zthr.toNat * 2 ^ 16 + r.lsb.toNat * 16
/-- Word 7 of a record. -/
def recWord7 (r : LayerRec) : Nat :=
  r.ratio.toNat * 2 ^ 48 + r.zfrac.toNat * 2 ^ 32 + r.streak.toNat * 2 ^ 16 + r.adjusts.toNat * 2 ^ 8 + bn r.poison * 2 ^ 7
    + bn r.cntSat * 2 ^ 6 + bn r.accSat * 2 ^ 5 + bn r.accTrunc * 2 ^ 4 + bn r.alarmStreak * 4 + bn r.alarmHigh * 2
    + bn r.alarmLow

/-- The 64 bytes of a record (R198). -/
def recBytes (r : LayerRec) : List Byte :=
  natLe 8 (recWord0 r) ++ natLe 8 (recWord1 r) ++ natLe 16 r.uss.toNat ++ natLe 16 r.wss.toNat ++
    natLe 8 (r.n.toNat * 2 ^ 32 + r.z.toNat) ++ natLe 8 (recWord7 r)

/-- Words 0 and 1 put into a record; a limit of 0 is stored as 256 (R199). -/
def setRecWords (r : LayerRec) (w0 w1 : Nat) : LayerRec :=
  let lim := bitsN w0 0 16
  { r with
    layer := BitVec.ofNat 16 (bitsN w0 48 16), lam := BitVec.ofNat 8 (bitsN w0 40 8), lamMin := BitVec.ofNat 8 (bitsN w0 32 8),
    lamMax := BitVec.ofNat 8 (bitsN w0 24 8), valid := bitN w0 23, auto := bitN w0 22, evt := bitN w0 21,
    limit := BitVec.ofNat 16 (if lim = 0 then 256 else lim), rlo := BitVec.ofNat 16 (bitsN w1 48 16),
    rhi := BitVec.ofNat 16 (bitsN w1 32 16), zthr := BitVec.ofNat 16 (bitsN w1 16 16), lsb := BitVec.ofNat 12 (bitsN w1 4 12) }

/-- The value checks of words 0 and 1 (R199). -/
def recValuesOk (w0 : Nat) : Bool :=
  let l := sext 8 (bitsN w0 40 8)
  let lo := sext 8 (bitsN w0 32 8)
  let hi := sext 8 (bitsN w0 24 8)
  decide (lo ≤ hi ∧ lo ≤ l ∧ l ≤ hi)

/-- `TRECRD` (R195): a record goes to the scratchpad. -/
def execTrecrd (i : Issue) (w : BitVec 246) (s : State) : Res :=
  let d := linOf (fld w 63 0)
  done s (issueN s i 0x252 w
    (fun s => recChecks s i w 2 [(71, 64), (63, 0)] ++ fixedLin 3 d 6 (some 64) ++ sealChecks s [linOperand s i 3 true d])
    fun s => vecIssue s i 0x252 w 1 0 0 [linOperand s i 3 true d])

/-- `TRECWR` (R195, R199). -/
def execTrecwr (i : Issue) (w : BitVec 246) (s : State) : Res :=
  let d := linOf (fld w 191 128)
  done s (issueN s i 0x253 w
    (fun s => recChecks s i w 2 [(191, 128), (71, 64)] ++ fixedLin 1 d 6 (some 16) ++ sealChecks s [linOperand s i 1 false d])
    fun s => vecIssue s i 0x253 w 1 0 0 [linOperand s i 1 false d])

/-! ### `TSCALE` (R207) -/

/-- The scratchpad operands of a `TSCALE`: the array read and the array written (R150, R195). -/
def tscaleOperands (s : State) (i : Issue) (w : BitVec 246) : List Operand :=
  let a := linOf (fld w 191 128)
  if a.count = 0 then [] else [linOperand s i 1 false a, linOperand s i 3 true (linOf (fld w 63 0))]

/-- The checks of a `TSCALE` (R195). -/
def tscaleChecks (s : State) (i : Issue) (w : BitVec 246) : List Check :=
  let a := linOf (fld w 191 128)
  let b := linOf (fld w 63 0)
  reservedChecks w (csigFields ++ [(191, 128), (127, 96), (79, 64), (63, 0)]) ++ [csigCheck w] ++
    fixedLin 1 a 6 none ++ fixedLin 3 b 6 none ++
    [ckRange (decide (b.addr ≠ a.addr)) 3 b.addr, ckRange (decide (b.count ≠ a.count)) 3 b.count] ++
    vecClaims s i.tile i.stream a.count ++ sealChecks s (tscaleOperands s i w)

/-- `TSCALE` (R195, R207). -/
def execTscale (i : Issue) (w : BitVec 246) (s : State) : Res :=
  done s (issueN s i 0x254 w (fun s => tscaleChecks s i w) fun s =>
    vecIssue s i 0x254 w (linOf (fld w 191 128)).count 0 0 (tscaleOperands s i w))

/-- Does a log entry match a `TSCALE` (R207)? Its element then. -/
def scaleHit (layer base count : Nat) (step : BitVec 32) (e : OvfEntry) : Option Nat :=
  let j := (e.block.toNat + 2 ^ 32 - base) % 2 ^ 32
  if e.layer.toNat = layer ∧ e.step = step ∧ !e.applied ∧ j < count then some j else none

/-- A started item put into a list in the order of completion (R205). -/
def insDue (i : Item) : List Item → List Item
  | [] => [i]
  | x :: t => if comesFirst i.due i.stream x.due x.stream then i :: x :: t else x :: insDue i t

/-- The log entries that the started instructions of the vector unit are still to append, with their items and flag blocks. -/
def pendingEntries (x : Tile) : List (Item × Nat × OvfEntry) :=
  (x.vec.started.foldl (fun l i => insDue i l) []).flatMap fun i =>
    if i.failed.isSome then [] else i.raised.overflow.map fun j => (i, j, ovfEntry i (ovfSource i.op.toNat) j)

/-- The Clove store as the instructions that started before leave it (R196). -/
def cloveAhead (x : Tile) : Clove := (pendingEntries x).foldl (fun c e => cloveAdd c e.2.2) x.ctx.clove

/-- A `TSCALE` starts: matched entries are marked, those of started instructions too (R196), and the array's bytes rise (R207). -/
def tscaleRun (s : State) (t : Nat) (it : Item) : State × VOut :=
  let a := linOf (fld it.w 191 128)
  let base := fld it.w 127 96
  let layer := fld it.w 79 64
  let c := (tileAt s t).ctx
  let ahead := cloveAhead (tileAt s t)
  let hit := scaleHit layer base a.count it.step
  let raised := ahead.log.filterMap hit
  let bytes := (List.range a.count).map fun j =>
    let b := rdNat c.sp (a.addr + j) 1
    BitVec.ofNat 8 (if ahead.lost || raised.contains j then min (b + 1) 255 else b)
  let marked := (pendingEntries (tileAt s t)).filter fun e => (hit e.2.2).isSome && ahead.log.contains e.2.2
  let s := modTile s t fun x => { x with
    vec := { x.vec with started := x.vec.started.map fun i =>
      { i with applied := i.applied ++ (marked.filter fun e => e.1.stream == i.stream && e.1.seq == i.seq).map (·.2.1) } },
    ctx := { x.ctx with clove := { x.ctx.clove with
      log := x.ctx.clove.log.map fun e => if (hit e).isSome then { e with applied := true } else e } } }
  let s := if ahead.lost then
      raiseEvent s 0x03 1 (tilePath s t) (natLe 2 (ptileOf s t) ++ natLe 2 layer)
    else s
  (s, { bytes := [(a.addr, bytes)] })

/-! ### The vector unit's events -/

/-- The occupancy of an instruction (R168, R196) and the cycles from its end to the completion (R169, R196). -/
def itemOccupancy (it : Item) : Nat × Nat :=
  let v := vword it.w
  match it.op.toNat with
  | 0x250 => (max 1 (cyclesOf v.vl 16) + 2, 3)
  | 0x251 => (4, 0)
  | 0x252 => (1, 0)
  | 0x253 => (1, 0)
  | 0x254 => (max 1 (((linOf (fld it.w 191 128)).count + 1023) / 1024) + 4, 0)
  | op =>
    let mem : Option (Nat × Bool) :=
      if op = 0x100 ∨ op = 0x102 then some (1, false) else if op = 0x101 ∨ op = 0x103 then some (2, true) else none
    (occupancy { op := op, fmts := [], mem := mem } v, if op = 0x101 ∨ op = 0x103 then 0 else 3)

/-- The registers, with the bits of each, and the scratchpad ranges that an instruction reads (R174, R195). -/
def itemReads (it : Item) : List (Nat × Nat) × List Range :=
  let v := vword it.w
  match it.op.toNat with
  | 0x250 =>
    let n := v.vl * fmtWidth v.fmt
    ((if v.fmt = 2 then [(v.va, n), (v.va + 1, v.vl / 16 * 8), (v.vb, n), (v.vb + 1, v.vl / 16 * 8)] else [(v.va, n), (v.vb, n)]), [])
  | 0x251 => ([], [])
  | 0x252 => ([], [])
  | 0x253 => ([], linRanges (linOf v.s1))
  | 0x254 => ([], linRanges (linOf v.s1))
  | op =>
    (readRegs op v,
     if op = 0x100 ∨ op = 0x102 then
       linRanges (linOf v.s1) ++ (if isBlk (linOf v.s1).fmt then linRanges (linOf v.s2) else [])
     else [])

/-- What an instruction does as it starts: layer records, the log and events in the state, the rest in the second
component (R196, R201). -/
def itemRun (s : State) (t : Nat) (it : Item) : State × VOut :=
  let v := vword it.w
  let c := (tileAt s t).ctx
  let p := ptileOf s t
  match it.op.toNat with
  | 0x250 =>
    let k := fld it.w 135 128
    let r := tupdRun v c it.scalar.toNat (randoms s p it .sr v.vl) (recOf s t k)
    (modRec s t k fun _ => r.2, r.1)
  | 0x251 => (closeRecord s t (fld it.w 135 128) it.step, {})
  | 0x252 => (s, { bytes := [((linOf v.s3).addr, recBytes (recOf s t (fld it.w 71 64)))] })
  | 0x253 =>
    let a := (linOf v.s1).addr
    let w0 := rdNat c.sp a 8
    let w1 := rdNat c.sp (a + 8) 8
    if recValuesOk w0 && bitN w0 23 then (modRec s t (fld it.w 71 64) fun r => setRecWords r w0 w1, {})
    else (s, { fail := some (0x03, slotDetail 1 a) })
  | 0x254 => tscaleRun s t it
  | op =>
    let n := match op with | 0x102 => (linOf v.s1).count | 0x103 => (linOf v.s2).count | _ => v.vl
    (s, vectorRun op v c it.scalar (randoms s p it (rmodeOf v.round) n))

/-- The bank words of a linear operand's accesses, one entry an access cycle: 128 contiguous bytes at stride 1, else 16 elements (R168,
R222). -/
def linAccesses (d : Lin) : List (List Nat) :=
  if d.stride = 1 then
    let n := (d.count * fmtWidth d.fmt + 7) / 8
    (List.range ((n + 127) / 128)).map fun k => wordsOf [(d.addr + 128 * k, min 128 (n - 128 * k))]
  else
    let rs := linRanges d
    (List.range ((rs.length + 15) / 16)).map fun k => wordsOf (sub rs (16 * k) 16)

/-- The accesses of an instruction, its exponents' with those of its elements (R222). -/
def itemAccesses (it : Item) : List (List Nat) :=
  let v := vword it.w
  let both := fun (d x : Lin) =>
    let exps := if isBlk d.fmt then linAccesses x else []
    match linAccesses d with
    | [] => exps
    | a :: rest => (exps.flatten.foldl (fun l w => insNat w l) a) :: rest
  match it.op.toNat with
  | 0x100 => both (linOf v.s1) (linOf v.s2)
  | 0x102 => both (linOf v.s1) (linOf v.s2)
  | 0x101 => both (linOf v.s2) (linOf v.s3)
  | 0x103 => both (linOf v.s2) (linOf v.s3)
  | 0x252 => linAccesses (linOf v.s3)
  | 0x253 => linAccesses (linOf v.s1)
  | 0x254 => linAccesses (linOf v.s1) ++ linAccesses (linOf v.s3)
  | _ => []

/-- The cycles that an instruction loses to the splits of its own accesses (R223, R224). -/
def ownSplits (it : Item) : Nat := (itemAccesses it).foldl (fun n ws => n + (splitCycles ws - 1)) 0

/-- The accesses as they are presented, cycle by cycle (R223). -/
def presented (it : Item) : List (List Nat) := (itemAccesses it).flatMap fun ws => splitParts 32 ws

/-- Time moves on until the datapath is free for the head of the queue: the instruction on it may lose banks meanwhile (R168). -/
def toFree : Nat → State → Nat → Item → State
  | 0, s, _, _ => s
  | n + 1, s, t, it =>
    let s := toCycle s (max it.issued (tileAt s t).vec.freeAt)
    if (tileAt s t).vec.freeAt ≤ s.time.cycle then s else toFree n s t it

/-- `VECTOR_START` (R168, R170, R191, R225): the head of the queue starts in the cycle that R168 fixes, losing the bank cycles of its own
splits and `lost` to the DMA engine (R104, R223; log 84), and meeting the error `e`. -/
def execVectorStart (t : Fin 64) (lost : Nat) (e : VectorFault) (s : State) : Res :=
  done s (match (tileAt s t).vec.queue with
    | [] => s
    | it :: _ =>
      if s.firm.held then s
      else
        let s := toFree 4096 s t it
        let occ := itemOccupancy it
        let rs := itemReads it
        let fail := vecFault (tileAt s t).ctx e rs.1 rs.2
        let s := noteVecFault s t e fail
        let r := itemRun s t it
        -- an instruction that fails on its operands has no effect on records or the log
        startItem (if fail.isSome then s else r.1) t it (ownSplits it + lost) occ.1 occ.2 (presented it) r.2 fail)

/-- The started instruction that completes next: the earliest, and of those of one cycle the first in the order F, B, U (R169, R205). -/
def nextDone : List Item → Option Item
  | [] => none
  | i :: l => match nextDone l with
    | none => some i
    | some j => if comesFirst j.due j.stream i.due i.stream then some j else some i

/-- Time moves on until a started instruction is due: bank cycles lost meanwhile put it off (R168). -/
def toVectorDone : Nat → State → Nat → State
  | 0, s, _ => s
  | n + 1, s, t => match nextDone (tileAt s t).vec.started with
    | none => s
    | some it => if it.due ≤ s.time.cycle then s else toVectorDone n (toCycle s it.due) t

/-- `VECTOR_COMPLETE` (R169, R196): time moves to the cycle in which the next started instruction completes. -/
def execVectorComplete (t : Fin 64) (s : State) : Res :=
  done s (
    let s := toVectorDone 4096 s t
    match nextDone (tileAt s t).vec.started with
    | none => s
    | some it => finishDrain (chainStop (finishVector s t it) t))

end Sys2Proof.Machine
end

