-- ==== Sys2Proof/Machine/Links.lean ====
section
/-! DEFINITION. Strands and their tables (R278-R282), circuits along hop lists and their codewords (R296-R300). -/

namespace Sys2Proof.Machine

/-! ### Headers of containers (R284) -/

/-- Destination node. -/
def hDst (h : BitVec 128) : BitVec 16 := h.extractLsb' 112 16
/-- Source node. -/
def hSrc (h : BitVec 128) : BitVec 16 := h.extractLsb' 96 16
/-- Per-pair sequence number. -/
def hSeq (h : BitVec 128) : BitVec 24 := h.extractLsb' 72 24
/-- Routers visited. -/
def hAge (h : BitVec 128) : Nat := bitsN h.toNat 64 8
/-- Slice of the packet. -/
def hSlice (h : BitVec 128) : BitVec 6 := h.extractLsb' 58 6
/-- Packet type. -/
def hType (h : BitVec 128) : Nat := bitsN h.toNat 54 4
/-- The ORDER flag. -/
def hOrder (h : BitVec 128) : Bool := h.getLsbD 53
/-- Payload length in 8 B units. -/
def hLen (h : BitVec 128) : Nat := bitsN h.toNat 46 7
/-- The argument. -/
def hArg (h : BitVec 128) : Nat := bitsN h.toNat 0 46

/-- A header from its fields, with age 0. -/
def mkHeader (dst src : BitVec 16) (seq : BitVec 24) (slice : BitVec 6) (type : Nat) (order : Bool) (len arg : Nat) :
    BitVec 128 :=
  BitVec.ofNat 128 (dst.toNat * 2 ^ 112 + src.toNat * 2 ^ 96 + seq.toNat * 2 ^ 72 + slice.toNat * 2 ^ 58
    + type % 16 * 2 ^ 54 + bn order * 2 ^ 53 + len % 128 * 2 ^ 46 + arg % 2 ^ 46)

/-! ### Strand tables (R278, R279, R309) -/

/-- A port changed. -/
def modPort (s : State) (p : Nat) (f : Port → Port) : State :=
  { s with fab := { s.fab with ports := upd {} s.fab.ports p f } }

/-- The declared slice that holds both ends of a port's link (R279). -/
def linkSlice (s : State) (p : Nat) : Option SliceDecl :=
  let e := s.fab.extent
  let n := s.fab.node.toNat
  s.fab.slices.find? fun d => 2 ≤ extOn e (p / 2) && inSlice e d n && inSlice e d (neighbour e n p)

/-- The entry that the layout gives a strand (R279), with its failed bit kept. -/
def layoutEntry (s : State) (k : Nat) : BitVec 16 :=
  let f := eFailed (strandAt s k).entry
  match linkSlice s (k / 4) with
  | some d => mkEntry 1 d.number.toNat f
  | none => mkEntry 0 0 f

/-- Is a strand's change to another mode than 2 under way (R282)? -/
def leaving (x : Strand) : Bool := match x.change with | some c => eMode c.entry ≠ 2 | none => false

/-- Does a strand count for its slice's packets: mode 1, not failed, and not on its way to another mode (R280)? -/
def servesPackets (s : State) (slice : BitVec 6) (k : Nat) : Bool :=
  let x := strandAt s k
  eMode x.entry = 1 && eSlice x.entry == slice && !eFailed x.entry &&
    (match x.change with | some c => eMode c.entry = 1 | none => true)

/-- Does the link of a strand keep a packet strand of its slice without it (R280)? -/
def keepsPackets (s : State) (k : Nat) : Bool :=
  match linkSlice s (k / 4) with
  | none => true
  | some d => (strandsOf (k / 4)).any fun j => j ≠ k && servesPackets s d.number j

/-- Does the link direction out of a port keep a strand direction without a circuit beside strand `k` (R280)? -/
def keepsControl (s : State) (k : Nat) : Bool :=
  (strandsOf (k / 4)).any fun j => j ≠ k && (strandAt s j).out.isNone && !eFailed (strandAt s j).entry

/-- The present frame (R283). -/
def frameNo (s : State) : Nat := (fec s).toNat / 140

/-! ### Messages along a hop list (R276, R296) -/

/-- The strand index that a hop byte names (R296). -/
def hopStrand (b : Byte) : Nat := b.toNat % 32

/-- A path message goes out over a strand's port, on the channel of R276. -/
def pathOut (s : State) (qtype k : Nat) (m : PathMsg) : State :=
  let came := if m.pos = 0 then none else some (hopStrand (nth 0 m.hops (m.pos - 1)) / 8, m.vc.val)
  putQ s (k / 4) (nextVc s.fab.extent s.fab.node.toNat (k / 4) came) none
    (.path (BitVec.ofNat 8 qtype) (strandOf k) { m with pos := m.pos + 1 })

/-- It goes out over the hop at its position. -/
def sendPath (s : State) (qtype : Nat) (m : PathMsg) : State := pathOut s qtype (hopStrand (nth 0 m.hops m.pos)) m

/-! ### Mode changes (R282) -/

/-- Has the counter reached a frame? -/
def frameReached (s : State) (f : BitVec 32) : Bool :=
  let n := BitVec.ofNat 32 (frameNo s)
  n == f || precedes 32 f.toNat n.toNat

/-- This end starts a change of a strand's mode, with the frame from which it holds 8 frames ahead; `next` goes out once the other end
has confirmed it (log 89). -/
def startChange (s : State) (k : Nat) (entry : BitVec 16) (next : Option (BitVec 8 × PathMsg)) : State :=
  let f := BitVec.ofNat 32 (frameNo s + 8)
  let c : ModeChange := { entry := entry, frame := f, initiator := true, confirmed := false, next := next }
  emit (modStrand s k fun x => { x with change := some c }) (.linkMode (strandOf k) entry f)

/-- A change under way is given up. -/
def dropChange (s : State) (k : Nat) : State := modStrand s k fun x => { x with change := none }

/-- A strand's entry takes a new mode, and a path message goes on: at once from or to mode 0, once a mode change between the others
is confirmed (R282). -/
def takeMode (s : State) (k : Nat) (mode : Nat) (slice : BitVec 6) (qtype : Nat) (m : PathMsg) : State :=
  let x := strandAt s k
  let e := mkEntry mode slice.toNat (eFailed x.entry)
  if x.entry = e then sendPath s qtype m
  else if eMode x.entry = 0 || mode = 0 then sendPath (modStrand s k fun x => { x with entry := e }) qtype m
  else match x.change with
    | some c => if c.entry = e then sendPath s qtype m else startChange s k e (some (BitVec.ofNat 8 qtype, m))
    | none => startChange s k e (some (BitVec.ofNat 8 qtype, m))

/-- A strand without a circuit in either direction goes back to mode 1 (R296): a change to mode 2 that is under way is given up, and
from mode 2 the end that the circuit left by starts the change back. -/
def revertStrand (s : State) (k : Nat) (mine : Bool) : State :=
  let x := strandAt s k
  if x.out.isSome || x.inn.isSome || eFailed x.entry then s
  else match x.change with
    | some c => if eMode c.entry = 2 then dropChange s k else s
    | none =>
      if eMode x.entry = 2 && mine then startChange s k (mkEntry 1 (eSlice x.entry).toNat false) none else s

/-! ### Circuits (R296, R297, R300) -/

/-- The handle of a path (R296). -/
def handleOf (m : PathMsg) : Handle := { node := m.src, strand := BitVec.ofNat 5 (hopStrand (nth 0 m.hops 0)) }

/-- The handle as detail bits [20:0] (R297). -/
def handleWord (h : Handle) : Nat := h.node.toNat + 2 ^ 16 * h.strand.toNat

/-- The number of a hop's axis and direction, which rises along a legal list: X, Y, Z, W, one direction each (R296). -/
def hopsInOrder : List Byte → Bool
  | [] => true
  | [_] => true
  | a :: b :: t =>
    let p := hopStrand a / 4
    let q := hopStrand b / 4
    (p = q || p / 2 < q / 2) && hopsInOrder (b :: t)

/-- Is a strand in a mode that carries circuits of a slice, and not on its way to another (R282, R296)? -/
def carries (x : Strand) (slice : BitVec 6) : Bool :=
  let mode := eMode x.entry
  (mode = 1 || mode = 2 || mode = 3) && eSlice x.entry == slice && !leaving x

/-- The cause for which an output strand cannot carry a circuit of a slice, 0 for none (R296, R297); a port that is absent on this
grade counts as a failed strand (R5; log 77). -/
def outCause (s : State) (slice : BitVec 6) (k : Nat) : Nat :=
  let x := strandAt s k
  if eFailed x.entry || !portUp s (k / 4) then 5
  else if !carries x slice then 1
  else if x.out.isSome then 2
  else if (eMode x.entry = 1 && !keepsPackets s k) || !keepsControl s k then 3
  else 0

/-- The cause for which an input strand cannot carry it. -/
def inCause (s : State) (slice : BitVec 6) (k : Nat) : Nat :=
  let x := strandAt s k
  if eFailed x.entry then 5
  else if !carries x slice then 1
  else if x.inn.isSome then 2
  else 0

/-- The reservation of a path. -/
def resvOf (m : PathMsg) : Resv := { handle := handleOf m, dst := m.dst, slice := m.slice }

/-- An output strand is reserved, a strand that carried packets changes to mode 2 (R296), and the setup goes on. -/
def reserveOut (s : State) (k : Nat) (m : PathMsg) : State :=
  let s := modStrand s k fun x => { x with out := some (resvOf m) }
  if eMode (strandAt s k).entry = 1 then takeMode s k 2 m.slice 0x04 m else sendPath s 0x04 m

/-- A circuit of this module as its source or destination. -/
def circuitAt (s : State) (h : Handle) : Option Circuit := s.fab.circuits.find? fun c => c.handle == h

/-- A circuit changed. -/
def modCircuit (s : State) (h : Handle) (f : Circuit → Circuit) : State :=
  { s with fab := { s.fab with circuits := s.fab.circuits.map fun c => if c.handle == h then f c else c } }

/-- A circuit that this module forgets. -/
def dropCircuit (s : State) (h : Handle) : State :=
  { s with fab := { s.fab with circuits := s.fab.circuits.filter fun c => !(c.handle == h) } }

/-- The reservations that a circuit has at this module are cleared, and its strands go back (R296, R297). -/
def clearResv (s : State) (h : Handle) : State :=
  (List.range 32).foldl (fun s k =>
    let x := strandAt s k
    let mine : Option Resv → Bool := fun r => match r with | some y => y.handle == h | none => false
    if mine x.out || mine x.inn then
      revertStrand (modStrand s k fun x =>
        { x with out := if mine x.out then none else x.out, inn := if mine x.inn then none else x.inn }) k (mine x.out)
    else s) s

/-- The strand on which a circuit leaves this module. -/
def outOf (s : State) (h : Handle) : Option Nat :=
  (List.range 32).find? fun k => match (strandAt s k).out with | some r => r.handle == h | none => false

/-- The strand on which a circuit enters this module. -/
def innOf (s : State) (h : Handle) : Option Nat :=
  (List.range 32).find? fun k => match (strandAt s k).inn with | some r => r.handle == h | none => false

/-- The source's release of a circuit goes along the path (R297, R300); its own reservations clear. -/
def releasePath (s : State) (c : Circuit) : State :=
  let m : PathMsg := { src := c.handle.node, dst := c.dst, slice := c.slice, tag := c.tag, hops := c.hops, pos := 0 }
  clearResv (sendPath s 0x07 m) c.handle

/-- The source opens a circuit (R297): its own hop is checked and reserved, and the setup goes out. The answer is the
cause of a failed check, 0 for none. -/
def openCircuit (s : State) (slice : BitVec 6) (dst : BitVec 16) (hops : List Byte) (tag : BitVec 32) (mirror : Bool) :
    State × Nat :=
  let m : PathMsg := { src := s.fab.node, dst := dst, slice := slice, tag := tag, hops := hops, pos := 0 }
  let k := hopStrand (nth 0 hops 0)
  let inside := match sliceNo s slice.toNat with
    | some d => inSlice s.fab.extent d s.fab.node.toNat && inSlice s.fab.extent d dst.toNat
    | none => false
  let cause := if !inside then 4 else outCause s slice k
  if cause ≠ 0 then (s, cause)
  else
    let c : Circuit :=
      { handle := handleOf m, source := true, slice := slice, dst := dst, hops := hops, isOpen := false, mirror := mirror, tag := tag }
    (reserveOut { s with fab := { s.fab with circuits := s.fab.circuits ++ [c] } } k m, 0)

/-- The detail of a failed opening (R297). -/
def hopDetail (hop cause : Nat) : Word := BitVec.ofNat 64 (hop * 2 ^ 56 + cause * 2 ^ 48)

/-! ### Codewords (R298, R299) -/

/-- A codeword of a circuit with its data, up to 2,000 B. -/
def codewordOf (cseq tag : BitVec 32) (start fin : Bool) (d : List Byte) : Codeword :=
  { cseq := cseq, valid := BitVec.ofNat 16 d.length, flags := BitVec.ofNat 8 (2 * bn start + 4 * bn fin), item := tag,
    crc := BitVec.ofNat 32 (crc32c d), data := d }

/-- The codewords of an item's bytes, 2,000 B each, from `first` on. -/
def codewordsOf (tag : BitVec 32) (first : BitVec 32) (bs : List Byte) : List Codeword :=
  let gs := chunks 2000 (bs.length / 2000 + 1) bs
  (List.range gs.length).map fun i =>
    codewordOf (first + BitVec.ofNat 32 i) tag (i = 0) (decide (i + 1 = gs.length)) (nth [] gs i)

/-- Is a codeword of a source not sent yet? -/
def unsent (c : Circuit) (w : Codeword) : Bool := w.cseq == c.sent || precedes 32 c.sent.toNat w.cseq.toNat

/-- The source sends what its window of 4,096 unacknowledged codewords allows; a quench holds new ones, and so does the
pause of a mirror (R299, R302, R376). Behind them the strand carries idle codewords, for which one output stands (R298). -/
def pumpCircuit (s : State) (h : Handle) : State :=
  match circuitAt s h with
  | none => s
  | some c =>
    let pause := match s.hamper.mirrorTx with | some j => c.mirror && j.paused | none => false
    if s.fab.quench.on || pause then s
    else
      let new := c.staged.filter (unsent c)
      let room := 4096 - (c.staged.length - new.length)
      let go := new.take room
      let l := strandOf h.strand.toNat
      let s := go.foldl (fun s w => emit s (.circuit l (circuitBytes w))) s
      let sent := c.sent + BitVec.ofNat 32 go.length
      emit (modCircuit s h fun c => { c with sent := sent }) (.circuit l (circuitBytes (idleCodeword sent)))

/-- Codewords are staged on a circuit, and go out as its window allows. -/
def stage (s : State) (h : Handle) (tag : BitVec 32) (ws : List Codeword) : State :=
  match ws.getLast? with
  | none => s
  | some w =>
    pumpCircuit (modCircuit s h fun c =>
      { c with cseqTx := w.cseq + 1, staged := c.staged ++ ws, items := c.items ++ [(tag, w.cseq)] }) h

/-- An engine sends an item on a circuit of this module (R298, R299). -/
def sendCircuit (s : State) (h : Handle) (tag : BitVec 32) (bs : List Byte) : State :=
  match circuitAt s h with
  | none => s
  | some c => stage s h tag (codewordsOf tag c.cseqTx bs)

/-- A collective engine sends a block on a circuit of this module, in a codeword of its own (R298, R337; log 90). -/
def sendBlock (s : State) (h : Handle) (tag : BitVec 32) (start fin : Bool) (bs : List Byte) : State :=
  match circuitAt s h with
  | none => s
  | some c => stage s h tag [codewordOf c.cseqTx tag start fin bs]

/-- The body of a circuit acknowledgement: handle, cumulative cseq, and the negative acknowledgement (R299; log 17). -/
def ackBody (c : Circuit) : List Byte :=
  natLe 3 (handleWord c.handle) ++ [BitVec.ofNat 8 (bn c.missing)] ++ natLe 4 (c.cseqRx - 1).toNat ++ natLe 4 c.cseqRx.toNat

/-- The destination sends its acknowledgement (R299). -/
def sendCircuitAck (s : State) (c : Circuit) : State :=
  sendQ (modCircuit s c.handle fun x => { x with sinceAck := 0 }) c.handle.node 0x08 c.slice c.tag (ackBody c)

end Sys2Proof.Machine
end

