-- ==== Sys2Proof/Machine/Collective.lean ====
section
/-! DEFINITION. The collective engines (R324-R339): instructions, ring order, Q8 contributions, scales and items. -/

namespace Sys2Proof.Machine

/-- The fields of a collective instruction (R327). -/
structure CeWord where
  axis    : Nat
  channel : Nat
  policy  : Bool
  fireEn  : Bool
  sF      : Nat
  count   : Nat
  src     : Nat
  fmt     : Nat
  dst     : Nat
  scales  : Nat
  deriving DecidableEq, Repr

/-- The fields of a word (R327). -/
def ceWord (w : BitVec 246) : CeWord :=
  { axis := fld w 244 243, channel := fld w 242 240, policy := fbit w 231, fireEn := fbit w 230, sF := fld w 229 225,
    count := fld w 224 193, src := fld w 191 144, fmt := fld w 143 140, dst := fld w 127 80, scales := fld w 63 16 }

/-- Is an opcode a Q8 collective (R326)? -/
def isQ8 (op : Nat) : Bool := op == 0x200 || op == 0x201

/-- A channel of an engine. -/
def chanAt (s : State) (ax ch : Nat) : Chan := rd {} (rd {} s.ces ax).chans ch

/-- An engine changed. -/
def modEngine (s : State) (ax : Nat) (f : Engine → Engine) : State := { s with ces := upd {} s.ces ax f }

/-- A channel changed. -/
def modChan (s : State) (ax ch : Nat) (f : Chan → Chan) : State :=
  modEngine s ax fun e => { e with chans := upd {} e.chans ch f }

/-- An item of a channel changed. -/
def modCe (s : State) (ax ch : Nat) (number : BitVec 32) (f : CeItem → CeItem) : State :=
  modChan s ax ch fun c => { c with items := c.items.map fun i => if i.number = number then f i else i }

/-! ### Checks at issue (R328) -/

/-- The first byte of a range outside HBM, the LLM window and the mapped far tier. -/
def devOut (s : State) (a n : Nat) : Option Nat :=
  if n = 0 then none
  else match regionAt s a with
    | .hbm => rowOut s 2 a n
    | .llm => rowOut s 3 a n
    | .far => rowOut s 4 a n
    | _ => some a

/-- Bytes of the source of a collective (R327). -/
def ceSrcBytes (op : Nat) (c : CeWord) : Nat :=
  if isQ8 op then (if c.fmt = 0 then 33 else if c.fmt = 3 then 64 else 128) * c.count else 64 * c.count

/-- Bytes of its destination (R327, R336, R338). -/
def ceDstBytes (op n : Nat) (c : CeWord) : Nat :=
  if isQ8 op then 33 * c.count else if op = 0x202 then 64 * c.count * n else 64 * c.count

/-- The checks of a collective instruction (R129, R327, R328). -/
def ceChecks (op : Nat) (s : State) (i : Issue) (w : BitVec 246) : List Check :=
  let c := ceWord w
  let ch := chanAt s c.axis c.channel
  let out := fun (slot a n : Nat) => let r := devOut s a n; ckRange r.isSome slot (r.getD 0)
  let f := (sReg (strm s i.tile i.stream) c.sF).toNat
  reservedChecks w [(244, 243), (242, 240), (239, 238), (237, 232), (231, 231), (230, 230), (229, 225), (224, 193),
    (191, 144), (143, 140), (127, 80), (63, 16)] ++
  [ ckRes (decide (op = 0x202) && c.policy) 231, ckRes (decide (14 ≤ c.fmt)) 143,
    ckRes (!isQ8 op && decide (c.fmt ≠ 0)) 143, ckRes (!isQ8 op && decide (c.scales ≠ 0)) 63,
    ckAbsent (!unitOn s .axis c.axis) .axis c.axis,
    ckFmt (isQ8 op && decide (c.fmt ≠ 0 ∧ c.fmt ≠ 3 ∧ c.fmt ≠ 4)) 1 0 c.fmt,
    ckAlign (decide (c.src % 64 ≠ 0)) 1 c.src, ckAlign (decide (c.dst % 64 ≠ 0)) 2 c.dst,
    ckAlign (decide (c.scales % 64 ≠ 0)) 3 c.scales,
    ckRange (decide (fld w 239 238 = 2 ∧ 31 < fld w 237 232)) 0 (fld w 237 232),
    ckRange (!ch.bound) 0 c.channel, ckRange (c.fireEn && decide (f ≤ (fec s).toNat)) 0 f,
    out 1 c.src (ceSrcBytes op c), out 2 c.dst (ceDstBytes op ch.n c),
    out 3 c.scales (if isQ8 op then 2 * c.count else 0),
    ⟨8, decide (16 ≤ ch.items.length), 0x0C, 7 * 2 ^ 28 + 5 * 2 ^ 25 + c.axis * 2 ^ 23 + c.channel * 2 ^ 20⟩ ]

/-- A collective instruction comes to issue: it draws its Nutmeg values and joins its channel (R328, R329). -/
def ceIssue (op : Nat) (i : Issue) (w : BitVec 246) (s : State) : State :=
  let c := ceWord w
  let t := i.tile.val
  let p := ptileOf s t
  let x := strm s t i.stream
  let it := newItem s t i.stream .collective op w ⟨BitVec.ofNat 2 (fld w 239 238), BitVec.ofNat 6 (fld w 237 232)⟩
  let s := takeSeq s t i.stream
  if c.count = 0 then completeItem s t p it none 0
  else
    let s := if isQ8 op then drawN s t i.stream (32 * c.count) else s
    let s := addItem s t it
    modChan s c.axis c.channel fun h =>
      { h with next := h.next + 1,
               items := h.items ++ [{ tile := i.tile, ptile := p, number := h.next, item := it,
                                      fire := if c.fireEn then some (sReg x c.sF) else none }] }

/-- A collective instruction. -/
def ceInstr (op : Nat) (i : Issue) (w : BitVec 246) (s : State) : Res :=
  done s (issueN s i op w (fun s => ceChecks op s i w) (ceIssue op i w))

/-- `CRS` (R326). -/
def execCrs (i : Issue) (w : BitVec 246) (s : State) : Res := ceInstr 0x200 i w s
/-- `CAR` (R326). -/
def execCar (i : Issue) (w : BitVec 246) (s : State) : Res := ceInstr 0x201 i w s
/-- `CAG` (R338). -/
def execCag (i : Issue) (w : BitVec 246) (s : State) : Res := ceInstr 0x202 i w s
/-- `CXCH` (R338). -/
def execCxch (i : Issue) (w : BitVec 246) (s : State) : Res := ceInstr 0x203 i w s

/-! ### Ring order (R330) -/

/-- The next member in a direction. -/
def ringNext (n q : Nat) (minus : Bool) : Nat := if minus then (q + n - 1) % n else (q + 1) % n

/-- First block and length of a half of a segment. -/
def halfOf (blocks n seg : Nat) (minus : Bool) : Nat × Nat :=
  let a := seg * blocks / n
  let b := (seg + 1) * blocks / n
  let h := (b - a + 1) / 2
  if minus then (a + h, b - a - h) else (a, h)

/-! ### Contributions, hops and scales (R331-R334) -/

/-- The two's-complement value of a mantissa byte. -/
def s8 (x : Nat) : Int := sext 8 (x % 256)

/-- The first failure of an item stays (R339). -/
def ceFail (reason : Nat) (detail : Nat) (i : CeItem) : CeItem :=
  if i.failed.isSome then i else { i with failed := some (BitVec.ofNat 8 reason), fdetail := BitVec.ofNat 64 detail }

/-- The class of the engines' staging traffic (R248). -/
def stageClass : Nat := 2

/-- A read or write of an item met a marked unit: it is told and fails the item (R252, R253, R339). -/
def ceMark (s : State) (ax ch : Nat) (number : BitVec 32) (m : Nat) : State :=
  modCe (noteMark s m) ax ch number (ceFail 0x0D (eccDetail (sourceOf (regionAt s m)) m).toNat)

/-- An item reads a range through the home slices (R235): a marked unit or a link that is down fails it (R253, R263). -/
def ceLook (ax ch : Nat) (number : BitVec 32) (s : State) (r : Nat × Nat) : State :=
  if farDown s r.1 r.2 then modCe s ax ch number (ceFail 0x0B 0)
  else
    let s := touch stageClass false s r.1 r.2
    match devMark s r.1 r.2 with | some m => ceMark s ax ch number m | none => s

/-- An item writes bytes through the home slices (R235, R252, R256, R263). -/
def cePut (s : State) (ax ch : Nat) (number : BitVec 32) (a : Nat) (bs : List Byte) : State :=
  if farDown s a bs.length then modCe s ax ch number (ceFail 0x0B 0)
  else
    let w := devWrite s a bs
    let s := touch stageClass true w.1 a bs.length
    match w.2 with | some m => ceMark s ax ch number m | none => s

/-- Can a range not be read (R253, R263)? -/
def unreadable (s : State) (a n : Nat) : Bool := (devMark s a n).isSome || farDown s a n

/-- The stored scale of a block and whether it is valid (R334). What an entry that cannot be read holds is free (log 88). -/
def scaleEntry (s : State) (c : CeWord) (j : Nat) : Nat × Bool :=
  if unreadable s (c.scales + 2 * j) 2 then ((Config.freeValue s.free).toNat % 256, true)
  else
    let v := leNat (devRead s (c.scales + 2 * j) 2)
    (v % 256, v.testBit 15)

/-- A scale entry written with its valid bit (R334). -/
def putScale (s : State) (ax ch : Nat) (number : BitVec 32) (c : CeWord) (j v : Nat) : State :=
  cePut s ax ch number (c.scales + 2 * j) (natLe 2 (2 ^ 15 + v % 256))

/-- The source bytes of a block: its address and length, and for CK8 its exponent byte's address. -/
def blockSrc (c : CeWord) (j : Nat) : Nat × Nat :=
  if c.fmt = 0 then (c.src + 32 * j, 32) else if c.fmt = 3 then (c.src + 64 * j, 64) else (c.src + 128 * j, 128)

/-- The exact source values of a block (R327, R331). -/
def blockVals (s : State) (c : CeWord) (j : Nat) : List Val :=
  let b := blockSrc c j
  let w := fmtWidth c.fmt / 8
  let e := if c.fmt = 0 then leNat (devRead s (c.src + 32 * c.count + j) 1) else 0
  let bs := devRead s b.1 b.2
  (List.range 32).map fun i => decVal c.fmt (leNat (sub bs (i * w) w)) e false

/-- The ranges that a member reads for a block: its source, its exponent and its scale entry (R327, R334). -/
def blockReads (c : CeWord) (j : Nat) : List (Nat × Nat) :=
  blockSrc c j :: (if c.fmt = 0 then [(c.src + 32 * c.count + j, 1)] else []) ++ [(c.scales + 2 * j, 2)]

/-- Does a read for a block fail (R253, R263, R339)? -/
def blockBad (s : State) (c : CeWord) (j : Nat) : Bool := (blockReads c j).any fun r => unreadable s r.1 r.2

/-- ⌈log₂ (n / d)⌉. -/
def log2C (n d : Nat) : Int :=
  let f := log2F n d
  let p := pow2 f
  if n * p.2 = d * p.1 then f else f + 1

/-- A quotient by 8 rounded up. -/
def ceil8 (x : Int) : Int := -((-x) / 8)

/-- The level byte of a contribution (R331): `m` is the largest finite magnitude, `e` the scale. -/
def levelOf (m : Nat × Nat) (e : Nat) : Nat :=
  if m.1 = 0 then 0
  else
    let p := pow2 ((e : Int) - 133)
    (min 254 (max 1 (log2C ((m.1 * p.2) ^ 8) ((m.2 * p.1) ^ 8) + 160))).toNat

/-- A member's own contribution to block `j` at scale `e` (R331): mantissa bytes and level. -/
def contributionOf (s : State) (it : CeItem) (j e : Nat) : List Nat × Nat :=
  let c := ceWord it.item.w
  if blockBad s c j then (List.replicate 32 0, 255)
  else
    let vs := blockVals s c j
    let i' := { it.item with draw := it.item.draw + BitVec.ofNat 64 (32 * j) }
    let r := toBlock 0 (some e) .sr vs (randoms s it.ptile i' .sr 32)
    let bad := r.2.any fun x => x.ovf || x.pout || x.nf
    (r.2.map (·.bits), if bad then 255 else levelOf (amax vs) e)

/-- add8 of R332. -/
def add8 (a b : Nat) : Nat :=
  if a = 0x80 ∨ b = 0x80 then 0x80 else trunc 8 (min (max (s8 a + s8 b) (-127)) 127)

/-- The weight of element `e` of a half (R333). -/
def elemWeight (e : Nat) : Int := 2 * (e : Int) + 1

/-- Σ w(i) × v(i) over a block that is the `i`-th of its half. -/
def weighted (i : Nat) (vs : List Int) : Int :=
  (List.range vs.length).foldl (fun t k => t + elemWeight (32 * i + k) * nth 0 vs k) 0

/-- hop of R332 on the `i`-th block of a half: the partial result, its level, and what S gains. -/
def hopBlock (i : Nat) (p : List Nat) (lin : Nat) (m : List Nat) (lown : Nat) : List Nat × Nat × Int :=
  let sums := (List.range 32).map fun k => add8 (nth 0 p k) (nth 0 m k)
  if lin = 255 then (sums, 255, 0)
  else
    let val := fun (x : Nat) => if x = 0x80 then 0 else s8 x
    let beyond := (List.range 32).any fun k => 127 < (val (nth 0 p k) + val (nth 0 m k)).natAbs
    if lown = 255 || beyond || p.contains 0x80 || m.contains 0x80 then (sums, 255, -(weighted i (p.map val)))
    else (sums, max lin lown, weighted i (m.map val))

/-- The eighth power of the headroom H of R334. -/
def headroom8 (n : Nat) (worst : Bool) : Nat := if worst || n ≤ 16 then n ^ 8 else 4 ^ 8 * n ^ 4

/-- next_scale of R334. -/
def nextScale (e l n : Nat) (worst : Bool) : Nat :=
  if l = 255 then min (e + 1) 255
  else if l = 0 then e
  else
    let g := log2C (headroom8 n worst) (127 ^ 8)
    (min (max ((e : Int) + ceil8 ((l : Int) - 160 + g)) 0) 255).toNat

/-- The scale of a sized block (R335). -/
def sizedScale (e n : Nat) (worst : Bool) : Nat := (min 255 ((e : Int) + ceil8 (log2C (headroom8 n worst) 1))).toNat

/-- The derived exponent of a member's block (R335); a block whose read fails counts as zero. -/
def derivedOf (s : State) (c : CeWord) (j : Nat) : Nat :=
  if blockBad s c j then 0
  else let m := amax (blockVals s c j); derivedExp 0 m.1 m.2

/-! ### Sending (R337) -/

/-- The op byte of an item's header in a phase (R337). -/
def hopOp (op : Nat) (ph : HopPhase) : Nat :=
  match ph with
  | .sizing => 0x10 | .sizingReturn => 0x10 | .scaleReturn => 0x11
  | _ => op % 16

/-- The item header of a phase (R337). -/
def hopHeader (it : CeItem) (n : Nat) (ph : HopPhase) : BitVec 128 :=
  let c := ceWord it.item.w
  BitVec.ofNat 128 (hopOp it.item.op.toNat ph * 2 ^ 120 + it.number.toNat * 2 ^ 88 + c.count * 2 ^ 56 + n % 64 * 2 ^ 50
    + bn c.policy * 2 ^ 49 + it.item.step.toNat * 2 ^ 17)

/-- The handles of a channel in a direction. -/
def handlesOf (c : Chan) (minus : Bool) : List Handle := if minus then c.minus else c.plus

/-- A block goes out on the ring (R330, R337): block i of a half of `len` blocks on handle i mod h, with the item's number and the
header of the first block. A block of the main pass counts as sent toward the item's end. -/
def sendHop (s : State) (ax ch : Nat) (it : CeItem) (h : Hop) (len : Nat) : State :=
  let c := chanAt s ax ch
  let hs := handlesOf c h.minus
  let lane := h.block % hs.length
  let h := { h with number := it.number.setWidth 16, header := if h.block = 0 then some (hopHeader it c.n h.phase) else none }
  let bs := hopWire h (h.block + 1 = len)
  let s := modCe s ax ch it.number fun i => match h.phase with
    | .sizing => i | .sizingReturn => i | _ => { i with sent := i.sent + 1 }
  let s := modEngine s ax fun e => { e with tx := e.tx + bs.length }
  match hs[lane]? with
  | some d => sendBlock s d (hopTag ch lane h) (decide (h.block < hs.length)) (decide (len ≤ h.block + hs.length)) bs
  | none => s

/-- An item as its channel holds it now. -/
def ceFind (s : State) (ax ch : Nat) (number : BitVec 32) : Option CeItem :=
  (chanAt s ax ch).items.find? fun i => i.number = number

/-- A block of 32 bytes in the low half of a hop's payload. -/
def packBlock (xs : List Nat) : BitVec 512 := BitVec.ofNat 512 (packLanes 8 xs)

/-- The bytes of a hop's payload. -/
def unpackBlock (p : BitVec 512) : List Nat := (List.range 32).map fun k => bitsN p.toNat (8 * k) 8

/-- A running sum of a half gains a number. -/
def addSum (t : Table (BitVec 32)) (key : Nat) (x : Int) : Table (BitVec 32) := upd 0 t key fun v => v + BitVec.ofInt 32 x

/-- The result of a block at a place (R336): mantissas and exponent byte. -/
def writeResult (s : State) (ax ch : Nat) (number : BitVec 32) (c : CeWord) (j e : Nat) (xs : List Nat) : State :=
  let s := cePut s ax ch number (c.dst + 32 * j) (xs.map (BitVec.ofNat 8))
  cePut s ax ch number (c.dst + 32 * c.count + j) [BitVec.ofNat 8 e]

/-- The owner has a block's result (R333, R334, R336): it writes it and the next scale, sends both round, and at the end
of the half compares C with S. -/
def ownBlock (s : State) (ax ch : Nat) (it : CeItem) (seg i : Nat) (minus : Bool) (xs : List Nat) (l : Nat) (sIn : Int) :
    State :=
  let cw := ceWord it.item.w
  let ring := chanAt s ax ch
  let half := halfOf cw.count ring.n seg minus
  let j := half.1 + i
  let e := (scaleEntry s cw j).1
  let nx := nextScale e l ring.n cw.policy
  let key := 2 * seg + bn minus
  let s := putScale (writeResult s ax ch it.number cw j e xs) ax ch it.number cw j nx
  let s := modCe s ax ch it.number fun x =>
    { x with written := x.written + 1, flagged := if l = 255 then insNat j x.flagged else x.flagged,
             checks := if l = 255 then x.checks else addSum x.checks key (weighted i (xs.map s8)) }
  let s := if l = 255 then modEngine s ax fun g => { g with flagged := g.flagged + 1 } else s
  let s := if ring.n = 1 then s
    else sendHop s ax ch it
      { phase := if it.item.op = 0x201 then .gather else .scaleReturn, minus := minus, seg := seg, block := i, number := 0, header := none,
        p := if it.item.op = 0x201 then packBlock xs else 0, level := BitVec.ofNat 8 nx, sum := 0 } half.2
  if i + 1 = half.2 then
    match ceFind s ax ch it.number with
    | some x =>
      if rd 0 x.checks key = rd 0 x.sums key + BitVec.ofInt 32 sIn then s
      else
        let s := modEngine (modCe s ax ch it.number (ceFail 0x0E 0)) ax fun g => { g with csum := tallyAdd g.csum 1 }
        -- no event code names a checksum mismatch: the fault's cause byte is free (log 4)
        dieFault { s with free := s.free + 1 } ((Config.freeValue s.free).toNat % 256)
    | none => s
  else s

/-- A partial block and this member's contribution (R332): the owner keeps the result, another member forwards it. -/
def combineBlock (s : State) (ax ch : Nat) (it : CeItem) (seg i : Nat) (minus : Bool) (p : List Nat) (lin : Nat)
    (sIn : BitVec 32) : State :=
  let cw := ceWord it.item.w
  let ring := chanAt s ax ch
  let half := halfOf cw.count ring.n seg minus
  let j := half.1 + i
  let m := contributionOf s it j (scaleEntry s cw j).1
  let r := hopBlock i p lin m.1 m.2
  let key := 2 * seg + bn minus
  let s := modCe s ax ch it.number fun x => { x with sums := addSum x.sums key r.2.2 }
  let s := (blockReads cw j).foldl (ceLook ax ch it.number) s
  if seg = ring.pos then ownBlock s ax ch it seg i minus r.1 r.2.1 sIn.toInt
  else
    let last := i + 1 = half.2
    let own := match ceFind s ax ch it.number with | some x => rd 0 x.sums key | none => 0
    sendHop s ax ch it
      { phase := .reduce, minus := minus, seg := seg, block := i, number := 0, header := none, p := packBlock r.1,
        level := BitVec.ofNat 8 r.2.1, sum := if last then sIn + own else 0 } half.2

/-- The halves that a member begins: those whose order it is first in (R330). -/
def firstHalves (n pos : Nat) : List (Nat × Bool) :=
  if n = 1 then [(0, false), (0, true)]
  else [((pos + n - 1) % n, false), ((pos + 1) % n, true)]

/-- The main pass of a Q8 item begins: the member's own blocks go out (R330, R332). -/
def startMain (s : State) (ax ch : Nat) (it : CeItem) : State :=
  let ring := chanAt s ax ch
  let cw := ceWord it.item.w
  (firstHalves ring.n ring.pos).foldl (fun s h =>
    (List.range (halfOf cw.count ring.n h.1 h.2).2).foldl (fun s i =>
      combineBlock s ax ch it h.1 i h.2 (List.replicate 32 0) 0 0) s) s

/-- Are all of an item's scale entries valid (R335)? -/
def allSized (s : State) (c : CeWord) : Bool := (List.range c.count).all fun j => (scaleEntry s c j).2

/-- A sizing pass step: the maximum goes on, or at the owner the scale comes back (R335). -/
def sizeBlock (s : State) (ax ch : Nat) (it : CeItem) (seg i : Nat) (minus : Bool) (e : Nat) : State :=
  let cw := ceWord it.item.w
  let ring := chanAt s ax ch
  let half := halfOf cw.count ring.n seg minus
  let j := half.1 + i
  let e := max e (derivedOf s cw j)
  let s := (blockReads cw j).foldl (ceLook ax ch it.number) s
  let hop := fun (ph : HopPhase) (l : Nat) =>
    ({ phase := ph, minus := minus, seg := seg, block := i, number := 0, header := none, p := 0, level := BitVec.ofNat 8 l, sum := 0 } : Hop)
  if seg = ring.pos then
    let sc := sizedScale e ring.n cw.policy
    let old := scaleEntry s cw j
    let s := if old.2 then s else putScale s ax ch it.number cw j sc
    if ring.n = 1 then s else sendHop s ax ch it (hop .sizingReturn (if old.2 then old.1 else sc)) half.2
  else sendHop s ax ch it (hop .sizing e) half.2

/-- When every entry is valid the main pass runs (R335). -/
def mainIfSized (s : State) (ax ch : Nat) (number : BitVec 32) : State :=
  match ceFind s ax ch number with
  | some it =>
    if it.sizing && allSized s (ceWord it.item.w) then
      startMain (modCe s ax ch number fun x => { x with sizing := false }) ax ch { it with sizing := false }
    else s
  | none => s

/-- The sizing pass begins (R335). -/
def startSizing (s : State) (ax ch : Nat) (it : CeItem) : State :=
  let ring := chanAt s ax ch
  let cw := ceWord it.item.w
  let s := (firstHalves ring.n ring.pos).foldl (fun s h =>
    (List.range (halfOf cw.count ring.n h.1 h.2).2).foldl (fun s i => sizeBlock s ax ch it h.1 i h.2 0) s) s
  mainIfSized s ax ch it.number

/-! ### Raw items (R338) -/

/-- Unit `u` of a raw source. -/
def rawUnit (s : State) (c : CeWord) (u : Nat) : BitVec 512 := BitVec.ofNat 512 (leNat (devRead s (c.src + 64 * u) 64))

/-- A raw unit written at its place. -/
def putRaw (s : State) (ax ch : Nat) (number : BitVec 32) (c : CeWord) (off : Nat) (p : BitVec 512) : State :=
  cePut s ax ch number (c.dst + 64 * off) (natLe 64 p.toNat)

/-- A raw item begins: its units go out, and a `CAG` writes its own part (R325, R338). -/
def startRaw (s : State) (ax ch : Nat) (it : CeItem) : State :=
  let ring := chanAt s ax ch
  let c := ceWord it.item.w
  let hop := fun (u : Nat) (minus : Bool) (p : BitVec 512) =>
    ({ phase := .raw, minus := minus, seg := ring.pos, block := u, number := 0, header := none, p := p, level := 0, sum := 0 } : Hop)
  (List.range c.count).foldl (fun s u =>
    let p := if unreadable s (c.src + 64 * u) 64 then 0 else rawUnit s c u
    let s := ceLook ax ch it.number s (c.src + 64 * u, 64)
    let wrote := fun (s : State) (off : Nat) =>
      modCe (putRaw s ax ch it.number c off p) ax ch it.number fun x => { x with written := x.written + 1 }
    if it.item.op = 0x202 then
      let s := wrote s (ring.pos * c.count + u)
      if ring.n = 1 then s
      else sendHop (sendHop s ax ch it (hop u false p) c.count) ax ch it (hop u true p) c.count
    else if ring.n = 1 then wrote s u
    else sendHop s ax ch it (hop u c.policy p) c.count) s

/-! ### The end of an item -/

/-- Blocks or units that a member sends in an item's main pass, and those that it writes (R330, R334, R336, R338). -/
def ceTotals (n pos : Nat) (it : CeItem) : Nat × Nat :=
  let c := ceWord it.item.w
  if isQ8 it.item.op.toNat then
    let halves := (List.range n).flatMap fun k => [(k, false), (k, true)]
    let len := fun (h : Nat × Bool) => (halfOf c.count n h.1 h.2).2
    let red := (halves.filter fun h => h.1 ≠ pos).foldl (fun t h => t + len h) 0
    let ret := (halves.filter fun h => ringNext n pos h.2 ≠ h.1).foldl (fun t h => t + len h) 0
    (if n = 1 then 0 else red + ret, c.count)
  else if it.item.op = 0x202 then (2 * (n - 1) * c.count, c.count + 2 * (n - 1) * c.count)
  else (if n = 1 then 0 else c.count, c.count)

/-- Is a codeword's tag one of a channel's item (R298)? -/
def tagOf (ch : Nat) (number tag : BitVec 32) : Bool :=
  !tag.getLsbD 31 && bitsN tag.toNat 28 3 = ch && tag.setWidth 16 == number.setWidth 16

/-- The circuits that a channel sends on. -/
def chanCircuits (s : State) (c : Chan) : List Circuit := (c.plus ++ c.minus).filterMap (circuitAt s)

/-- Has an item sent its last byte (R329): every block is staged, and none waits on its circuit? -/
def ceSent (s : State) (ax ch : Nat) (it : CeItem) : Bool :=
  let c := chanAt s ax ch
  it.started && (ceTotals c.n c.pos it).1 ≤ it.sent &&
    (chanCircuits s c).all fun x => !x.staged.any fun w => tagOf ch it.number w.item && unsent x w

/-- Has an item also written its last result byte (R339)? -/
def ceWritten (s : State) (ax ch : Nat) (it : CeItem) : Bool :=
  let c := chanAt s ax ch
  ceSent s ax ch it && (ceTotals c.n c.pos it).2 ≤ it.written

/-- Is every byte that the item sent acknowledged as well (R299, R339)? -/
def ceFinished (s : State) (ax ch : Nat) (it : CeItem) : Bool :=
  ceWritten s ax ch it && (chanCircuits s (chanAt s ax ch)).all fun x => !x.items.any fun i => tagOf ch it.number i.1

/-- An item leaves its channel: overflow log entries of its flagged blocks, its record of kind 2, its completion signal, and
the die fault of a failed read (R336, R339, R418, R436). -/
def ceComplete (s : State) (ax ch : Nat) (it : CeItem) : State :=
  let t := it.tile.val
  let i := it.item
  let s := modChan s ax ch fun c => { c with items := c.items.filter fun x => x.number ≠ it.number }
  let s := modEngine s ax fun e => { e with items := e.items + 1 }
  let s := if isQ8 i.op.toNat then appendOverflow s t i 4 it.flagged else s
  let s := dropItem s t i.stream i.seq
  let s := record s { kind := 2, done := it.failed.isNone, space := 0, reason := it.failed.getD 0,
                      who := BitVec.ofNat 32 (ax + 4 * ch), number := it.number, detail := it.fdetail, fec := fec s }
  let s := fireCsig s t it.ptile i
  let s := if it.failed = some 0x0D then dieFault s 0x05 else s
  finishDrain (chainStop s t)

/-! ### Commands -/

/-- The lines that an item of a collective reads and writes are snooped first (R394). -/
def ceGate (n : Nat) (it : CeItem) (s s' : State) : State :=
  let c := ceWord it.item.w
  let sc := if isQ8 it.item.op.toNat then [(c.scales, 2 * c.count)] else []
  snoopGate ([(c.src, ceSrcBytes it.item.op.toNat c)] ++ sc) ([(c.dst, ceDstBytes it.item.op.toNat n c)] ++ sc) s s'

/-- `COLLECTIVE_ITEM_START` (R329, R335, R346): the first item not started starts once its predecessors have sent their
last byte, and with an epoch in the cycle in which the counter reaches it; if a predecessor is still sending then, it
completes FAILED. None starts in `CHECKPOINT` (R37). -/
def execCollectiveItemStart (ax : Fin 4) (ch : Fin 8) (s : State) : Res :=
  let c := chanAt s ax ch
  done s (match c.items.find? fun i => !i.started with
    | none => s
    | some it =>
      if s.firm.state == .checkpoint || s.firm.held then s
      else
        let free := (c.items.filter fun i => i.started).all (ceSent s ax ch)
        let due := match it.fire with | some f => decide (f.toNat ≤ (fec s).toNat) | none => true
        if !due then s
        else if !free then
          if it.fire.isSome then ceComplete s ax ch (ceFail 0x03 (2 ^ 31) it) else s
        else
          ceGate c.n it s <|
          let it := { it with started := true, sizing := isQ8 it.item.op.toNat && !allSized s (ceWord it.item.w) }
          let s := modCe s ax ch it.number fun _ => it
          if it.sizing then startSizing s ax ch it
          else if isQ8 it.item.op.toNat then startMain s ax ch it
          else startRaw s ax ch it)

/-- The item that a received block belongs to: the started one of its number, else the oldest that still receives
(R337). -/
def hopItem (s : State) (ax ch : Nat) (h : Hop) : Option CeItem :=
  let open_ := (chanAt s ax ch).items.filter fun i => i.started && !ceWritten s ax ch i
  match open_.find? fun i => i.number.setWidth 16 == h.number with
  | some i => some i
  | none => open_.head?

/-- Does a received header differ from the member's own item in op, number, count, N or policy (R337)? -/
def headerDiffers (c : Chan) (it : CeItem) (h : Hop) : Bool :=
  match h.header with
  | some x => bitsN (hopHeader it c.n h.phase).toNat 49 79 ≠ bitsN x.toNat 49 79
  | none => false

/-- Does the ring's next member still take a returned block: not the owner itself (R334, R336)? -/
def returnsOn (c : Chan) (h : Hop) : Bool := ringNext c.n c.pos h.minus ≠ h.seg

/-- A block that comes back from its owner (R334, R336): a `CAR` result and the next scale. -/
def takeReturn (s : State) (ax ch : Nat) (it : CeItem) (h : Hop) : State :=
  let cw := ceWord it.item.w
  let c := chanAt s ax ch
  let half := halfOf cw.count c.n h.seg h.minus
  let j := half.1 + h.block
  let s := if h.phase = .gather then writeResult s ax ch it.number cw j (scaleEntry s cw j).1 (unpackBlock h.p) else s
  let s := modCe (putScale s ax ch it.number cw j h.level.toNat) ax ch it.number fun x => { x with written := x.written + 1 }
  if returnsOn c h then sendHop s ax ch it h half.2 else s

/-- A scale that comes back in a sizing pass (R335). -/
def takeSize (s : State) (ax ch : Nat) (it : CeItem) (h : Hop) : State :=
  let cw := ceWord it.item.w
  let c := chanAt s ax ch
  let half := halfOf cw.count c.n h.seg h.minus
  let j := half.1 + h.block
  let s := if (scaleEntry s cw j).2 then s else putScale s ax ch it.number cw j h.level.toNat
  if returnsOn c h then sendHop s ax ch it h half.2 else s

/-- A raw unit (R338): a `CAG` writes it at its member's part and sends it on, a `CXCH` writes it. -/
def takeRaw (s : State) (ax ch : Nat) (it : CeItem) (h : Hop) : State :=
  let cw := ceWord it.item.w
  let c := chanAt s ax ch
  let count := fun (s : State) => modCe s ax ch it.number fun x => { x with written := x.written + 1 }
  if it.item.op = 0x202 then
    let s := count (putRaw s ax ch it.number cw (h.seg * cw.count + h.block) h.p)
    if returnsOn c h then sendHop s ax ch it h cw.count else s
  else if h.minus = cw.policy then count (putRaw s ax ch it.number cw h.block h.p) else s

/-- Is a received block one of its half, or of its member's part? -/
def hopInRange (c : Chan) (it : CeItem) (h : Hop) : Bool :=
  let cw := ceWord it.item.w
  decide (h.seg < c.n) && (match h.phase with
    | .raw => decide (h.block < cw.count) && !isQ8 it.item.op.toNat && decide (h.seg ≠ c.pos)
    | _ => decide (h.block < (halfOf cw.count c.n h.seg h.minus).2) && isQ8 it.item.op.toNat)

/-- The received block that is next for its item: the blocks of a half are taken in ascending order (R330). -/
def nextHop (s : State) (ax ch : Nat) : Option (Hop × CeItem) :=
  (chanAt s ax ch).rx.findSome? fun h =>
    (hopItem s ax ch h).bind fun it => if rd 0 it.taken (hopKey h) = h.block then some (h, it) else none

/-- A block that has come takes its effect (R332-R338). -/
def takeHop (s : State) (ax ch : Nat) (it : CeItem) (h : Hop) : State :=
  let c := chanAt s ax ch
  let s := if headerDiffers c it h then modCe s ax ch it.number (ceFail 0x0A 0) else s
  if c.n ≤ 1 || !hopInRange c it h then s
  else match h.phase with
    | .reduce => if ringNext c.n h.seg h.minus = c.pos then s
        else combineBlock s ax ch it h.seg h.block h.minus (unpackBlock h.p) h.level.toNat h.sum
    | .gather => takeReturn s ax ch it h
    | .scaleReturn => takeReturn s ax ch it h
    | .sizing => mainIfSized (sizeBlock s ax ch it h.seg h.block h.minus h.level.toNat) ax ch it.number
    | .sizingReturn => mainIfSized (takeSize s ax ch it h) ax ch it.number
    | .raw => takeRaw s ax ch it h

/-- `COLLECTIVE_HOP` (R330, R332-R338): the next block that the channel's circuits have brought. -/
def execCollectiveHop (ax : Fin 4) (ch : Fin 8) (s : State) : Res :=
  done s (match nextHop s ax ch with
    | none => s
    | some (h, it) =>
      ceGate (chanAt s ax ch).n it s <|
      let s := modChan s ax ch fun c => { c with rx := c.rx.erase h }
      let s := modCe s ax ch it.number fun x => { x with taken := upd 0 x.taken (hopKey h) (· + 1) }
      takeHop s ax ch it h)

/-- `COLLECTIVE_ITEM_COMPLETE` (R339): the oldest finished item of a channel, every byte of it acknowledged. -/
def execCollectiveItemComplete (ax : Fin 4) (ch : Fin 8) (s : State) : Res :=
  done s (match (chanAt s ax ch).items.find? (ceFinished s ax ch) with
    | some it => ceComplete s ax ch it
    | none => s)

/-- `COLLECTIVE_TIMEOUT` (R339): no byte of the item has come for `CE.TIMEOUT`. -/
def execCollectiveTimeout (ax : Fin 4) (ch : Fin 8) (s : State) : Res :=
  let c := chanAt s ax ch
  done s (match c.items.find? fun i => i.started && !ceWritten s ax ch i with
    | some it => if c.n ≤ 1 then s else ceComplete s ax ch (ceFail 0x0F 0 it)
    | none => s)

/-- A codeword of a circuit from a ring neighbour brings a block to its channel's engine (R298, R337): the codewords of a transfer are
counted from its item start. -/
def deliverBlock (s : State) (ax : Nat) (x : Circuit) (w : Codeword) : State :=
  let t := w.item.toNat
  let ch := bitsN t 28 3
  let count := if w.flags.getLsbD 1 then 0 else rd 0 x.counts t
  let h := (handlesOf (chanAt s ax ch) (t.testBit 27)).length
  let s := modCircuit s x.handle fun x => { x with counts := wr 0 x.counts t (count + 1) }
  let s := modEngine s ax fun e => { e with rx := e.rx + w.valid.toNat }
  modChan s ax ch fun c => { c with rx := c.rx ++ [hopOf w.item (bitsN t 16 2 + h * count) (w.data.take w.valid.toNat)] }

end Sys2Proof.Machine
end

