-- ==== Sys2Proof/Machine/Sha3.lean ====
section
/-! DEFINITION. SHA3-512, the public digest that R368, R426 and R434 name. -/

namespace Sys2Proof.Machine

/-- A 64-bit lane rotated left. -/
def rotLane (x r : Nat) : Nat := (x * 2 ^ r) % 2 ^ 64 + x / 2 ^ (64 - r)

/-- Rotation of each lane, in the order x + 5 y. -/
def keccakRot : List Nat :=
  [0, 1, 62, 28, 27, 36, 44, 6, 55, 20, 3, 10, 43, 25, 39, 41, 45, 15, 21, 8, 18, 2, 61, 56, 14]

/-- The constants of the 24 rounds. -/
def keccakRc : List Nat :=
  [0x0000000000000001, 0x0000000000008082, 0x800000000000808A, 0x8000000080008000, 0x000000000000808B,
   0x0000000080000001, 0x8000000080008081, 0x8000000000008009, 0x000000000000008A, 0x0000000000000088,
   0x0000000080008009, 0x000000008000000A] ++
  [0x000000008000808B, 0x800000000000008B, 0x8000000000008089, 0x8000000000008003, 0x8000000000008002,
   0x8000000000000080, 0x000000000000800A, 0x800000008000000A, 0x8000000080008081, 0x8000000000008080,
   0x0000000080000001, 0x8000000080008008]

/-- One round on the 25 lanes. -/
def keccakRound (a : List Nat) (rc : Nat) : List Nat :=
  let at_ := fun (l : List Nat) (i : Nat) => nth 0 l i
  let c := (List.range 5).map fun x => at_ a x ^^^ at_ a (x + 5) ^^^ at_ a (x + 10) ^^^ at_ a (x + 15) ^^^ at_ a (x + 20)
  let d := (List.range 5).map fun x => at_ c ((x + 4) % 5) ^^^ rotLane (at_ c ((x + 1) % 5)) 1
  let t := (List.range 25).map fun i => rotLane (at_ a i ^^^ at_ d (i % 5)) (at_ keccakRot i)
  let b := (List.range 25).map fun i => at_ t ((i % 5 + 3 * (i / 5)) % 5 + 5 * (i % 5))
  (List.range 25).map fun i =>
    let y := i / 5 * 5
    let v := at_ b i ^^^ ((2 ^ 64 - 1 - at_ b (y + (i + 1 - y) % 5)) &&& at_ b (y + (i + 2 - y) % 5))
    if i = 0 then v ^^^ rc else v

/-- The permutation. -/
def keccakF (a : List Nat) : List Nat := keccakRc.foldl keccakRound a

/-- One block of 72 bytes is absorbed. -/
def absorb (a : List Nat) (block : List Byte) : List Nat :=
  keccakF ((List.range 25).map fun i => if i < 9 then nth 0 a i ^^^ leNat (sub block (8 * i) 8) else nth 0 a i)

/-- The padding of SHA3 to whole blocks of 72 bytes. -/
def sha3Pad (n : Nat) : List Byte :=
  let k := 72 - n % 72
  if k = 1 then [0x86] else [0x06] ++ List.replicate (k - 2) 0 ++ [0x80]

/-- The SHA3-512 digest of bytes, 64 bytes. -/
def sha3 (bs : List Byte) : List Byte :=
  let m := bs ++ sha3Pad bs.length
  let a := (chunks 72 (m.length / 72) m).foldl absorb (List.replicate 25 0)
  (List.range 8).flatMap fun i => natLe 8 (nth 0 a i)

/-- The digest as a number whose byte 0 is the lowest. -/
def sha3Word (bs : List Byte) : BitVec 512 := BitVec.ofNat 512 (leNat (sha3 bs))

end Sys2Proof.Machine
end

