-- ==== Sys2Proof/Machine/HamperOps.lean ====
section
/-! DEFINITION. The Hamper's blocks and journal (R354-R363, R378), generations and their extents (R367-R371), reports to
the anchor (R370, R375) and the end of a mirror (R376). -/

namespace Sys2Proof.Machine

/-! ### Blocks (R354, R359-R363) -/

/-- The number of a block: ((channel × 4 + die) × 4 + plane) × 2,732 + block. -/
def blockKey (b : BlockId) : Nat := ((b.channel.val * 4 + b.die.val) * 4 + b.plane.val) * 2732 + b.block.val

/-- Blocks of a channel. -/
def chanBlocks : Nat := 16 * 2732

/-- Blocks that hold no generation data: block 0 of each die (R359), and blocks 1-32 of die 0 and plane 0 on channels 0
and 16, which hold the journal's chains (R354, R378; log 19). -/
def isKept (k : Nat) : Bool :=
  let b := k % 2732
  let pl := k / 2732 % 4
  let dieNo := k / (4 * 2732) % 4
  (b = 0 && pl = 0) || ((k / chanBlocks = 0 || k / chanBlocks = 16) && dieNo = 0 && pl = 0 && 1 ≤ b && b ≤ 32)

/-- A block's state. -/
def blockAt (s : State) (k : Nat) : Block := rd {} s.hamper.blocks k

/-- The Hamper changed. -/
def modHamper (s : State) (f : Hamper → Hamper) : State := { s with hamper := f s.hamper }

/-- The Hamper's state once its work is over: ready, or read-only as before (R366, R388). -/
def idleState (h : Hamper) : BitVec 3 := if h.state = 4 then 4 else 1

/-- A block changed. -/
def modBlock (s : State) (k : Nat) (f : Block → Block) : State :=
  modHamper s fun h => { h with blocks := upd {} h.blocks k f }

/-- Free in-service blocks, f of R363. -/
def freeBlocks (s : State) : Nat :=
  1398784 - 64 - s.factoryBad.toNat - (s.hamper.blocks.filter fun e => e.2.bad || e.2.mode ≠ 0).length

/-- The staging space in bytes (R363). -/
def stagingSpace (s : State) : Nat := min (2 ^ 40) (0x400000 * (freeBlocks s - 16384))

/-- Blocks in pSLC mode. -/
def slcBlocks (s : State) : Nat := (s.hamper.blocks.filter fun e => e.2.mode = 2).length

/-- The mode in which a write takes new blocks: staging while it has room, TLC else (R363). -/
def writeMode (s : State) : BitVec 2 := if 0 < stagingSpace s && slcBlocks s < 2 ^ 18 then 2 else 1

/-- The free block of lowest wear on a channel (R360), the lowest-numbered one among equals. -/
def lowestWear (s : State) (ch : Nat) : Option Nat :=
  (List.range chanBlocks).foldl (fun m i =>
    let k := ch * chanBlocks + i
    let b := blockAt s k
    if b.mode = 0 && !b.bad && !isKept k then
      match m with
      | none => some k
      | some j => if b.wear < (blockAt s j).wear then some k else m
    else m) none

/-- Pages of a block in a mode (R354). -/
def blockPages (mode : BitVec 2) : Nat := if mode = 2 then 256 else 768

/-- A block is taken for writing: the counter at its first program is recorded (R362). -/
def takeBlock (s : State) (k : Nat) (mode : BitVec 2) : State :=
  modBlock s k fun b => { b with mode := mode, epoch := fec s, reads := 0, rebuilt := 0 }

/-- Wear of one erase in a mode (R360). -/
def eraseUnits (mode : BitVec 2) : Nat := if mode = 2 then 1 else 10

/-- A `BLOCK_RETIRE` body: channel, die, plane and block, 2 B each (R378). -/
def retireBody (k : Nat) : List Byte :=
  natLe 2 (k / chanBlocks) ++ natLe 2 (k / (4 * 2732) % 4) ++ natLe 2 (k / 2732 % 4) ++ natLe 2 (k % 2732)

/-! ### The journal (R378) -/

/-- The counter as the journal records it: 0 before time lock. -/
def journalTime (s : State) : Word := if s.time.state.toNat < 2 then 0 else fec s

/-- A record is appended to both chains. -/
def appendJ (s : State) (type reason index : Nat) (gen : BitVec 32) (body : List Byte) : State :=
  modHamper s fun h =>
    { h with jnum := h.jnum + 1,
             journal := h.journal ++ [{ number := h.jnum, type := BitVec.ofNat 8 type, reason := BitVec.ofNat 8 reason,
                                        index := BitVec.ofNat 16 index, gen := gen, fec := journalTime s,
                                        body := body.take 100 ++ List.replicate (100 - body.length) 0 }] }

/-- Is a journal record live: of a generation or mirror copy that this module holds, or of a retired block (R378)? -/
def isLive (s : State) (r : JRec) : Bool :=
  r.type = 0x09 || ((r.type ≠ 0x06 && r.type ≠ 0x0A && r.type ≠ 0x0B) &&
    ((s.hamper.gens ++ s.hamper.mirrors).any fun e => e.1 = r.gen.toNat))

/-- A block is retired: grown bad, and recorded (R359). -/
def retireBlock (s : State) (k : Nat) : State :=
  let s := modBlock s k fun b => { b with bad := true, mode := 0, pages := [] }
  let s := modHamper s fun h =>
    { h with grownBad := h.grownBad + 1, openBlocks := h.openBlocks.filter fun x => x ≠ k,
             refresh := h.refresh.filter fun x => x ≠ k }
  appendJ s 0x09 0 0 0 (retireBody k)

/-- A block is erased: it is free again with its wear risen, or retired at 30,000 units (R360). -/
def eraseBlock (s : State) (k : Nat) : State :=
  let b := blockAt s k
  let w := b.wear + eraseUnits b.mode
  let s := modHamper s fun h =>
    { h with refresh := h.refresh.filter fun x => x ≠ k, openBlocks := h.openBlocks.filter fun x => x ≠ k }
  let s := modBlock s k fun b => { b with mode := 0, wear := w, reads := 0, rebuilt := 0, pages := [], epoch := 0 }
  if 30000 ≤ w then retireBlock s k else s

/-- The blocks that the next stripe fills, one on each channel: new ones of lowest wear where the open ones are full
(R357, R360, R363). No answer where a channel has no free block. -/
def openStripe (s : State) : Option State :=
  let h := s.hamper
  let full := match h.openBlocks with
    | [] => true
    | k :: _ => decide (blockPages (blockAt s k).mode ≤ h.fill)
  if !full then some s
  else
    let ks := (List.range 32).filterMap (lowestWear s)
    if ks.length < 32 then none
    else
      let mode := writeMode s
      let s := ks.foldl (fun s k => takeBlock s k mode) s
      some (modHamper s fun h => { h with openBlocks := ks, fill := 0 })

/-- The channel that holds the parity page of a stripe (R357). -/
def parityChannel (stripe : Nat) : Nat := 31 - stripe % 32

/-- The channel of a stripe's data page `j`, 0 to 30, in channel order (R357). -/
def dataChannel (stripe j : Nat) : Nat := if j < parityChannel stripe then j else j + 1

/-- A page of the open stripe is programmed on a channel. -/
def programPage (s : State) (ch : Nat) (p : FlashPage) : State :=
  match s.hamper.openBlocks[ch]? with
  | some k => modBlock s k fun b => { b with pages := insKey s.hamper.fill p (delKey s.hamper.fill b.pages) }
  | none => s

/-- The open stripe takes its parity page and is done (R357). -/
def parityPage (s : State) : State :=
  let h := s.hamper
  modHamper (programPage s (parityChannel h.stripe) ⟨h.owner, h.stripe, .parity⟩) fun h =>
    { h with fill := h.fill + 1, stripe := h.stripe + 1, slot := 0 }

/-- The open stripe is closed with pages of zero (R357, R379). -/
def closeStripe (s : State) : State :=
  let h := s.hamper
  if h.slot = 0 then s
  else parityPage ((List.range (31 - h.slot)).foldl (fun s i =>
    programPage s (dataChannel h.stripe (h.slot + i)) ⟨h.owner, h.stripe, .zeros⟩) s)

/-- The next page of the open stripe is programmed; a stripe begins where none is open (R357). -/
def programNext (who index offset : Nat) (s : State) : Option State :=
  (if s.hamper.slot = 0 then openStripe s else some s).map fun s =>
    let h := s.hamper
    let s := modHamper (programPage s (dataChannel h.stripe h.slot) ⟨who, h.stripe, .data index offset⟩) fun h =>
      { h with slot := h.slot + 1, owner := who }
    if s.hamper.slot = 31 then parityPage s else s

/-- The data bytes of a page (R354). -/
def pageSize : Nat := 16384

/-- `n` pages of an extent are programmed, from page `i` on (R357). -/
def programPages (who index : Nat) : Nat → Nat → State → Option State
  | 0, _, s => some s
  | n + 1, i, s => (programNext who index (pageSize * i) s).bind fun s => programPages who index n (i + 1) s

/-- The key under which a block's list names a generation: odd for a mirror copy. -/
def ownerKey (gen : BitVec 32) (mirror : Bool) : Nat := 2 * gen.toNat + bn mirror

/-- An extent's bytes are programmed from a page boundary on: its first stripe, or no answer where no block is left (R357, R363, R387). A
stripe belongs to one generation (log 92). -/
def programExtent (s : State) (gen : BitVec 32) (mirror : Bool) (index len : Nat) : Option (State × Nat) :=
  let who := ownerKey gen mirror
  let s := if s.hamper.owner = who then s else closeStripe s
  let first := s.hamper.stripe
  (programPages who index ((len + pageSize - 1) / pageSize) 0 s).map fun s =>
    (modHamper s fun h => { h with bytesW := h.bytesW + len, lifeW := h.lifeW + len }, first)

/-- The blocks that hold nothing valid any more are erased, but those being filled. -/
def eraseEmpty (s : State) : State :=
  ((s.hamper.blocks.filter fun e => e.2.mode ≠ 0 && e.2.pages.isEmpty && !s.hamper.openBlocks.contains e.1).map (·.1)).foldl
    eraseBlock s

/-! ### Extents (R368) -/

/-- The size of a context image (R30). -/
def ctxImageSize : Nat := 4160 * 1024

/-- A region cut into extents of 256 MiB (R368). -/
def cutRegion (kind : Nat) (base : Nat) : Nat → Nat → List Extent
  | 0, _ => []
  | n + 1, len =>
    if len = 0 then []
    else
      let m := min len 0x10000000
      { kind := BitVec.ofNat 8 kind, source := base, len := m } :: cutRegion kind (base + m) n (len - m)

/-- Length of a manifest over `n` extents (R369). -/
def manifestLen (n : Nat) : Nat := 8192 + 128 * n

/-- The extents of a generation of the loaded program, the manifest last (R368, R373). -/
def planExtents (g : Prog) : List Extent :=
  let die : Extent := { kind := 1, source := 0, len := 0x10000 }
  let ctx := (List.range g.p).map fun p => ({ kind := 2, source := p, len := ctxImageSize } : Extent)
  let llm := (List.range 256).filterMap fun w =>
    if (nth 0 g.ckptLlm (w / 16)).getLsbD (w % 16) then some ({ kind := 3, source := w, len := wayGroup } : Extent) else none
  let far := fun (r : Nat × Nat) => farBase ≤ r.1
  let reg := g.ckpt.flatMap fun r => cutRegion (if far r then 5 else 4) r.1 (r.2 / 0x10000000 + 1) r.2
  let all := die :: ctx ++ llm ++ reg
  all ++ [{ kind := 0x0F, source := 0, len := manifestLen all.length }]

/-- The device address of an extent's source (R368). -/
def extAddr (x : Extent) : Nat := if x.kind = 3 then llmBase + x.source * wayGroup else x.source

/-- The bytes of an extent (R368; log 18). -/
def extBytes (x : Extent) : List Byte :=
  if x.kind = 1 then (match x.die with | some d => Config.dieImage d | none => rdBytes x.data 0 x.len)
  else if x.kind = 2 then (match x.ctx with | some c => Config.contextImage c | none => rdBytes x.data 0 x.len)
  else rdBytes x.data 0 x.len

/-- The tile in which a context lies, with its scratchpad's window (R257), unless it is set aside. -/
def imageTile (s : State) (p : Nat) : Option Nat :=
  let d := devTile s p
  if (tileAt s d).loaded = some p then some d else none

/-- The marked unit at which the source of an extent cannot be read (R225, R237, R253, R373). -/
def extMark (s : State) (x : Extent) : Option Nat :=
  if x.kind = 1 then none
  else if x.kind = 2 then
    (imageTile s x.source).bind fun d => (ctxOf s x.source).spUe.head?.map (· + spBase + d * spSize)
  else devMark s (extAddr x) x.len

/-- Can the source of an extent not be read (R225, R237, R253, R263, R373)? -/
def extError (s : State) (x : Extent) : Bool :=
  if x.kind = 1 then false
  else if x.kind = 2 then
    let c := ctxOf s x.source
    !c.spUe.isEmpty || !c.vBad.isEmpty
  else (devMark s (extAddr x) x.len).isSome || farDown s (extAddr x) x.len

/-- Does an address lie in the source of an extent? -/
def extHolds (s : State) (x : Extent) (a : Nat) : Bool :=
  if x.kind = 1 then false
  else if x.kind = 2 then
    match imageTile s x.source with
    | some d => decide (spBase + d * spSize ≤ a) && decide (a < spBase + d * spSize + spSize)
    | none => false
  else decide (extAddr x ≤ a) && decide (a < extAddr x + x.len)

/-- The controller's read of an extent's source passes through the home slices in P3, and a marked unit that it meets is told (R248,
R253, R355). -/
def readSource (s : State) (x : Extent) : State :=
  let s := if x.kind = 4 ∨ x.kind = 5 then touch 3 false s x.source x.len else s
  match extMark s x with | some m => noteMark s m | none => s

/-- An extent with what its source holds now. -/
def readExtent (s : State) (x : Extent) : Extent :=
  let x :=
    if x.kind = 1 then
      { x with die := some { cluster := s.cluster, die := s.dieSync, trees := s.trees, samples := s.samples } }
    else if x.kind = 2 then { x with ctx := some (ctxOf s x.source) }
    else { x with data := sliceRange s.mem.dev (extAddr x) x.len }
  { x with digest := sha3Word (extBytes x) }

/-- Can a restore not write an extent into its place: a retired granule or a link that is down (R256, R263; log 93)? -/
def loadFails (s : State) (x : Extent) : Bool :=
  (x.kind = 4 ∨ x.kind = 5) && (!(retiredIn s x.source x.len).isEmpty || farDown s x.source x.len)

/-- What a restore does with an extent (R382): context images go to the tiles and the save slots, regions through the home slices in P3
(R235, R248). -/
def loadExtent (s : State) (x : Extent) : State :=
  if x.kind = 1 then
    match x.die with
    | some d => { s with cluster := d.cluster, dieSync := d.die, trees := d.trees, samples := d.samples }
    | none => s
  else if x.kind = 2 then
    match x.ctx with
    | some c => if (imageTile s x.source).isSome then modCtxOf s x.source fun _ => c else setAside s x.source c
    | none => s
  else if x.kind = 0x0F then s
  else
    let a := extAddr x
    let s := if x.kind = 3 then s else touch 3 true s a x.len
    { s with mem := { s.mem with
      dev := x.data.foldl (fun t e => wr 0 t (a + e.1) e.2) (clearRange s.mem.dev a x.len),
      poison := dropRange s.mem.poison a x.len, ue := dropRange s.mem.ue a x.len } }

/-! ### Generations and manifests (R367, R369, R370) -/

/-- A generation that this module holds. -/
def genAt (s : State) (g : BitVec 32) : Option Gen := (s.hamper.gens.find? fun e => e.1 = g.toNat).map (·.2)
/-- A mirror copy that it holds. -/
def mirrorAt (s : State) (g : BitVec 32) : Option Gen := (s.hamper.mirrors.find? fun e => e.1 = g.toNat).map (·.2)

/-- A generation changed. -/
def modGen (s : State) (g : BitVec 32) (f : Gen → Gen) : State :=
  modHamper s fun h => { h with gens := h.gens.map fun e => if e.1 = g.toNat then (e.1, f e.2) else e }
/-- A mirror copy changed. -/
def modMirror (s : State) (g : BitVec 32) (f : Gen → Gen) : State :=
  modHamper s fun h => { h with mirrors := h.mirrors.map fun e => if e.1 = g.toNat then (e.1, f e.2) else e }

/-- An extent of a generation changed. -/
def setExtent (g : Gen) (i : Nat) (x : Extent) : Gen := { g with extents := setNth g.extents i x }

/-- The codes of R370 in table order. -/
def genCode : GenState → Nat
  | .writing => 0 | .local_ => 1 | .complete => 2 | .mirrored => 3 | .incomplete => 4 | .mirrorWriting => 5
  | .mirrorHeld => 6 | .mirrorFailed => 7

/-- The state of a code. -/
def genOfCode (n : Nat) : GenState :=
  match n with
  | 0 => .writing | 1 => .local_ | 2 => .complete | 3 => .mirrored | 4 => .incomplete | 5 => .mirrorWriting
  | 6 => .mirrorHeld | _ => .mirrorFailed

/-- Extents of a generation without its manifest. -/
def dataExtents (g : Gen) : List Extent := g.extents.take (g.extents.length - 1)

/-- Bytes of a generation. -/
def genBytes (g : Gen) : Nat := g.extents.foldl (fun n x => n + x.len) 0

/-- Manifest entry bytes (R369). -/
def entryOf (i : Nat) (x : Extent) : List Byte :=
  let b := [x.kind, x.status, 0, 0] ++ natLe 4 i ++ natLe 8 x.source ++ natLe 8 x.len ++ natLe 8 x.stripe
    ++ natLe 64 x.digest.toNat ++ List.replicate 28 0
  b ++ natLe 4 (crc32c b)

/-- All manifest entries. -/
def manifestEntries (g : Gen) : List Byte :=
  let xs := dataExtents g
  (List.range xs.length).flatMap fun i => entryOf i (nth { kind := 0, source := 0, len := 0 } xs i)

/-- The first 96 bytes of the manifest header, with the release epoch and count after them: bytes 0-123 (R369). -/
def manifestHead (s : State) (n : BitVec 32) (g : Gen) : List Byte :=
  let d := ownSlice s
  let total := (dataExtents g).foldl (fun t x => t + x.len) 0
  natLe 4 0x4B434D48 ++ natLe 4 n.toNat ++ natLe 8 s.serial.toNat ++ [s.grade.setWidth 8, d.number.setWidth 8]
    ++ (List.range 4).map (fun a => BitVec.ofNat 8 (nth 0 d.start a)) ++ [0]
    ++ (List.range 4).map (fun a => BitVec.ofNat 8 (nth 1 d.ext a)) ++ [0]
    ++ (List.range 4).map (fun a => BitVec.ofNat 8 (nth 0 g.coords a))
    ++ natLe 64 g.image.toNat ++ natLe 8 g.seed.toNat ++ natLe 8 g.epoch.toNat
    ++ natLe 4 (dataExtents g).length ++ natLe 8 total

/-- A manifest: header and entries (R369); `sign` where the export mark is set. -/
def manifestBytes (s : State) (n : BitVec 32) (g : Gen) (sign mirrorCopy : Bool) : List Byte :=
  let es := manifestEntries g
  let h := manifestHead s n g ++ [g.buddy, BitVec.ofNat 8 (bn g.exported + 2 * bn mirrorCopy), 0, 0] ++ sha3 es
  let h := h.take 192
  let sig := if sign then (Config.identitySign (sha3 h)).take 4627 else []
  h ++ sig ++ List.replicate (8000 - sig.length) 0 ++ es

/-- A sparse table of bytes. -/
def sparse (bs : List Byte) : Table Byte := wrBytes [] 0 bs

/-! ### Pages and codewords (R356, R357) -/

/-- A codeword: 4,096 B of data, then the metadata with the generation number, the extent index, the codeword's byte offset in the extent and
the CRC-32C, then the parity (R356; the metadata's places are log 92). -/
def flashCodeword (gen index offset : Nat) (data : List Byte) : List Byte :=
  let b := data ++ natLe 4 gen ++ natLe 4 index ++ natLe 8 offset ++ List.replicate 12 0
  let b := b ++ natLe 4 (crc32c b)
  b ++ natLe 480 (Config.ldpcParity b).toNat

/-- The four codewords of a page (R354, R356). -/
def flashPage (gen index offset : Nat) (data : List Byte) : List Byte :=
  (List.range 4).flatMap fun i => flashCodeword gen index (offset + 4096 * i) (sub data (4096 * i) 4096)

/-- Does a codeword's CRC match (R358)? -/
def codewordPasses (w : List Byte) : Bool :=
  decide (leNat (sub w 4124 4) = crc32c (w.take 4124)) && decide (sub w 4128 480 = natLe 480 (Config.ldpcParity (w.take 4128)).toNat)

/-- The bytes of an extent as it is programmed, the manifest's from its entries. -/
def extentFlash (s : State) (who index : Nat) : List Byte :=
  let n := BitVec.ofNat 32 (who / 2)
  match (if who % 2 = 1 then mirrorAt s n else genAt s n) with
  | none => []
  | some g =>
    let x := nth { kind := 0, source := 0, len := 0 } g.extents index
    if x.kind = 0x0F && who % 2 = 0 then manifestBytes s n g g.exported false else extBytes x

/-- The exclusive or of pages. -/
def xorPages (ps : List (List Byte)) : List Byte :=
  ps.foldl (fun a b => a.zipWith (· ^^^ ·) b) (List.replicate 18432 0)

/-- The pages of a stripe. -/
def stripePages (s : State) (who stripe : Nat) : List FlashPage :=
  s.hamper.blocks.flatMap fun e => (e.2.pages.map (·.2)).filter fun p => p.owner = who && p.stripe = stripe

/-- The 18 KiB of a page that holds data or zeros: the unused end of an extent's last page is zero (R357). -/
def plainPage (s : State) (p : FlashPage) : List Byte :=
  match p.use with
  | .data i o =>
    let bs := sub (extentFlash s p.owner i) o pageSize
    flashPage (p.owner / 2) i o (bs ++ List.replicate (pageSize - bs.length) 0)
  | _ => flashPage (p.owner / 2) 0xFFFFFFFF 0 (List.replicate pageSize 0)

/-- The 18 KiB of a page: a parity page is the exclusive or of the other 31 of its stripe (R357). -/
def pageBytes (s : State) (p : FlashPage) : List Byte :=
  if p.use = .parity then xorPages (((stripePages s p.owner p.stripe).filter (·.use ≠ .parity)).map (plainPage s)) else plainPage s p

/-- A page is lost (R358): the extent that holds it has no good local copy any more. -/
def losePage (s : State) (p : FlashPage) : State :=
  match p.use with
  | .data i _ =>
    let n := BitVec.ofNat 32 (p.owner / 2)
    let f := fun (g : Gen) => { g with extents := setNth g.extents i { nth { kind := 0, source := 0, len := 0 } g.extents i with lost := true } }
    if p.owner % 2 = 1 then modMirror s n f else modGen s n f
  | _ => s

/-- The newest generation of a set of states, 0 for none. -/
def newest (s : State) (ok : GenState → Bool) : BitVec 32 :=
  s.hamper.gens.foldl (fun m e =>
    let n := BitVec.ofNat 32 e.1
    if ok e.2.state && (m = 0 || precedes 32 m.toNat e.1) then n else m) 0

/-- Is a generation complete for its slice? -/
def isComplete (g : GenState) : Bool := g == .complete || g == .mirrored

/-- The highest generation number that this module holds (R367). -/
def highestGen (s : State) : BitVec 32 :=
  (s.hamper.gens ++ s.hamper.mirrors).foldl (fun m e =>
    if m = 0 || precedes 32 m.toNat e.1 then BitVec.ofNat 32 e.1 else m) 0

/-- The next number after one (R367): 0 is skipped. -/
def nextGenNo (n : BitVec 32) : BitVec 32 := if n + 1 = 0 then 1 else n + 1

/-- The anchor sets its next number to one more than the highest that a member of the slice holds (R367); what the other
members hold is free (log 4). -/
def setNextGen (s : State) : State :=
  if !isAnchor s then s
  else
    let own := highestGen s
    let far := decide (1 < (sliceNodes s (ownSlice s)).length)
    let v := if far then (Config.freeValue s.free).setWidth 32 else 0
    let top := if v ≠ 0 && (own = 0 || precedes 32 own.toNat v.toNat) then v else own
    { s with hamper := { s.hamper with nextGen := nextGenNo top }, free := if far then s.free + 1 else s.free }

/-- A generation and its mirror copy are deleted, and the blocks that held only them are erased (R371, R384). -/
def deleteGen (s : State) (n : BitVec 32) : State :=
  let s := modHamper s fun h =>
    { h with gens := h.gens.filter (fun e => e.1 ≠ n.toNat), mirrors := h.mirrors.filter (fun e => e.1 ≠ n.toNat),
             blocks := h.blocks.map fun e => (e.1, { e.2 with pages := e.2.pages.filter fun w => w.2.owner / 2 ≠ n.toNat }) }
  eraseEmpty (appendJ s 0x06 0 0 n [])

/-- Is a generation mirrored, exported or restored right now (R371, R384)? -/
def genBusy (s : State) (n : BitVec 32) : Bool :=
  let on := fun (j : Option HJob) => match j with | some j => j.gen == n | none => false
  on s.hamper.mirrorTx || on s.hamper.restore || on s.hamper.copyOut || s.hamper.mirrorRx == some n

/-- The deletions of R371 that the module makes when a generation becomes `COMPLETE`. -/
def automaticDeletes (s : State) : List (BitVec 32) :=
  let keep := slathVal s 17
  let top := newest s isComplete
  let rows := s.hamper.gens.map fun e => (BitVec.ofNat 32 e.1, e.2)
  let free := rows.filter fun r => !r.2.pinned && !genBusy s r.1
  let full := free.filter fun r => isComplete r.2.state
  let newer := fun (r : BitVec 32) => (full.filter fun x => precedes 32 r.toNat x.1.toNat).length
  (full.filter fun r => r.1 ≠ top && keep ≤ newer r.1).map (·.1) ++
  (free.filter fun r => r.2.state == .incomplete && top ≠ 0 && precedes 32 r.1.toNat top.toNat).map (·.1)

/-! ### Records and events (R370, R386) -/

/-- The record of an extent (R386, R418). -/
def extRecord (s : State) (n : BitVec 32) (i reason : Nat) : State :=
  record s { kind := 3, done := reason = 0, space := 2, reason := BitVec.ofNat 8 reason, who := n,
             number := BitVec.ofNat 32 i, detail := 0, fec := fec s }

/-- The buddy of the module under a rule: its node and the port toward it (R374). -/
def buddyOf (s : State) (rule : BitVec 8) : Option (Nat × Nat) :=
  if rule = 0xFF then none
  else
    let a := rule.toNat % 4
    let d := ownSlice s
    let e := s.fab.extent
    let r := relCoord e d s.fab.node.toNat a
    let up := if rule.toNat / 64 = 0 then r % 2 = 0 else true
    let p := if up then 2 * a else 2 * a + 1
    some (neighbour e s.fab.node.toNat p, p)

/-- The node whose mirror copy this module receives under a rule (R374). -/
def mirrorSource (s : State) (rule : BitVec 8) : Option Nat :=
  if rule.toNat / 64 = 1 && rule ≠ 0xFF then some (neighbour s.fab.extent s.fab.node.toNat (2 * (rule.toNat % 4) + 1))
  else (buddyOf s rule).map (·.1)

/-- The buddy rules that R374 allows in the module's slice. -/
def buddyAllowed (s : State) (rule : BitVec 8) : Bool :=
  let a := rule.toNat % 4
  let d := ownSlice s
  rule = 0xFF || (bitsN rule.toNat 2 4 = 0 &&
    (if rule.toNat / 64 = 0 then decide (nth 1 d.ext a % 2 = 0) else rule.toNat / 64 = 1 && wraps s.fab.extent d a))

/-- A generation event (R417). -/
def genEvent (s : State) (n : BitVec 32) (st : GenState) (rule : BitVec 8) : State :=
  let b := match buddyOf s rule with | some x => x.1 | none => 0
  raiseEvent s 0x09 1 (unitPath s 0 0) (natLe 4 n.toNat ++ [BitVec.ofNat 8 (genCode st), 0, 0, 0] ++ natLe 2 b)

/-! ### The slice's view (R370, R375) -/

/-- A taken arm completes at the anchor, and is done with at every member (R375). -/
def completeArm (s : State) (n : BitVec 32) (status : Nat) (failed : Nat) : State :=
  match s.hamper.takenArms.find? fun a => a.gen == some n with
  | none => s
  | some a =>
    let s := modHamper s fun h => { h with takenArms := h.takenArms.filter fun x => !(x.gen == some n) }
    if isAnchor s then
      let d := n.toNat + (if status = 0 then 0 else 2 ^ 32 * min failed 0xFFFF)
      completeTag s opArm a.tag a.route status (BitVec.ofNat 64 d) []
    else s

/-- A generation takes a new state at this module: its journal record and event, the deletions of R371, and the end of
its arm (R370, R371, R375). -/
def setGenState (s : State) (n : BitVec 32) (st : GenState) : State :=
  match genAt s n with
  | none => s
  | some g =>
    if g.state == st || g.state == .incomplete || (g.state == .mirrored && st == .complete) then s
    else
      let s := appendJ (modGen s n fun g => { g with state := st }) 0x05 0 0 n [BitVec.ofNat 8 (genCode st)]
      let s := genEvent s n st g.buddy
      match st with
      | .complete =>
        let s := if g.mirror then s else completeArm s n 0 0
        (automaticDeletes s).foldl deleteGen s
      | .mirrored => completeArm s n 0 0
      | .incomplete => completeArm s n 9 g.failed
      | _ => s

/-- A `COMMAND` message with a report or a new state: kind, generation, state and failed extents (R370; log 17). -/
def genBody (kind : Nat) (n : BitVec 32) (state failed : Nat) : List Byte :=
  [BitVec.ofNat 8 kind] ++ natLe 4 n.toNat ++ [BitVec.ofNat 8 state] ++ natLe 2 failed

/-- The anchor sends a new state to every member, itself among them (R370). -/
def spreadState (s : State) (n : BitVec 32) (st : GenState) : State :=
  let s := (sliceNodes s (ownSlice s)).foldl (fun s m =>
    if m = s.fab.node.toNat then s
    else sendQ s (BitVec.ofNat 16 m) 0x01 s.fab.own 0 (genBody 0x11 n (genCode st) 0)) s
  setGenState s n st

/-- Have all members of the slice reported? -/
def allReported (s : State) (rs : List (BitVec 16)) : Bool :=
  (sliceNodes s (ownSlice s)).all fun m => rs.contains (BitVec.ofNat 16 m)

/-- The anchor takes a member's report (R370, R375). -/
def takeReport (s : State) (src : BitVec 16) (n : BitVec 32) (state failed : Nat) : State :=
  if !isAnchor s then s
  else
    let s := modGen s n fun g =>
      { g with failed := min 0xFFFF (g.failed + failed),
               reports := if state = 1 && !g.reports.contains src then g.reports ++ [src] else g.reports,
               mirReports := if state = 6 && !g.mirReports.contains src then g.mirReports ++ [src] else g.mirReports }
    match genAt s n with
    | none => s
    | some g =>
      if state = 7 then completeArm s n 9 g.failed
      else if state = 1 && (0 < failed || g.lost) then spreadState s n .incomplete
      else if g.state == .local_ && allReported s g.reports then
        let s := spreadState s n .complete
        if allReported s g.mirReports then spreadState s n .mirrored else s
      else if g.state == .complete && allReported s g.mirReports then spreadState s n .mirrored
      else s

/-- A module reports to its anchor (R370). -/
def reportGen (s : State) (n : BitVec 32) (state failed : Nat) : State :=
  if isAnchor s then takeReport s s.fab.node n state failed
  else sendQ s (BitVec.ofNat 16 (anchorOf s (ownSlice s))) 0x01 s.fab.own 0 (genBody 0x10 n state failed)

/-! ### The end of a mirror (R376) -/

/-- The sender's mirror circuit. -/
def mirrorCircuit (s : State) : Option Circuit := s.fab.circuits.find? fun c => c.mirror

/-- A `MIRROR_RETRY` of a generation completes with its mirror (R376). -/
def endRetry (s : State) (n : BitVec 32) (status : Nat) : State :=
  (s.firm.accepted.filter fun c => c.opcode == 0x0704 && decide (leNat (c.p.payload.take 4) = n.toNat)).foldl
    (fun s c => completeCmd s c status (if status = 0 then 0 else n.setWidth 64) []) s

/-- The mirror that this module sends fails: its remaining extents fail with a reason, and the pair is named. -/
def mirrorTxFail (s : State) (reason : Nat) : State :=
  match s.hamper.mirrorTx with
  | none => s
  | some j =>
    let s := modHamper s fun h => { h with mirrorTx := none }
    let n := match genAt s j.gen with | some g => g.extents.length | none => 0
    let left := ((List.range n).filter fun i => j.next ≤ i)
    let s := left.foldl (fun s i => extRecord s j.gen i reason) s
    let s := match mirrorCircuit s with
      | some c => dropCircuit (releasePath s c) c.handle
      | none => s
    let s := genEvent s j.gen .mirrorFailed (match genAt s j.gen with | some g => g.buddy | none => 0xFF)
    let s := reportGen s j.gen 7 left.length
    endRetry s j.gen 9

/-- The committed extents go out on the mirror's circuit in index order, the manifest last (R376). -/
def mirrorSend (s : State) (h : Handle) : State :=
  match s.hamper.mirrorTx with
  | none => s
  | some j =>
    match genAt s j.gen with
    | none => s
    | some g =>
      (List.range g.extents.length).foldl (fun s i =>
        let x := nth { kind := 0, source := 0, len := 0 } g.extents i
        if i < j.next || x.status ≠ 1 || s.hamper.mirrorTx.isNone then s
        else if x.lost then mirrorTxFail s 4
        else
          let bs := if x.kind = 0x0F then manifestBytes s j.gen g g.exported false else extBytes x
          sendCircuit (modHamper s fun h => { h with bytesR := h.bytesR + x.len }) h (BitVec.ofNat 32 (2 ^ 31 + i)) bs) s

/-- An extent that the mirror's circuit has delivered is done; after the last one the circuit is released (R376, R386). -/
def mirrorSent (s : State) (i : Nat) : State :=
  match s.hamper.mirrorTx with
  | none => s
  | some j =>
    let s := modHamper (extRecord s j.gen i 0) fun h => { h with mirrorTx := some { j with next := i + 1 } }
    let n := match genAt s j.gen with | some g => g.extents.length | none => 0
    if i + 1 < n then s
    else
      let s := modHamper s fun h => { h with mirrorTx := none }
      let s := match mirrorCircuit s with
        | some c => dropCircuit (releasePath s c) c.handle
        | none => s
      endRetry s j.gen 0

/-- The mirror copy that this module receives fails. -/
def mirrorRxFail (s : State) (reason : Nat) : State :=
  match s.hamper.mirrorRx with
  | none => s
  | some n =>
    let s := modHamper s fun h => { h with mirrorRx := none }
    match mirrorAt s n with
    | none => s
    | some g =>
      let left := (List.range g.extents.length).filter fun i =>
        (nth { kind := 0, source := 0, len := 0 } g.extents i).status ≠ 1
      let s := left.foldl (fun s i => appendJ (extRecord s n i reason) 0x03 reason i n []) s
      let s := modMirror s n fun g => { g with state := .mirrorFailed }
      genEvent (appendJ s 0x05 0 0 n [7]) n .mirrorFailed g.buddy

end Sys2Proof.Machine
end

