-- ==== Sys2Proof/Machine/Fabric.lean ====
section
/-! DEFINITION. The router: strand failures and broken circuits (R300, R304), containers (R283-R291), delivery, order and
acknowledgement (R292-R295), the packets' effects (R286) and the fabric instructions (R340). -/

namespace Sys2Proof.Machine

/-! ### Faults of links and circuits -/

/-- A fabric link event: port, strand and handle (R417). -/
def linkEvent (s : State) (k handle : Nat) : State :=
  raiseEvent s 0x06 1 (unitPath s 0 0) ([BitVec.ofNat 8 (k / 4), BitVec.ofNat 8 (k % 4), 0, 0] ++ natLe 4 handle)

/-- A free byte (log 4). -/
def freeByte (s : State) : Nat := (Config.freeValue s.free).toNat % 256

/-- What a quench with a reason does to a module of the slice (R438). No rule names the cause byte of its fault event:
it is free. -/
def quenchFault (s : State) (reason : Nat) : State :=
  if reason = 0 then s
  else if s.firm.state == .checkpoint && s.hamper.write.isSome then modHamper s fun h => { h with faultAfter := true }
  else
    let s := match s.hamper.restore with
      | none => s
      | some j => completeTag (modHamper s fun h => { h with restore := none, state := idleState h }) 0x0702 j.tag j.route 9 0 []
    let c := freeByte s
    dieFaultQ { s with free := s.free + 1 } c false

/-- The items of a channel bound to a circuit fail (R300, R339). -/
def failChannel (s : State) (h : Handle) (ax ch : Nat) : State :=
  let c := chanAt s ax ch
  if c.plus.contains h || c.minus.contains h then
    c.items.foldl (fun s it => ceComplete s ax ch (ceFail 0x0B 0 it)) s
  else s

/-- An end of a broken circuit (R300): its bound items fail, its reservations are released, an event names the handle. One that breaks
before it is open fails its `CIRCUIT_OPEN` (R297); the hop is the first where the break is this module's own, and free else. -/
def endBroken (s : State) (h : Handle) (own : Bool) : State :=
  match circuitAt s h with
  | none => s
  | some c =>
    let k := (if c.source then outOf s h else innOf s h).getD h.strand.toNat
    let s := dropCircuit s h
    let s := if c.source && !c.isOpen && !c.mirror then
        match s.firm.accepted.find? fun a => a.opcode = 0x0401 && a.p.tag = c.tag with
        | some a =>
          if own then completeCmd s a 0x04 (hopDetail 0 5) []
          else completeCmd { s with free := s.free + 1 } a 0x04 (hopDetail (freeByte s) 5) []
        | none => s
      else s
    let s := if c.source then releasePath s c else clearResv s h
    let s := if c.source then
        let s := (List.range 32).foldl (fun s i => failChannel s h (i / 8) (i % 8)) s
        if c.mirror then mirrorTxFail s 5 else s
      else match s.hamper.mirrorRx with
        | some n =>
          if (mirrorAt s n).any fun (g : Gen) => mirrorSource s g.buddy == some h.node.toNat then mirrorRxFail s 5 else s
        | none => s
    linkEvent s k (handleWord h)

/-- The module that detects a broken circuit tells both ends (R300); the part of the path behind it is released. -/
def breakCircuit (s : State) (r : Resv) (failed : Nat) : State :=
  let tell := fun (s : State) (n : BitVec 16) =>
    if n = s.fab.node then endBroken s r.handle true else sendQ s n 0x09 r.slice 0 (natLe 4 (handleWord r.handle))
  let s := match outOf s r.handle with
    | some k =>
      if k = failed then s
      else pathOut s 0x07 k
        { src := r.handle.node, dst := r.dst, slice := r.slice, tag := 0, hops := [BitVec.ofNat 8 r.handle.strand.toNat], pos := 0 }
    | none => s
  clearResv (tell (tell s r.handle.node) r.dst) r.handle

/-- A strand fails (R304): it stops in both directions, its copies and buffered containers join the reroute queue, its
circuits break, and a link of the slice that loses its last packet strand faults the slice (R280). -/
def failStrand (s : State) (k : Nat) (notify : Bool) : State :=
  let x := strandAt s k
  if eFailed x.entry then s
  else
    let served := servesPackets s s.fab.own k
    let s := modStrand s k fun x => { x with entry := x.entry ||| 1, change := none, replay := [], inbuf := [] }
    let s := { s with fab := { s.fab with reroute := s.fab.reroute ++ x.replay.map (·.c) ++ x.inbuf } }
    let s := if notify then emit s (.strandFailed (strandOf k)) else s
    let down := (strandsOf (k / 4)).all fun j => eFailed (strandAt s j).entry
    let s := modPort s (k / 4) fun p =>
      { p with state := if p.state = 3 ∨ p.state = 4 then (if down then 1 else 4) else p.state }
    let s := linkEvent s k 0
    let s := match x.out with | some r => breakCircuit s r k | none => s
    let s := match x.inn with | some r => breakCircuit s r k | none => s
    if served && linkSlice s (k / 4) == some (ownSlice s) && !(strandsOf (k / 4)).any (servesPackets s s.fab.own) then
      quenchFault (sendQuench s 3 none) 3
    else s

/-! ### Queueing packets (R287, R292) -/

/-- The order state toward and from a node. -/
def orderAt (s : State) (n : BitVec 16) : Order := rd {} s.fab.order n.toNat

/-- Order state changed. -/
def modOrder (s : State) (n : BitVec 16) (f : Order → Order) : State :=
  { s with fab := { s.fab with order := upd {} s.fab.order n.toNat f } }

/-- May a source queue a packet for a destination: fewer than 4,096 unacknowledged (R292)? -/
def mayQueue (s : State) (dst : BitVec 16) : Bool :=
  let o := orderAt s dst
  (o.send - o.acked).toNat < 4096

/-- A packet joins an injection queue (R289). -/
def enqueue (s : State) (q : Nat) (p : FabPacket) : State :=
  { s with fab := { s.fab with inject := upd [] s.fab.inject q (· ++ [p]) } }

/-- A packet enters an injection queue, at which its seq is assigned (R287). -/
def queuePacket (s : State) (q : Nat) (dst : BitVec 16) (type : Nat) (order : Bool) (len arg payload : Nat) : State × BitVec 24 :=
  let seq := (orderAt s dst).send
  let p : FabPacket := { header := mkHeader dst s.fab.node seq s.fab.own type order len arg, payload := BitVec.ofNat 4096 payload }
  (enqueue (modOrder s dst fun o => { o with send := o.send + 1 }) q p, seq)

/-- An `ACK` or `BOUNCE` enters it, with seq zero (R284). -/
def queueControl (s : State) (dst : BitVec 16) (slice : BitVec 6) (type len arg payload : Nat) : State :=
  enqueue s 0 { header := mkHeader dst s.fab.node 0 slice type false len arg, payload := BitVec.ofNat 4096 payload }

/-- A packet is bounced to its source (R286, R295). -/
def bounce (s : State) (h : BitVec 128) (reason : Nat) : State :=
  let s := { s with fab := { s.fab with bounced := s.fab.bounced + 1 } }
  queueControl s (hSrc h) (hSlice h) 7 2 ((hSeq h).toNat * 256 + reason) h.toNat

/-! ### The fabric instructions (R340) -/

/-- A remote field: node and device address. -/
def remoteNode (w : BitVec 246) (slot : Nat) : Nat := if slot = 1 then fld w 191 176 else fld w 127 112
/-- The device address of a remote field. -/
def remoteAddr (w : BitVec 246) (slot : Nat) : Nat := 8 * (if slot = 1 then fld w 175 131 else fld w 111 67)
/-- The length in bytes. -/
def fabLen (w : BitVec 246) : Nat := fld w 224 193
/-- The local address. -/
def localAddr (w : BitVec 246) (slot : Nat) : Nat := if slot = 1 then fld w 191 144 else fld w 127 80

/-- Packets of an item (R340). -/
def fabTotal (op : BitVec 10) (w : BitVec 246) : Nat :=
  if op = 0x210 then (fabLen w + 511) / 512 else if op = 0x211 then (fabLen w + 65535) / 65536 else 1

/-- A fabric item leaves the router's list and completes (R294). -/
def fabComplete (s : State) (key : Nat) (it : FabItem) (failed : Option (BitVec 8)) : State :=
  let s := { s with fab := { s.fab with items := delKey key s.fab.items } }
  let s := completeItem s it.tile it.ptile it.item failed 0
  let s := if failed = some 0x0D then dieFault s 0x05 else s
  finishDrain (chainStop s it.tile)

/-- An item whose packets are all covered, with all that it reads written, is DONE (R294). -/
def fabCheck (s : State) (key : Nat) : State :=
  let it := (s.fab.items.find? fun e => e.1 = key).map (·.2)
  match it with
  | none => s
  | some it =>
    let w := it.item.w
    if it.queued = fabTotal it.item.op w && it.waiting.isEmpty && (it.item.op ≠ 0x211 || fabLen w ≤ it.got) then
      fabComplete s key it none
    else s

/-- The item's next packet: type, ORDER flag, length in 8 B units, argument and payload (R286, R340). -/
def fabPacket (s : State) (key : Nat) (it : FabItem) : Nat × Bool × Nat × Nat × Nat :=
  let w := it.item.w
  let i := it.queued
  if it.item.op = 0x210 then
    let n := min 512 (fabLen w - 512 * i)
    (1, fbit w 244, n / 8, (remoteAddr w 2 + 512 * i) / 8, leNat (devRead s (localAddr w 1 + 512 * i) n))
  else if it.item.op = 0x211 then
    let n := min 65536 (fabLen w - 65536 * i)
    (3, false, 2, (remoteAddr w 1 + 65536 * i) / 8, localAddr w 2 + 65536 * i + 2 ^ 64 * n + 2 ^ 96 * (key % 2 ^ 32))
  else
    (2, false, 0, fld w 231 223 * 2 ^ 37 + fld w 222 221 * 2 ^ 35 + fld w 220 215 * 2 ^ 29 + fld w 214 199 * 2 ^ 13, 0)

/-- The range that the next packet of an `FPUT` reads. -/
def fabReads (it : FabItem) : List (Nat × Nat) :=
  if it.item.op = 0x210 then [(localAddr it.item.w 1 + 512 * it.queued, min 512 (fabLen it.item.w - 512 * it.queued))] else []

/-- The class in which the router reads and writes device memory (R248; log 85). -/
def fabClass : Nat := 2

/-- The marked unit that the next packet of an `FPUT` would read (R253). -/
def fabSourceBad (s : State) (it : FabItem) : Option Nat := (fabReads it).findSome? fun r => devMark s r.1 r.2

/-- An item queues packets, as far as its destination's window allows (R292). -/
def pumpItem : Nat → Nat → State → State
  | 0, _, s => s
  | n + 1, key, s =>
    match (s.fab.items.find? fun e => e.1 = key).map (·.2) with
    | none => s
    | some it =>
      if it.queued < fabTotal it.item.op it.item.w && mayQueue s it.dst then
        -- a line that the host has modified is snooped first (R394)
        if !(heldLines s (fabReads it) []).isEmpty then snoopGate (fabReads it) [] s s
        else match fabSourceBad s it with
        | some m => fabComplete (noteMark (touchReads fabClass s (fabReads it)) m) key it (some 0x0D)
        | none =>
          let p := fabPacket s key it
          let r := queuePacket (touchReads fabClass s (fabReads it)) 1 it.dst p.1 p.2.1 p.2.2.1 p.2.2.2.1 p.2.2.2.2
          let s := { r.1 with fab := { r.1.fab with items := r.1.fab.items.map fun e =>
            if e.1 = key then
              (key, { it with queued := it.queued + 1, waiting := it.waiting ++ [r.2], seqs := it.seqs ++ [r.2] })
            else e } }
          pumpItem n key s
      else s

/-- A served `READ` queues its `READ_DATA` packets (R286): what is left of it afterwards. A piece that cannot be read ends it with a
`BOUNCE` (R295). -/
def pumpServe : Nat → FabServe → State → State × FabServe
  | 0, v, s => (s, v)
  | n + 1, v, s =>
    if 0 < v.left && mayQueue s (hSrc v.req) then
      let m := min 512 v.left
      if !(heldLines s [(v.addr, m)] []).isEmpty then (snoopGate [(v.addr, m)] [] s s, v)
      else match devMark s v.addr m with
      | some u => (bounce (noteMark (touch fabClass false s v.addr m) u) v.req 0x0D, { v with left := 0 })
      | none =>
        let s := touch fabClass false s v.addr m
        let r := queuePacket s 2 (hSrc v.req) 4 false ((m + 7) / 8) (v.ret / 8) (leNat (devRead s v.addr m))
        pumpServe n { v with addr := v.addr + m, ret := v.ret + m, left := v.left - m } r.1
    else (s, v)

/-- Every sending agent goes on as its windows allow. -/
def pumpFab (s : State) : State :=
  let s := (s.fab.items.map (·.1)).foldl (fun s k => pumpItem 4096 k s) s
  let r := s.fab.serving.foldl (fun (r : State × List FabServe) v =>
    let x := pumpServe 4096 v r.1
    (x.1, if x.2.left = 0 then r.2 else r.2 ++ [x.2])) (s, [])
  { r.1 with fab := { r.1.fab with serving := r.2 } }

/-- The first byte of a local range outside HBM and the LLM window (R340). -/
def localOut (s : State) (a n : Nat) : Option Nat :=
  match regionAt s a with
  | .hbm => if n = 0 then none else rowOut s 2 a n
  | .llm => if n = 0 then none else rowOut s 3 a n
  | _ => some a

/-- The checks of a fabric instruction (R129, R340). -/
def fabChecks (op : Nat) (s : State) (_i : Issue) (w : BitVec 246) : List Check :=
  let csig := [(239, 238), (237, 232)]
  let out := fun (slot : Nat) =>
    let r := localOut s (localAddr w slot) (fabLen w)
    ckRange r.isSome slot (r.getD 0)
  let sig := [ckRange (decide (fld w 239 238 = 2 ∧ 31 < fld w 237 232)) 0 (fld w 237 232)]
  if op = 0x210 then
    reservedChecks w ([(244, 244)] ++ csig ++ [(224, 193), (191, 144), (127, 112), (111, 67)]) ++ sig ++
    [ ckAlign (decide (fabLen w % 8 ≠ 0)) 0 (fabLen w), ckAlign (decide (localAddr w 1 % 8 ≠ 0)) 1 (localAddr w 1), out 1 ]
  else if op = 0x211 then
    reservedChecks w (csig ++ [(224, 193), (191, 176), (175, 131), (127, 80)]) ++ sig ++
    [ ckAlign (decide (fabLen w % 8 ≠ 0)) 0 (fabLen w), ckAlign (decide (localAddr w 2 % 8 ≠ 0)) 2 (localAddr w 2), out 2 ]
  else
    reservedChecks w (csig ++ [(231, 223), (222, 221), (220, 215), (214, 199), (127, 112)]) ++ sig

/-- The destination node of a fabric instruction. -/
def fabNode (op : Nat) (w : BitVec 246) : Nat := if op = 0x211 then remoteNode w 1 else remoteNode w 2

/-- A fabric instruction comes to issue: its packets go to the injection queue, which refuses them when the node lies
outside the slice (R287). -/
def fabIssue (op : Nat) (i : Issue) (w : BitVec 246) (s : State) : State :=
  let t := i.tile.val
  let p := ptileOf s t
  let it := newItem s t i.stream .fabric op w ⟨BitVec.ofNat 2 (fld w 239 238), BitVec.ofNat 6 (fld w 237 232)⟩
  let s := takeSeq s t i.stream
  let n := fabNode op w
  if !inSlice s.fab.extent (ownSlice s) n then completeItem s t p it (some 0x03) 0
  else if fabTotal it.op w = 0 then completeItem s t p it none 0
  else
    let key := s.fab.nextItem
    let f : FabItem := { tile := i.tile, ptile := p, item := it, dst := BitVec.ofNat 16 n }
    let s := addItem s t it
    pumpFab { s with fab := { s.fab with nextItem := key + 1, items := s.fab.items ++ [(key, f)] } }

/-- A fabric instruction. -/
def fabInstr (op : Nat) (i : Issue) (w : BitVec 246) (s : State) : Res :=
  done s (issueN s i op w (fun s => fabChecks op s i w) (fabIssue op i w))

/-- `FPUT` (R340). -/
def execFput (i : Issue) (w : BitVec 246) (s : State) : Res := fabInstr 0x210 i w s
/-- `FGET` (R340). -/
def execFget (i : Issue) (w : BitVec 246) (s : State) : Res := fabInstr 0x211 i w s
/-- `FSIG` (R340). -/
def execFsig (i : Issue) (w : BitVec 246) (s : State) : Res := fabInstr 0x212 i w s

/-! ### Routing (R288, R289) -/

/-- Does a packet strand take new containers now (R278, R282, R289)? -/
def outOk (s : State) (k : Nat) : Bool :=
  let x := strandAt s k
  portUp s (k / 4) && eMode x.entry = 1 && !eFailed x.entry &&
    (match x.change with
     | some c => !(c.confirmed && (c.frame.toNat = frameNo s % 2 ^ 32 || precedes 32 c.frame.toNat (frameNo s % 2 ^ 32)))
     | none => true)

/-- The remaining distance on an axis, and whether its + and its − port are productive (R288). -/
def axisRoute (e : Extents) (d : SliceDecl) (cur dst a : Nat) : Nat × Bool × Bool :=
  if wraps e d a then
    let n := extOn e a
    let x := (nodeCoord e dst a + n - nodeCoord e cur a) % n
    (min x (n - x), 1 ≤ x && 2 * x ≤ n, 1 ≤ x && n ≤ 2 * x)
  else
    let rd := relCoord e d dst a
    let rc := relCoord e d cur a
    (max rd rc - min rd rc, decide (rc < rd), decide (rd < rc))

/-- Is a port productive for a packet, and the distance left on its axis (R288)? -/
def portRoute (s : State) (h : BitVec 128) (p : Nat) : Nat × Bool :=
  match sliceNo s (hSlice h).toNat with
  | none => (0, false)
  | some d =>
    let r := axisRoute s.fab.extent d s.fab.node.toNat (hDst h).toNat (p / 2)
    (r.1, if p % 2 = 0 then r.2.1 else r.2.2)

/-- The first strand by rank among the free ones owned by the packet's slice (R289). -/
def bestOut (s : State) (h : BitVec 128) (outs : List Nat) (productive : Bool) : Option Nat :=
  let c := outs.filter fun k => eSlice (strandAt s k).entry == hSlice h && (!productive || (portRoute s h (k / 4)).2)
  c.foldl (fun m k => match m with
    | none => some k
    | some b => if (portRoute s h (b / 4)).1 < (portRoute s h (k / 4)).1 then some k else m) none

/-- A trailer from its fields, with the CRC over the container (R285). -/
def sealContainer (header : BitVec 128) (payload : BitVec 4096) (stamp lseq ack : Nat) (nak : Option (BitVec 16)) : Container :=
  let t := stamp % 2 ^ 24 * 2 ^ 104 + lseq * 2 ^ 88 + ack * 2 ^ 72 + bn nak.isSome * 2 ^ 71 + (nak.getD 0).toNat * 2 ^ 55
  let crc := crc32c (natLe 16 header.toNat ++ natLe 512 payload.toNat ++ natLe 12 (t / 2 ^ 32))
  { header := header, payload := payload, trailer := BitVec.ofNat 128 (t + crc) }

/-- The golden stamp of a container. -/
def stampOf (c : Container) : Nat := bitsN c.trailer.toNat 104 24

/-- A container goes out with its link sequence, the acknowledgement and the next gap to name (R285, R290). -/
def emitContainer (s : State) (k : Nat) (c : Container) (lseq : BitVec 16) : State :=
  let x := strandAt s k
  let y := sealContainer c.header c.payload (stampOf c) lseq.toNat x.rxLseq.toNat x.toName.head?
  emit (modStrand s k fun x =>
    { x with toName := x.toName.drop 1, namedAt := if x.toName.isEmpty then x.namedAt else frameNo s }) (.container (strandOf k) y)

/-- A packet is sent on a strand, which keeps a copy (R290); a strand whose replay buffer is full fails, and the container
joins the reroute queue with its copies. -/
def sendContainer (s : State) (k : Nat) (c : Container) : State :=
  let x := strandAt s k
  if 64 ≤ x.replay.length then
    failStrand { s with fab := { s.fab with reroute := s.fab.reroute ++ [c] } } k true
  else
    let l := x.txLseq + 1
    emitContainer (modStrand s k fun x =>
      { x with txLseq := l, replay := x.replay ++ [{ frame := frameNo s, lseq := l, c := c, wanted := false }] }) k c l

/-- An empty container (R284, R289). -/
def sendEmpty (s : State) (k : Nat) : State :=
  emitContainer s k { header := 0, payload := 0, trailer := 0 } (strandAt s k).txLseq

/-- The oldest named copy is sent again (R289, R290). -/
def sendCopy (s : State) (k : Nat) : State :=
  match (strandAt s k).replay.find? (·.wanted) with
  | none => s
  | some r =>
    let s := modStrand s k fun x =>
      { x with replay := x.replay.map fun y => if y.lseq = r.lseq then { y with wanted := false } else y }
    modPort (emitContainer s k r.c r.lseq) (k / 4) fun p => { p with replays := p.replays + 1 }

/-- A container ages by one router; one that becomes golden takes its stamp (R288). -/
def ageContainer (s : State) (c : Container) : State × Container :=
  let a := hAge c.header
  if a = 255 then (s, c)
  else
    let h := c.header + BitVec.ofNat 128 (2 ^ 64)
    if a = 254 then
      ({ s with fab := { s.fab with golden := s.fab.golden + 1 } },
       { c with header := h, trailer := BitVec.ofNat 128 (c.trailer.toNat % 2 ^ 104 + bitsN (fec s).toNat 10 24 * 2 ^ 104) })
    else (s, { c with header := h })

/-- Does a container rank before another (R288)? -/
def ranksBefore (a b : Container) : Bool :=
  let ga := decide (hAge a.header = 255)
  let gb := decide (hAge b.header = 255)
  let tie := decide ((hSrc a.header).toNat < (hSrc b.header).toNat) ||
    (hSrc a.header == hSrc b.header && precedes 24 (hSeq a.header).toNat (hSeq b.header).toNat)
  if ga ≠ gb then ga
  else if ga then
    if precedes 24 (stampOf a) (stampOf b) then true
    else if precedes 24 (stampOf b) (stampOf a) then false
    else tie
  else if hAge a.header ≠ hAge b.header then decide (hAge b.header < hAge a.header)
  else tie

/-- An arrival put among the others in priority order. -/
def rankIn (x : Nat × Container) : List (Nat × Container) → List (Nat × Container)
  | [] => [x]
  | y :: t => if ranksBefore x.2 y.2 then x :: y :: t else y :: rankIn x t

/-! ### Acceptance (R292, R293) -/

/-- e and the window after the consecutive set bits (R292). -/
def advanceE : Nat → BitVec 24 → BitVec 64 → BitVec 24 × BitVec 64
  | 0, e, w => (e, w)
  | n + 1, e, w => if w.getLsbD 0 then advanceE n (e + 1) (w >>> 1) else (e, w)

/-- Held packets of a source that e has passed take effect in seq order (R293). -/
def releaseHeld (s : State) (src : BitVec 16) : State :=
  let e := (orderAt s src).e
  let passed := fun (p : FabPacket) => hSrc p.header == src && precedes 24 (hSeq p.header).toNat e.toNat
  let out := (s.fab.hold.filter passed).foldl (fun (l : List FabPacket) p =>
    let before := l.filter fun q => precedes 24 (hSeq q.header).toNat (hSeq p.header).toNat
    let after := l.filter fun q => !precedes 24 (hSeq q.header).toNat (hSeq p.header).toNat
    before ++ [p] ++ after) []
  { s with fab := { s.fab with hold := s.fab.hold.filter (fun p => !passed p), arrived := s.fab.arrived ++ out } }

/-- What a router does with a packet at its destination (R292, R293): the state after it, and whether it took an ejection
slot; no answer where the packet is not accepted. -/
def accept (s : State) (p : FabPacket) : Option (State × Bool) :=
  let h := p.header
  let eject := fun (s : State) => { s with fab := { s.fab with ejected := s.fab.ejected + 1 } }
  let take := fun (s : State) => { s with fab := { s.fab with arrived := s.fab.arrived ++ [p] } }
  if 1 ≤ hType h && hType h ≤ 5 then
    let o := orderAt s (hSrc h)
    let d := (hSeq h - o.e).toNat
    if d < 64 && !o.window.getLsbD d then
      let ready := decide (d = 0)
      if hOrder h && !ready && 1024 ≤ s.fab.hold.length then none
      else
        let r := advanceE 64 o.e (o.window ||| ((1 : BitVec 64) <<< d))
        let s := modOrder (eject s) (hSrc h) fun o =>
          { o with e := r.1, window := r.2, accepted := o.accepted + 1, since := if o.accepted = 0 then s.time.elapsed else o.since }
        let s := if hOrder h && !ready then
            { s with fab := { s.fab with hold := s.fab.hold ++ [p], heldCnt := s.fab.heldCnt + 1 } }
          else take s
        some (releaseHeld s (hSrc h), true)
    else if 64 ≤ d && d < 2 ^ 23 then none
    else some ({ s with fab := { s.fab with dup := s.fab.dup + 1 } }, false)
  else some (take (eject s), true)

/-! ### A routing cycle (R289) -/

/-- The router in the course of a cycle: strands still free, packets ejected. -/
structure Cycle where
  s    : State
  outs : List Nat
  ej   : Nat

/-- Is a packet's destination dead to the slice's routers (R295, R302)? -/
def deadTo (s : State) (h : BitVec 128) : Bool :=
  hSlice h == s.fab.own && (s.fab.quench.dead.contains (hDst h) || (s.fab.quench.overflow && 1 ≤ hType h && hType h ≤ 5))

/-- A packet for a dead node ends here (R295): bounced, or discarded if it is itself a `BOUNCE` or an `ACK`. -/
def endDead (s : State) (h : BitVec 128) : State :=
  if 1 ≤ hType h && hType h ≤ 5 then bounce s h 0x0B
  else if hType h = 7 then { s with fab := { s.fab with bounced := s.fab.bounced + 1 } }
  else s

/-- A packet leaves on a strand. -/
def leaveOn (r : Cycle) (k : Nat) (c : Container) : Cycle :=
  { r with s := sendContainer r.s k c, outs := r.outs.filter fun x => x ≠ k }

/-- A strand's buffer loses its head. -/
def popBuffer (s : State) (k : Nat) : State := modStrand s k fun x => { x with inbuf := x.inbuf.drop 1 }

/-- One arrival of a cycle (R289). -/
def routeArrival (r : Cycle) (x : Nat × Container) : Cycle :=
  let c := x.2
  let h := c.header
  if deadTo r.s h then { r with s := endDead (popBuffer r.s x.1) h }
  else
    let here := decide (hDst h = r.s.fab.node)
    let got := if here && r.ej < 8 then accept r.s { header := h, payload := c.payload } else none
    match got with
    | some g => { r with s := popBuffer g.1 x.1, ej := r.ej + bn g.2 }
    | none =>
      let r := if here then { r with s := { r.s with fab := { r.s.fab with ejBusy := r.s.fab.ejBusy + 1 } } } else r
      match bestOut r.s h r.outs true with
      | some k => leaveOn { r with s := popBuffer r.s x.1 } k c
      | none =>
        let s := { r.s with fab := { r.s.fab with deflected := r.s.fab.deflected + 1 } }
        match bestOut s h r.outs false with
        | some k => leaveOn { r with s := popBuffer s x.1 } k c
        | none => { r with s := s }

/-- Heads of the reroute queue leave, on any owned strand if no productive one is free (R289). -/
def routeQueue : Nat → Cycle → Cycle
  | 0, r => r
  | n + 1, r =>
    match r.s.fab.reroute with
    | [] => r
    | c :: t =>
      let pop := fun (s : State) => { s with fab := { s.fab with reroute := t } }
      let h := c.header
      if deadTo r.s h then routeQueue n { r with s := endDead (pop r.s) h }
      else if hDst h = r.s.fab.node then
        match (if r.ej < 8 then accept (pop r.s) { header := h, payload := c.payload } else none) with
        | some g => routeQueue n { r with s := g.1, ej := r.ej + bn g.2 }
        | none => r
      else
        match bestOut r.s h r.outs true with
        | some k => routeQueue n (leaveOn { r with s := pop r.s } k c)
        | none =>
          match bestOut r.s h r.outs false with
          | some k => routeQueue n (leaveOn { r with s := pop r.s } k c)
          | none => r

/-- The packet that an injection queue offers: under a quench only `ACK` and `BOUNCE` go out (R302). -/
def offered (s : State) (q : Nat) : Option FabPacket := if s.fab.quench.on && q ≠ 0 then none else (rd [] s.fab.inject q).head?

/-- The next queue in turn (R289). -/
def nextQueue (q : Nat) : Nat := (q + 1) % 3

/-- Packets of the injection queues leave on productive strands, one from each queue in turn (R289): `slots` are left, and `qs` are the
queues that may still offer one. -/
def injectQueues : Nat → Nat → List Nat → Cycle → Cycle
  | 0, _, _, r => r
  | _, _, [], r => r
  | n + 1, slots, q :: qs, r =>
    if slots = 0 then r
    else match offered r.s q with
    | none => injectQueues n slots qs r
    | some p =>
      let s := { r.s with fab := { r.s.fab with inject := upd [] r.s.fab.inject q (·.drop 1), turn := nextQueue q } }
      let h := p.header
      if deadTo r.s h then injectQueues n slots (qs ++ [q]) { r with s := endDead s h }
      else if hDst h = r.s.fab.node then
        match (if r.ej < 8 then accept s p else none) with
        | some g => injectQueues n slots (qs ++ [q]) { r with s := g.1, ej := r.ej + bn g.2 }
        | none => injectQueues n slots qs r
      else
        match bestOut r.s h r.outs true with
        | some k =>
          let s := { s with fab := { s.fab with injected := s.fab.injected + 1 } }
          injectQueues n (slots - 1) (qs ++ [q]) (leaveOn { r with s := s } k { header := h, payload := p.payload, trailer := 0 })
        | none => injectQueues n slots qs r

/-- A routing cycle (R289; log 20): position 31 of a frame carries a replay copy or an empty container (R283). -/
def routingCycle (s : State) (k : Nat) : State :=
  let outs := (List.range 32).filter (outOk s)
  let copies := if k = 31 then outs.filter fun o => (strandAt s o).replay.any (·.wanted) else []
  let s := copies.foldl sendCopy s
  let arr := (List.range 32).filterMap fun o => (strandAt s o).inbuf.head?.map fun c => (o, c)
  let arr := arr.foldl (fun l x => rankIn x l) []
  let r := arr.foldl routeArrival { s := s, outs := if k = 31 then [] else outs, ej := 0 }
  let n := r.outs.length
  let r := routeQueue (8 - r.ej) r
  let q := r.s.fab.turn
  let r := injectQueues 64 (8 - r.ej - (n - r.outs.length)) [q, nextQueue q, nextQueue (nextQueue q)] r
  (if k = 31 then outs.filter fun o => !copies.contains o else r.outs).foldl sendEmpty r.s

/-- `ROUTING_CYCLE` (R289). -/
def execRoutingCycle (k : Fin 32) (s : State) : Res := done s (routingCycle s k.val)

/-! ### Arrivals and replays (R285, R290, R291) -/

/-- The lseqs missing between the last of a row and a later one. -/
def gapsTo (x : Strand) (l : BitVec 16) : List (BitVec 16) :=
  ((List.range (l - x.rxLseq).toNat).map fun i => x.rxLseq + 1 + BitVec.ofNat 16 i).filter fun v =>
    v ≠ l && !x.taken.contains v

/-- The row of taken lseqs moves on. -/
def advanceRx : Nat → Strand → Strand
  | 0, x => x
  | n + 1, x =>
    if x.taken.contains (x.rxLseq + 1) then
      advanceRx n { x with rxLseq := x.rxLseq + 1, taken := x.taken.filter fun v => v ≠ x.rxLseq + 1 }
    else x

/-- The lseq of a good container is seen: gaps that it shows for the first time are to be named (R290). -/
def seeLseq (x : Strand) (l : BitVec 16) : Strand :=
  if precedes 16 x.rxHigh.toNat l.toNat then
    let new := (gapsTo x l).filter fun v => precedes 16 x.rxHigh.toNat v.toNat
    { x with rxHigh := l, toName := x.toName ++ new }
  else x

/-- The sender's side of a trailer: copies that the ack covers go, a named copy is wanted (R290). -/
def takeAck (x : Strand) (t : Nat) : Strand :=
  let a := bitsN t 72 16
  let left := x.replay.filter fun r => !(r.lseq.toNat = a || precedes 16 r.lseq.toNat a)
  { x with replay := if t.testBit 71 then
      left.map fun r => if r.lseq.toNat = bitsN t 55 16 then { r with wanted := true } else r else left }

/-- Does the container's CRC match (R285)? -/
def crcOk (c : Container) : Bool :=
  crc32c (natLe 16 c.header.toNat ++ natLe 512 c.payload.toNat ++ natLe 12 (c.trailer.toNat / 2 ^ 32))
    = c.trailer.toNat % 2 ^ 32

/-- The codewords of a strand that were not read before count with their errors (R271, R309). -/
def readStrand (s : State) (l : StrandId) (first : BitVec 32) (rs : List CwRead) : State :=
  (List.range rs.length).foldl (fun s i =>
    let n := first + BitVec.ofNat 32 i
    let r := nth { control := none, payload := none, fixed := false } rs i
    if !precedes 32 (strandAt s (strandKey l)).rxCw.toNat n.toNat then s
    else
      let s := modStrand s (strandKey l) fun x => { x with rxCw := n }
      modPort s l.port.val fun p =>
        { p with cwCorr := p.cwCorr + bn r.fixed, cwUncorr := tallyAdd p.cwUncorr (bn r.control.isNone + bn r.payload.isNone) }) s

/-- A container that arrived whole (R285, R290, R291). -/
def takeContainer (s : State) (k : Nat) (c : Container) : State :=
  let t := c.trailer.toNat
  let q := BitVec.ofNat 16 (bitsN t 88 16)
  let s := modStrand s k fun x => takeAck x t
  if hType c.header = 0 then
    -- an empty container repeats the last lseq sent: one not taken yet is a gap as well
    modStrand s k fun x =>
      let y := seeLseq x q
      if precedes 16 x.rxHigh.toNat q.toNat then { y with toName := y.toName ++ [q] } else y
  else
    let x := strandAt s k
    if !precedes 16 x.rxLseq.toNat q.toNat || x.taken.contains q then s
    else
      let s := modStrand s k fun x =>
        let y := seeLseq x q
        advanceRx 65536 { y with taken := y.taken ++ [q], toName := y.toName.filter fun v => v ≠ q }
      let r := ageContainer s c
      let s := modStrand r.1 k fun x => { x with inbuf := x.inbuf ++ [r.2] }
      if 4 < (strandAt s k).inbuf.length then failStrand s k true else s

/-- `CONTAINER_ARRIVAL` (R271, R283, R285, R290, R291): the 544 bytes from payload byte `off` of the first of the codewords that hold
them; a container whose codeword is uncorrectable or whose CRC fails is absent. -/
def execContainerArrival (l : StrandId) (first : BitVec 32) (cws : List (List Byte)) (off : Nat) (s : State) : Res :=
  let k := strandKey l
  let x := strandAt s k
  done s (
    if !(portUp s l.port && eMode x.entry = 1 && !eFailed x.entry) then s
    else
      let rs := cws.map fun w => readCodeword (padTo 2048 w)
      let s := readStrand s l first rs
      if rs.any (·.payload.isNone) || 2000 * cws.length < off + 544 then s
      else
        let c := containerOf (sub (rs.flatMap fun r => r.payload.getD []) off 544)
        if crcOk c then takeContainer s k c else s)

/-- `NAK_REPEAT` (R290): four frames on, the gaps still missing are named again. -/
def execNakRepeat (l : StrandId) (s : State) : Res :=
  done s (if frameNo s < (strandAt s (strandKey l)).namedAt + 4 then s else modStrand s (strandKey l) fun x =>
    let gaps := gapsTo x x.rxHigh ++ (if x.taken.contains x.rxHigh || x.rxHigh = x.rxLseq then [] else [x.rxHigh])
    { x with toName := x.toName ++ gaps.filter fun v => !x.toName.contains v })

/-- `REPLAY_PENDING_TIMEOUT` (R290): a copy has been pending for 64 frames. -/
def execReplayPendingTimeout (l : StrandId) (s : State) : Res :=
  done s (if (strandAt s (strandKey l)).replay.any fun r => decide (r.frame + 64 ≤ frameNo s) then failStrand s (strandKey l) true else s)

/-! ### Effects at the destination (R286, R294, R295) -/

/-- The payload bytes of a packet. -/
def payloadBytes (p : FabPacket) : List Byte := natLe (min 512 (8 * hLen p.header)) p.payload.toNat

/-- The range that a packet's payload is written to, snooped before (R394). -/
def payloadRange (p : FabPacket) : List (Nat × Nat) := [(8 * (hArg p.header % 2 ^ 45), (payloadBytes p).length)]

/-- Has an `ORDER` packet to wait: one of its source with an earlier seq has been accepted and has not taken effect (R293)? -/
def behind (s : State) (p : FabPacket) : Bool :=
  hOrder p.header && s.fab.arrived.any fun q =>
    hSrc q.header == hSrc p.header && 1 ≤ hType q.header && hType q.header ≤ 5 &&
      precedes 24 (hSeq q.header).toNat (hSeq p.header).toNat

/-- An accepted packet of a type takes effect once, `ORDER` packets of a source in seq order (R293). -/
def takeArrived (s : State) (p : FabPacket) (type : Nat → Bool) (eff : State → State) : Res :=
  done s (if s.fab.arrived.contains p && type (hType p.header) && !behind s p then
    snoopGate [] (if hType p.header = 1 || hType p.header = 4 then payloadRange p else []) s
      (eff { s with fab := { s.fab with arrived := s.fab.arrived.erase p } }) else s)

/-- May a packet address a range (R286): HBM, the LLM window or the far tier, with no retired granule, hole or unmapped
part? -/
def packetRange (s : State) (a n : Nat) : Bool := (devOut s a n).isNone && (retiredIn s a n).isEmpty && !farDown s a n

/-- A packet's bytes are written through the home slices (R235), and whether a marked unit kept its bytes (R252). -/
def packetPut (s : State) (a : Nat) (bs : List Byte) : State × Bool :=
  let r := devWrite s a bs
  let s := touch fabClass true r.1 a bs.length
  match r.2 with | some m => (noteMark s m, true) | none => (s, false)

/-- `PACKET_WRITE` (R286, R295). -/
def execPacketWrite (p : FabPacket) (s : State) : Res :=
  takeArrived s p (· == 1) fun s =>
    let a := 8 * (hArg p.header % 2 ^ 45)
    let bs := payloadBytes p
    if !packetRange s a bs.length then bounce s p.header 0x03
    else
      let r := packetPut s a bs
      if r.2 then bounce r.1 p.header 0x0D else r.1

/-- `PACKET_SIGNAL` (R286, R295, R311). -/
def execPacketSignal (p : FabPacket) (s : State) : Res :=
  takeArrived s p (· == 2) fun s =>
    let a := hArg p.header
    let scope := bitsN a 35 2
    let tile := bitsN a 37 9
    let i := bitsN a 29 6
    let inc := bitsN a 13 16
    if scope = 3 || (scope < 2 && progP s ≤ tile) || (scope = 1 && 32 ≤ i) then bounce s p.header 0x03
    else
      let tgt := ctrTarget scope tile
      if ctrOver s scope tgt i inc then bounce s p.header 0x09 else ctrAdd s scope tgt i inc

/-- `PACKET_READ` (R286, R295). -/
def execPacketRead (p : FabPacket) (s : State) : Res :=
  takeArrived s p (· == 3) fun s =>
    let a := 8 * (hArg p.header % 2 ^ 45)
    let n := bitsN p.payload.toNat 64 32
    if !packetRange s a n then bounce s p.header 0x03
    else match devMark s a n with
    | some m => bounce (noteMark (touch fabClass false s a n) m) p.header 0x0D
    | none =>
      let v : FabServe := { req := p.header, addr := a, ret := bitsN p.payload.toNat 0 48, left := n }
      pumpFab { s with fab := { s.fab with serving := s.fab.serving ++ [v] } }

/-- Does an `FGET` read into an address from a node? -/
def getsInto (src : BitVec 16) (a : Nat) (it : FabItem) : Bool :=
  it.item.op = 0x211 && it.dst == src && localAddr it.item.w 2 ≤ a && a < localAddr it.item.w 2 + fabLen it.item.w

/-- `PACKET_READ_DATA` (R286, R294). -/
def execPacketReadData (p : FabPacket) (s : State) : Res :=
  takeArrived s p (· == 4) fun s =>
    let a := 8 * (hArg p.header % 2 ^ 45)
    let bs := payloadBytes p
    if !packetRange s a bs.length then bounce s p.header 0x03
    else
      let r := packetPut s a bs
      let s := if r.2 then bounce r.1 p.header 0x0D else r.1
      match s.fab.items.find? fun e => getsInto (hSrc p.header) a e.2 with
      | none => s
      | some e =>
        if r.2 then fabComplete s e.1 e.2 (some 0x0D)
        else
          let s := { s with fab := { s.fab with items := s.fab.items.map fun (x : Nat × FabItem) =>
            if x.1 = e.1 then (x.1, { x.2 with got := x.2.got + bs.length }) else x } }
          fabCheck s e.1

/-- `PACKET_MESSAGE` (R286). -/
def execPacketMessage (p : FabPacket) (s : State) : Res :=
  takeArrived s p (· == 5) fun s =>
    { s with fab := { s.fab with messages := s.fab.messages ++ [(BitVec.ofNat 32 (hArg p.header % 2 ^ 32), p.payload)] } }

/-- `PACKET_ACK` (R294): the covered packets no longer wait, items may be DONE, and the senders go on. -/
def execPacketAck (p : FabPacket) (s : State) : Res :=
  takeArrived s p (· == 6) fun s =>
    let src := hSrc p.header
    let e := BitVec.ofNat 24 (hArg p.header % 2 ^ 24)
    let s := modOrder s src fun o => if precedes 24 o.acked.toNat e.toNat then { o with acked := e } else o
    let s := { s with fab := { s.fab with items := s.fab.items.map fun (x : Nat × FabItem) =>
      if x.2.dst = src then
        (x.1, { x.2 with waiting := x.2.waiting.filter fun q => !precedes 24 q.toNat e.toNat }) else x } }
    pumpFab ((s.fab.items.map (·.1)).foldl fabCheck s)

/-- `PACKET_BOUNCE` (R294, R295): the item that sent the named packet fails with the reason. -/
def execPacketBounce (p : FabPacket) (s : State) : Res :=
  takeArrived s p (· == 7) fun s =>
    let h : BitVec 128 := BitVec.ofNat 128 (p.payload.toNat % 2 ^ 128)
    let seq := BitVec.ofNat 24 (bitsN (hArg p.header) 8 24)
    match s.fab.items.find? fun e => e.2.dst == hDst h && e.2.seqs.contains seq with
    | none => s
    | some e => pumpFab (fabComplete s e.1 e.2 (some (BitVec.ofNat 8 (hArg p.header % 256))))

/-- `PACKET_RESERVED_TYPE` (R286). -/
def execPacketReservedType (p : FabPacket) (s : State) : Res :=
  takeArrived s p (fun t => decide (8 ≤ t)) fun s =>
    linkEvent { s with fab := { s.fab with proto := tallyAdd s.fab.proto 1 } } 0 0

/-- `ACK_SEND` (R294): e goes to a source when it has advanced, 32 packets have been accepted or 1 µs has passed since the first not yet
acknowledged, and every packet accepted from it has taken effect. -/
def execAckSend (src : BitVec 16) (s : State) : Res :=
  let o := orderAt s src
  let due := decide (32 ≤ o.accepted ∨ o.since + 1000 ≤ s.time.elapsed)
  done s (if o.e = o.ackSent || !due || s.fab.arrived.any (fun p => hSrc p.header == src && 1 ≤ hType p.header && hType p.header ≤ 5) then s
    else queueControl (modOrder s src fun o => { o with ackSent := o.e, accepted := 0 }) src s.fab.own 6 0 o.e.toNat 0)

/-- `FAB_ACK_TIMEOUT` (R294). -/
def execFabAckTimeout (item : Nat) (s : State) : Res :=
  done s (match s.fab.items.find? fun e => e.1 = item with
    | none => s
    | some e =>
      if e.2.waiting.isEmpty then s
      else
        let s := raiseEvent s 0x07 1 (unitPath s 0 0) (natLe 2 e.2.dst.toNat ++ [0, 0] ++ natLe 4 e.2.item.seq.toNat)
        pumpFab (fabComplete s e.1 e.2 (some 0x0F)))

end Sys2Proof.Machine
end

