-- ==== Sys2Proof/Machine/Network.lean ====
section
/-! DEFINITION. Messages and link management: routed messages and credits (R273-R277), strand tables and mode changes
(R281, R282), sparing (R303), circuits (R297-R300), transit (R301) and quench (R302). -/

namespace Sys2Proof.Machine

/-! ### Routed messages (R273-R277) -/

/-- Does a Q type follow a hop list (R276)? -/
def hopListType (q : BitVec 8) : Bool := q = 0x04 || q = 0x07 || q = 0x0A

/-- A message that no module forms is ignored and counted, as one of an unassigned type is (R277; log 5). -/
def ignoreQ (s : State) : State := { s with fab := { s.fab with proto := tallyAdd s.fab.proto 1 } }

/-- `Q_MESSAGE_FORWARD` (R276): a message for another node goes on by dimension order. Those along a hop list come as
their own commands. A body longer than any that fragments carry (R274) makes no message. -/
def execQMessageForward (port : Fin 8) (vc : Fin 2) (m : QMsg) (s : State) : Res :=
  done s (
    if hopListType m.qtype then s
    else if 4096 < m.body.length then ignoreQ (consumeQ s ⟨port, vc⟩)
    else match qHop s.fab.extent s.fab.node.toNat m.dst.toNat (some (port.val / 2, vc.val)) with
      | some (p, v) => putQ s p v (some (port, vc)) (.msg m)
      | none => s)

/-- `RESERVED_CONTROL_SYMBOL` (R273). -/
def execReservedControlSymbol (_port : Fin 8) (kind : BitVec 8) (s : State) : Res :=
  done s (if kind.toNat < 7 then s else { s with fab := { s.fab with proto := tallyAdd s.fab.proto 1 } })

/-- The assigned Q types (R277). -/
def qAssigned (q : BitVec 8) : Bool :=
  (1 ≤ q.toNat && q.toNat ≤ 0x0A) || (0x10 ≤ q.toNat && q.toNat ≤ 0x12) || (0x18 ≤ q.toNat && q.toNat ≤ 0x1A)

/-- `UNASSIGNED_QTYPE` (R277): ignored and counted; a routed one gives its buffer back. -/
def execUnassignedQtype (port : Fin 8) (vc : Option (Fin 2)) (q : BitVec 8) (s : State) : Res :=
  done s (if qAssigned q then s
    else
      let s := { s with fab := { s.fab with proto := tallyAdd s.fab.proto 1 } }
      match vc with | some v => consumeQ s ⟨port, v⟩ | none => s)

/-- Messages that wait for a credit of a channel start while it has one (R276). -/
def drainWait (s : State) (port : Fin 8) (vc : Fin 2) : State :=
  let mine := fun (w : QWait) => w.port == port && w.vc == vc
  let ws := s.fab.qWait.filter mine
  let s := { s with fab := { s.fab with qWait := s.fab.qWait.filter fun w => !mine w } }
  ws.foldl (fun s w => putQ s w.port.val w.vc.val w.held w.m) s

/-- `LINK_CREDIT` (R276): each input holds two buffers a channel. -/
def execLinkCredit (port : Fin 8) (vc : Fin 2) (n : BitVec 8) (s : State) : Res :=
  done s (
    let s := modPort s port.val fun p => { p with credits := upd 0 p.credits vc.val fun c => min 2 (c + n.toNat) }
    drainWait s port vc)

/-! ### Strand tables (R281, R282) -/

/-- `LINK_TABLE` (R281): the third difference in a row outside a mode change sets the strand to mode 0. -/
def execLinkTable (l : StrandId) (entry : BitVec 16) (s : State) : Res :=
  let k := strandKey l
  let x := strandAt s k
  done s (
    if x.change.isSome then s
    else if x.entry = entry then modStrand s k fun x => { x with differ := 0 }
    else if x.differ < 2 then modStrand s k fun x => { x with differ := x.differ + 1 }
    else
      let s := modStrand s k fun x =>
        { x with entry := mkEntry 0 0 (eFailed x.entry), differ := 0, replay := [] }
      let s := { s with fab := { s.fab with reroute := s.fab.reroute ++ x.replay.map (·.c) } }
      let s := match x.out with | some r => breakCircuit s r k | none => s
      let s := match x.inn with | some r => breakCircuit s r k | none => s
      linkEvent s k 0)

/-- `LINK_TABLE_TIMER` (R275, R281). -/
def execLinkTableTimer (l : StrandId) (s : State) : Res :=
  done s (if portUp s l.port.val then emit s (.linkTable l (strandAt s (strandKey l)).entry) else s)

/-- `LINK_MODE_CHANGE` (R282): the other end's proposal is confirmed by its echo; the echo of this end's own, entry and frame, confirms
it, and what waited for it goes on. -/
def execLinkModeChange (l : StrandId) (entry : BitVec 16) (frame : BitVec 32) (s : State) : Res :=
  let k := strandKey l
  done s (match (strandAt s k).change with
    | some c =>
      if c.initiator && !c.confirmed && c.entry = entry && c.frame = frame then
        let s := modStrand s k fun x => { x with change := some { c with confirmed := true, next := none } }
        match c.next with | some (q, m) => sendPath s q.toNat m | none => s
      else s
    | none =>
      let c : ModeChange := { entry := entry, frame := frame, initiator := false, confirmed := true }
      emit (modStrand s k fun x => { x with change := some c }) (.linkMode l entry frame))

/-- `MODE_CHANGE_FRAME` (R282): at the end of frame F + 3. -/
def execModeChangeFrame (l : StrandId) (s : State) : Res :=
  let k := strandKey l
  let x := strandAt s k
  done s (match x.change with
    | some c =>
      if !c.confirmed || !frameReached s (c.frame + 4) then s
      else
        let s := { s with fab := { s.fab with reroute := s.fab.reroute ++ x.replay.map (·.c) } }
        modStrand s k fun x =>
          { x with entry := mkEntry (eMode c.entry) (eSlice c.entry).toNat (eFailed x.entry), change := none, replay := [] }
    | none => s)

/-- The command of a path that was waiting for a strand fails here: at the source its completion, elsewhere a
`CIRCUIT_FAIL` to it (R282, R297). -/
def failPath (s : State) (r : Resv) (tag : BitVec 32) (hop cause : Nat) : State :=
  if r.handle.node = s.fab.node then
    match s.fab.circuits.find? fun c => c.source && !c.isOpen && c.tag = tag with
    | some c =>
      let s := dropCircuit (releasePath s c) c.handle
      if c.mirror then (if cause = 2 ∨ cause = 3 then s else mirrorTxFail s 5)
      else match s.firm.accepted.find? fun a => a.opcode = 0x0401 && a.p.tag = tag with
        | some a => completeCmd s a 0x04 (hopDetail hop cause) []
        | none => s
    | none => s
  else sendQ s r.handle.node 0x06 r.slice tag [BitVec.ofNat 8 hop, BitVec.ofNat 8 cause]

/-- The accepted command of an opcode and tag. -/
def acceptedTag (s : State) (opcode : Nat) (tag : BitVec 32) : Option PendCmd :=
  s.firm.accepted.find? fun c => c.opcode.toNat = opcode && c.p.tag = tag

/-- The hop list of a transit command (R301). -/
def transitPath (s : State) (p : Packet) (slice : BitVec 6) : PathMsg :=
  { src := s.fab.node, dst := 0, slice := slice, tag := p.tag, hops := sub p.payload 8 (nth 0 p.payload 1).toNat, pos := 0 }

/-- The transit strand of a link goes back to the mode of the layout at the end that the path enters by (R301): a change that is under
way is given up, mode 0 is taken at once, and another mode follows from the other end's mode change. -/
def enterLayout (s : State) (k : Nat) : State :=
  let s := if leaving (strandAt s k) then dropChange s k else s
  if eMode (layoutEntry s k) = 0 then modStrand s k fun x => { x with entry := layoutEntry s k } else s

/-- It goes back at the end that the path leaves by, and the message goes on. -/
def leaveLayout (s : State) (k : Nat) (m : PathMsg) : State :=
  let s := if leaving (strandAt s k) then dropChange s k else s
  takeMode s k (eMode (layoutEntry s k)) (eSlice (layoutEntry s k)) 0x0A m

/-- A transit command fails (R282, R297, R301): the strands that the grant has changed, those before the failing hop, go back. -/
def failTransit (s : State) (a : PendCmd) (hop cause : Nat) : State :=
  let m := transitPath s a.p 0
  let s := if a.opcode = 0x0403 && 0 < hop then
      leaveLayout s (hopStrand (nth 0 m.hops 0)) { m with hops := m.hops.take hop }
    else s
  if a.opcode = 0x0404 && cause = 2 then completeCmd s a 0x05 (BitVec.ofNat 64 (stateCode s.firm.state)) []
  else completeCmd s a 0x04 (hopDetail hop cause) []

/-- The transit command of a tag that waits for its answer. -/
def transitCmd (s : State) (tag : BitVec 32) : Option PendCmd := (acceptedTag s 0x0403 tag).or (acceptedTag s 0x0404 tag)

/-- `MODE_CHANGE_ABANDON` (R282): four frames after its proposal a change that is not confirmed is given up, and the command that caused
it fails with cause 6 at the hop that waited. -/
def execModeChangeAbandon (l : StrandId) (s : State) : Res :=
  let k := strandKey l
  done s (match (strandAt s k).change with
    | some c =>
      if c.confirmed || !frameReached s (c.frame - 4) then s
      else
        let s := dropChange s k
        match c.next with
        | none => s
        | some (q, m) =>
          if q = 0x04 then failPath s (resvOf m) m.tag m.pos 6
          else if m.src ≠ s.fab.node then sendQ s m.src 0x06 m.slice m.tag [BitVec.ofNat 8 m.pos, 6]
          else match transitCmd s m.tag with
            | some a => failTransit s a m.pos 6
            | none => s
    | none => s)

/-! ### Sparing (R303, R304) and lost links (R302) -/

/-- Codewords that a strand of a port has sent since the port was trained, one in 16 ns (R270; log 91). -/
def codewordCount (s : State) (port : Nat) : Nat := (s.time.elapsed - (portAt s port).upAt) / 16

/-- `LINK_SPARE_REQUEST` (R303): each direction spares once; the spare carries the lane from the next codeword boundary of its strand. -/
def execLinkSpareRequest (port : Fin 8) (lane : Fin 16) (s : State) : Res :=
  let p := portAt s port
  done s (
    if p.txSpared = 0x1F ∨ p.txSpared.toNat = lane.val then
      let n := BitVec.ofNat 32 (codewordCount s port + 1)
      emit (modPort s port fun p => { p with txSpared := BitVec.ofNat 5 lane.val, txFrom := n }) (.spareSwitch port lane n)
    else s)

/-- `LINK_SPARE_SWITCH` (R303): the receiver takes the lane from the spare from the named codeword on. -/
def execLinkSpareSwitch (port : Fin 8) (lane : Fin 16) (cw : BitVec 32) (s : State) : Res :=
  done s (modPort s port fun p => { p with rxSpared := BitVec.ofNat 5 lane.val, rxFrom := cw })

/-- `LINK_STRAND_FAILED` (R304). -/
def execLinkStrandFailed (l : StrandId) (s : State) : Res := done s (failStrand s (strandKey l) false)

/-- The receiver asks for the spare on a lane (R303). -/
def askSpare (s : State) (port : Fin 8) (lane : Fin 16) : State :=
  emit (modPort s port fun p => { p with rxAsked := BitVec.ofNat 5 lane.val }) (.spareRequest port lane)

/-- `LANE_LOSS_OF_LOCK` (R303, R304): the lane is spared, or its strand fails when sparing is spent. -/
def execLaneLossOfLock (port : Fin 8) (lane : Fin 16) (s : State) : Res :=
  let p := portAt s port
  done s (
    if p.rxAsked = 0x1F ∨ (p.rxAsked.toNat = lane.val ∧ p.rxSpared = 0x1F) then askSpare s port lane
    else failStrand s (4 * port.val + lane.val / 4) true)

/-- `LANE_ERROR_RATE` (R303). -/
def execLaneErrorRate (port : Fin 8) (lane : Fin 16) (s : State) : Res :=
  let p := portAt s port
  done s (if p.rxAsked = 0x1F ∨ (p.rxAsked.toNat = lane.val ∧ p.rxSpared = 0x1F) then askSpare s port lane else s)

/-! ### Dead modules and quench (R302, R438) -/

/-- The nodes that a source circuit crosses after its own. -/
def pathNodes (e : Extents) : Nat → List Byte → List Nat
  | _, [] => []
  | n, b :: t => let m := neighbour e n (hopStrand b / 4); m :: pathNodes e m t

/-- What the death of a node ends at this module: circuits through it (R300), generations short of `COMPLETE` (R370) and
mirrors with it (R376). -/
def deadEffects (s : State) (n : BitVec 16) : State :=
  let hit := fun (c : Circuit) => c.handle.node == n || c.dst == n ||
    (c.source && (pathNodes s.fab.extent s.fab.node.toNat c.hops).contains n.toNat)
  let s := (s.fab.circuits.filter hit).foldl (fun s c => endBroken s c.handle false) s
  let s := (List.range 32).foldl (fun s k =>
    match (strandAt s k).out with
    | some r => if r.handle.node = n ∨ r.dst = n then breakCircuit s r k else s
    | none => s) s
  let short := (s.hamper.gens.filter fun e => e.2.state == .local_).map fun e => BitVec.ofNat 32 e.1
  let s := short.foldl (fun s g => setGenState s g .incomplete) s
  let s := modHamper s fun h =>
    { h with gens := h.gens.map fun e => if e.2.state == .writing then (e.1, { e.2 with lost := true }) else e }
  let s := match s.hamper.mirrorTx with
    | some j =>
      if (genAt s j.gen).any fun (g : Gen) => (buddyOf s g.buddy).map (fun (x : Nat × Nat) => x.1) == some n.toNat then mirrorTxFail s 5 else s
    | none => s
  match s.hamper.mirrorRx with
  | some g => if (mirrorAt s g).any fun (x : Gen) => mirrorSource s x.buddy == some n.toNat then mirrorRxFail s 5 else s
  | none => s

/-- `QUENCH_MSG` (R302, R438): a number that follows is adopted and flooded; the current number with a new dead node adds
the node and floods once. -/
def execQuenchMsg (port : Fin 8) (q : QuenchMsg) (s : State) : Res :=
  let cur := s.fab.quench
  done s (
    if q.slice ≠ s.fab.own ∨ q.slice = 0 then s
    else if precedes 16 cur.number.toNat q.number.toNat then
      let y : Quench := { cur with on := true, number := q.number, origin := q.origin }
      let s := { s with fab := { s.fab with quench := if q.deadValid then addDead y q.dead else y } }
      let s := floodQuench s (some port.val) q
      let s := if q.deadValid then deadEffects s q.dead else s
      finishDrain (quenchFault s q.reason.toNat)
    else if q.number = cur.number && q.deadValid && !cur.dead.contains q.dead && !(cur.overflow && cur.lastDead == some q.dead) then
      let s := { s with fab := { s.fab with quench := addDead cur q.dead } }
      deadEffects (floodQuench s (some port.val) q) q.dead
    else s)

/-- The quench is lifted, and the held traffic goes on (R302). -/
def liftQuench (s : State) (except : Option Nat) : State :=
  let n := s.fab.quench.number
  let s := { s with fab := { s.fab with quench := { s.fab.quench with on := false } } }
  let s := (slicePorts s (ownSlice s)).foldl (fun s p =>
    if some p = except then s else emit s (.unquench (Fin.ofNat 8 p) s.fab.own n)) s
  (s.fab.circuits.map (·.handle)).foldl pumpCircuit s

/-- `UNQUENCH_MSG` (R302). -/
def execUnquenchMsg (port : Fin 8) (slice : BitVec 6) (number : BitVec 16) (s : State) : Res :=
  done s (
    if slice = s.fab.own ∧ number = s.fab.quench.number ∧ s.fab.quench.on then liftQuench s (some port.val) else s)

/-- `FABRIC_LINK_DOWN` (R302, R304): the strands of the port fail; a neighbour of the slice that is declared dead is
quenched with its node. -/
def execFabricLinkDown (port : Fin 8) (dead : Bool) (s : State) : Res :=
  let p := port.val
  let n := neighbour s.fab.extent s.fab.node.toNat p
  done s (
    if !portUp s p then s
    else if dead && inSlice s.fab.extent (ownSlice s) n then
      let s := sendQuench s 2 (some (BitVec.ofNat 16 n))
      let s := quenchFault (deadEffects s (BitVec.ofNat 16 n)) 2
      finishDrain ((strandsOf p).foldl (fun s k => failStrand s k false) s)
    else finishDrain ((strandsOf p).foldl (fun s k => failStrand s k false) s))

/-! ### Circuits (R297-R300) -/

/-- The last module of a path reserves its input and answers (R297). -/
def endSetup (s : State) (k : Nat) (m : PathMsg) : State :=
  let inside := match sliceNo s m.slice.toNat with | some d => inSlice s.fab.extent d s.fab.node.toNat | none => false
  let cause := if m.dst ≠ s.fab.node || !inside then 4 else inCause s m.slice k
  if cause ≠ 0 then sendQ s m.src 0x06 m.slice m.tag [BitVec.ofNat 8 (m.pos - 1), BitVec.ofNat 8 cause]
  else
    let s := modStrand s k fun x => { x with inn := some (resvOf m) }
    let c : Circuit := { handle := handleOf m, source := false, slice := m.slice, dst := m.dst, hops := [], isOpen := true, tag := m.tag }
    let s := { s with fab := { s.fab with circuits := s.fab.circuits ++ [c] } }
    sendQ s m.src 0x05 m.slice m.tag (natLe 4 (handleWord (handleOf m)))

/-- A module on the path checks and reserves its hop and forwards the setup (R297). -/
def midSetup (s : State) (k : Nat) (m : PathMsg) : State :=
  let o := hopStrand (nth 0 m.hops m.pos)
  let ci := inCause s m.slice k
  let co := outCause s m.slice o
  if ci ≠ 0 then sendQ s m.src 0x06 m.slice m.tag [BitVec.ofNat 8 (m.pos - 1), BitVec.ofNat 8 ci]
  else if co ≠ 0 then
    -- a hop over an absent port counts as an access to it (R5)
    let s := if unitOn s .port (o / 4) then s else countAbsent s .port (o / 4)
    sendQ s m.src 0x06 m.slice m.tag [BitVec.ofNat 8 m.pos, BitVec.ofNat 8 co]
  else reserveOut (modStrand s k fun x => { x with inn := some (resvOf m) }) o m

/-- Does a path message fit its format: 1 to 64 hops, with a position on them (R296)? -/
def pathOk (m : PathMsg) : Bool := 1 ≤ m.hops.length && m.hops.length ≤ 64 && 1 ≤ m.pos && m.pos ≤ m.hops.length

/-- The credit of the buffer that a path message came in returns: the firmware takes it in (R276). -/
def consumePath (s : State) (l : StrandId) (m : PathMsg) : State := consumeQ s ⟨l.port, m.vc⟩

/-- `CIRCUIT_SETUP` (R297): a list that is no path of 1 to 64 links (R296) is ignored. -/
def execCircuitSetup (l : StrandId) (m : PathMsg) (s : State) : Res :=
  done s (
    let s := consumePath s l m
    if !pathOk m then ignoreQ s
    else if m.pos = m.hops.length then endSetup s (strandKey l) m else midSetup s (strandKey l) m)

/-- `CIRCUIT_READY` (R297): the circuit is open. It answers a transit command of the tag as well (R301; log 21). -/
def execCircuitReady (via : QVia) (tag : BitVec 32) (s : State) : Res :=
  done s (
    let s := consumeQ s via
    match s.fab.circuits.find? fun c => c.source && !c.isOpen && c.tag = tag with
    | some c =>
      let s := modCircuit s c.handle fun c => { c with isOpen := true }
      if c.mirror then mirrorSend s c.handle
      else match acceptedTag s 0x0401 tag with
        | some a => completeCmd s a 0 (BitVec.ofNat 64 (handleWord c.handle)) []
        | none => s
    | none => match transitCmd s tag with | some a => completeCmd s a 0 0 [] | none => s)

/-- `CIRCUIT_FAIL` (R297, R301, R376). -/
def execCircuitFail (via : QVia) (tag : BitVec 32) (hop : BitVec 8) (cause : BitVec 8) (s : State) : Res :=
  done s (
    let s := consumeQ s via
    match s.fab.circuits.find? fun c => c.source && !c.isOpen && c.tag = tag with
    | some c => failPath s { handle := c.handle, dst := c.dst, slice := c.slice } tag hop.toNat cause.toNat
    | none => match transitCmd s tag with | some a => failTransit s a hop.toNat cause.toNat | none => s)

/-- `CIRCUIT_RELEASE` (R297, R300): the module's reservations clear and the message goes on; the last module returns it,
and at its source it completes the close. -/
def execCircuitRelease (l : StrandId) (m : PathMsg) (s : State) : Res :=
  let h := handleOf m
  done s (
    let s := consumePath s l m
    if !(1 ≤ m.hops.length && m.hops.length ≤ 64) then ignoreQ s
    else if m.src = s.fab.node then
      match s.firm.accepted.find? fun c => c.opcode = 0x0402 && leNat (c.p.payload.take 4) = handleWord h with
      | some a => completeCmd s a 0 0 []
      | none => s
    else
      match (strandAt s (strandKey l)).inn with
      | some r =>
        if !(r.handle == h) then s
        else match outOf s h with
          | some o => clearResv (pathOut s 0x07 o m) h
          | none => dropCircuit (clearResv (sendQ s m.src 0x07 m.slice m.tag (natLe 4 (handleWord h))) h) h
      | none => s)

/-- `CIRCUIT_SETUP_TIMEOUT` (R297): cause 6; no hop is known, its index is free (log 4). -/
def execCircuitSetupTimeout (tag : BitVec 32) (s : State) : Res :=
  done s (match s.fab.circuits.find? fun c => c.source && !c.isOpen && c.tag = tag with
    | some c =>
      failPath { s with free := s.free + 1 } { handle := c.handle, dst := c.dst, slice := c.slice } tag (freeByte s) 6
    | none => s)

/-- What the receiving engine of a circuit gets of a codeword in cseq order (R298, R299): the ring's engine its blocks, the Hamper the
bytes of an item, which it has whole with the item's last codeword (log 90). -/
def handOn (s : State) (p : Nat) (x : Circuit) (w : Codeword) : State :=
  if !w.item.getLsbD 31 then deliverBlock s (p / 2) x w
  else modCircuit s x.handle fun x =>
    let bs := (if w.flags.getLsbD 1 then [] else x.received) ++ w.data.take w.valid.toNat
    if w.flags.getLsbD 2 then { x with received := [], inbox := x.inbox ++ [(w.item, bs)] } else { x with received := bs }

/-- An acknowledgement goes out with the 64th codeword since the last one (R299). -/
def countAck (s : State) (h : Handle) : State :=
  let s := modCircuit s h fun c => { c with sinceAck := c.sinceAck + 1 }
  match circuitAt s h with
  | some c => if 64 ≤ c.sinceAck then sendCircuitAck s c else s
  | none => s

/-- A codeword at its destination (R299): in cseq order it is handed on, idle ones say nothing, and after a lost one all
are discarded until its retransmission. -/
def takeCodeword (s : State) (p : Nat) (x : Circuit) (w : Option Codeword) : State :=
  let lost := fun (s : State) => countAck (modCircuit s x.handle fun c => { c with missing := true }) x.handle
  match w with
  | none => lost s
  | some w =>
    if crc32c (w.data.take w.valid.toNat) ≠ w.crc.toNat then lost s
    else if w.flags.getLsbD 0 then s
    else if w.cseq = x.cseqRx then
      let s := modCircuit s x.handle fun c => { c with cseqRx := c.cseqRx + 1, missing := false }
      countAck (handOn s p x w) x.handle
    else if precedes 32 x.cseqRx.toNat w.cseq.toNat then lost s
    else s

/-- `CIRCUIT_CODEWORD` (R271, R298, R299): an intermediate module forwards it, the destination decodes it. A codeword whose payload is
uncorrectable or whose control slot fails is lost, and what failed counts (R309). -/
def execCircuitCodeword (l : StrandId) (cw : List Byte) (s : State) : Res :=
  let cw := padTo 2048 cw
  done s (
    match (strandAt s (strandKey l)).inn with
    | none => s
    | some r =>
      match outOf s r.handle with
      | some o => emit s (.circuit (strandOf o) cw)
      | none => match circuitAt s r.handle with
        | some x =>
          let d := readCodeword cw
          let s := modPort s l.port.val fun p =>
            { p with cwCorr := p.cwCorr + bn d.fixed, cwUncorr := tallyAdd p.cwUncorr (bn d.control.isNone + bn d.payload.isNone) }
          takeCodeword s l.port.val x (match d.control, d.payload with | some c, some b => circuitOf c b | _, _ => none)
        | none => s)

/-- `CIRCUIT_ACK` (R299): covered codewords are freed, covered items are done, and from a named one on the rest is sent
again. -/
def execCircuitAck (via : QVia) (h : Handle) (cum : BitVec 32) (nak : Option (BitVec 32)) (s : State) : Res :=
  done s (
    let s := consumeQ s via
    match circuitAt s h with
    | none => s
    | some c =>
      if !c.source then s
      else
        let fwd := precedes 32 c.cseqAck.toNat cum.toNat
        let covered := fun (q : BitVec 32) => fwd && (q == cum || precedes 32 q.toNat cum.toNat)
        let fin := c.items.filter fun i => covered i.2
        let s := modCircuit s h fun c =>
          { c with cseqAck := if fwd then cum else c.cseqAck, staged := c.staged.filter (fun w => !covered w.cseq),
                   items := c.items.filter fun i => !covered i.2 }
        let s := match nak, circuitAt s h with
          | some n, some c =>
            (c.staged.filter fun w => (w.cseq == n || precedes 32 n.toNat w.cseq.toNat) && precedes 32 w.cseq.toNat c.sent.toNat).foldl
              (fun s w => emit s (.circuit (strandOf h.strand.toNat) (circuitBytes { w with flags := w.flags ||| 8 }))) s
          | _, _ => s
        let s := pumpCircuit s h
        if c.mirror then fin.foldl (fun s i => mirrorSent s (i.1.toNat % 2 ^ 31)) s else s)

/-- `CIRCUIT_ACK_TIMER` (R299). -/
def execCircuitAckTimer (h : Handle) (s : State) : Res :=
  done s (match circuitAt s h with
    | some c => if c.source then s else sendCircuitAck s c
    | none => s)

/-- `CIRCUIT_NAK_REPEAT` (R299). -/
def execCircuitNakRepeat (h : Handle) (s : State) : Res :=
  done s (match circuitAt s h with
    | some c => if !c.source && c.missing then sendCircuitAck s c else s
    | none => s)

/-- `CIRCUIT_BROKEN` (R300). -/
def execCircuitBroken (via : QVia) (h : Handle) (s : State) : Res := done s (endBroken (consumeQ s via) h false)

/-! ### Transit (R301) -/

/-- The cause for which a strand cannot become a transit strand of a slice, 0 for none (R301). -/
def transitCause (s : State) (slice : BitVec 6) (k : Nat) : Nat :=
  let x := strandAt s k
  let e := x.entry
  if eFailed e || !portUp s (k / 4) then 5
  else if x.change.isSome then 1
  else if eMode e = 0 then 0
  else if eMode e = 1 && eSlice e ≠ slice then (if keepsPackets s k then 0 else 3)
  else 1

/-- Does a circuit use a strand in either direction? -/
def strandUsed (s : State) (k : Nat) : Bool := (strandAt s k).out.isSome || (strandAt s k).inn.isSome

/-- One module's part of a transit path (R301): the link that enters it and the one that leaves it; `slice` 0 revokes
(log 21). The answer is the cause of a refusal. -/
def transitHop (s : State) (k : Option Nat) (m : PathMsg) : State × Nat :=
  let o := if m.pos < m.hops.length then some (hopStrand (nth 0 m.hops m.pos)) else none
  let back := fun (s : State) => match o with | some _ => s | none => sendQ s m.src 0x05 m.slice m.tag []
  if m.slice = 0 then
    if o.any (strandUsed s) then (s, 2)
    else
      let s := match k with | some k => enterLayout s k | none => s
      (match o with | some o => leaveLayout s o m | none => back s, 0)
  else
    let cause := match o with | some o => transitCause s m.slice o | none => 0
    if cause ≠ 0 then (s, cause)
    else
      -- the end that a mode change reaches follows it by R282; mode 0 changes at once
      let s := match k with
        | some k => if eMode (strandAt s k).entry = 0 then
            modStrand s k fun x => { x with entry := mkEntry 3 m.slice.toNat (eFailed x.entry) } else s
        | none => s
      (match o with | some o => takeMode s o 3 m.slice 0x0A m | none => back s, 0)

/-- `TRANSIT_SET` (R301): the message goes on, or from the last module its answer goes back. -/
def execTransitSet (l : StrandId) (m : PathMsg) (s : State) : Res :=
  done s (
    let s := consumePath s l m
    if !pathOk m then ignoreQ s
    else
    let r := transitHop s (some (strandKey l)) m
    if r.2 ≠ 0 then sendQ s m.src 0x06 m.slice m.tag [BitVec.ofNat 8 m.pos, BitVec.ofNat 8 r.2] else r.1)

end Sys2Proof.Machine
end

