-- ==== Sys2Proof/Machine/Registers.lean ====
section
/-! DEFINITION. What the control registers read (R258): the layouts of R7, R33, R64, R118, R119, R159-R163, R189-R191,
R219, R220, R224, R227, R243-R245, R264-R266, R308, R309, R350-R353, R377, R388, R398, R404, R427 and R454. -/

namespace Sys2Proof.Machine

/-- A word from fields: value and lowest bit. -/
def word (fs : List (Nat × Nat)) : Word := BitVec.ofNat 64 (fs.foldl (fun n f => n + f.1 * 2 ^ f.2) 0)

/-! ### The status and RB (R404, R405) -/

/-- Is the ring not read up, or an entry queued (R404)? -/
def ringUnread (s : State) : Bool :=
  s.vkx.tail ≠ s.vkx.head || !s.vkx.comps.isEmpty || !s.vkx.events.isEmpty ||
    s.vkx.posts.any fun p => match p.what with | .entry _ => true | .reply _ _ => false

/-- Commands taken and not yet replied (R404). -/
def executing (s : State) : Nat :=
  s.firm.taken.length + s.vkx.replyQ.length +
    (s.vkx.posts.filter fun p => match p.what with | .entry _ => false | .reply _ _ => true).length

/-- The level of the RB pin (R405). -/
def rbLevel (s : State) : Bool :=
  3 ≤ stateCode s.firm.state && executing s = 0 && s.vkx.replies.isEmpty && !ringUnread s && !s.firm.held

/-- Are no slots taken, because the queue of completions is full (R403)? -/
def queueFull (s : State) : Bool := decide (4096 ≤ s.vkx.comps.length)

/-- Commands replied `ACCEPTED` and not yet completed: the module's own part of a group command is not one of its own (R27,
R404). -/
def pendingCommands (s : State) : Nat := (s.firm.accepted.filter fun c => c.p.route != .fabric s.fab.node).length

/-- `DIE.STATUS` (R404). -/
def dieStatus (s : State) : Word :=
  word [(s.firm.image.toNat, 58), (bn s.firm.fwSlot, 57), (bn s.firm.factory, 56), (bn (rbLevel s), 55),
        (bn (ringUnread s), 54), (bn (queueFull s), 53), (s.vkx.replies.length % 128, 46),
        (pendingCommands s % 2 ^ 13, 32), (executing s % 128, 16), (stateCode s.firm.state, 0)]

/-! ### Die registers -/

/-- `DIE.BOOT` (R427). -/
def dieBoot (s : State) : Word :=
  let f := s.firm
  word [(f.cause.toNat, 56), (f.failedPhase.toNat, 52), (f.phase.toNat, 48), (f.resetCause.toNat, 44), (f.notes.toNat, 38),
        (f.bootMs.toNat, 0)]

/-- `DIE.CTX_SAVE` (R33). -/
def dieCtxSave (s : State) : Word :=
  if saveSlots s = 0 then 0 else word [(saveSlots s, 48), (saveBase s, 0)]

/-- `DIE.HAMPER_STAGE` (R377): 256 MiB below the save area, from `LINKUP` on. -/
def dieHamperStage (s : State) : Word := if anyState s then word [(0x100, 48), (saveBase s - 0x10000000, 0)] else 0

/-- `DIE.THERMAL` (R454). -/
def dieThermal (s : State) : Word :=
  let p := s.phys
  word [(p.pin100.toNat, 48), (p.pin10.toNat, 32), (p.tj.toNat, 24), (p.inlet.toNat, 16), (p.flowDem.toNat, 9),
        (p.powerDem.toNat, 6), (p.thermalDem.toNat, 3), (throttleStep s, 0)]

/-- `DIE.SAMPLE_STATUS` (R220). -/
def dieSamples (s : State) : Word :=
  word [(match s.prog with | some g => g.keepSlots | none => 0, 32), ((s.samples.filter fun e => e.2.state ≠ 0).length, 16)]

/-- The `DIE` registers (R7, R33, R220, R243, R377, R404, R427, R454). -/
def dieReg (s : State) : Nat → Option Word
  | 0x000 => some (dieStatus s)
  | 0x010 => some (gradeWord s)
  | 0x020 => some (dieBoot s)
  | 0x028 => some s.firm.detail
  | 0x030 => some (s.trust.setWidth 64)
  | 0x040 => some (dieCtxSave s)
  | 0x048 => some (dieHamperStage s)
  | 0x050 => some (dieThermal s)
  | 0x058 => some (BitVec.ofNat 64 (s.phys.throttledNs / 1000))
  | 0x100 => some (dieSamples s)
  | 0x108 => some (BitVec.ofNat 64 s.closed)
  | 0x110 => some (word [(bn s.ovfSat, 48), (s.ovfOver.toNat, 32), (s.ovfLog.length, 0)])
  | 0x180 => some (word [(bn s.mem.repSat, 44), (s.mem.repOvf.toNat, 32), (s.mem.repair.length, 0)])
  | _ => none

/-! ### Memories -/

/-- A march register (R244). -/
def marchWord (m : March) : Word :=
  word [(m.unrepaired.toNat, 48), (m.repaired.toNat, 40), (m.sparesLeft.toNat, 32), (m.bank.toNat, 8), (m.mode.toNat, 2),
        (m.state.toNat, 0)]

/-- The block of an LLM slice (R245). -/
def llmReg (s : State) (k : Nat) (o : Nat) : Option Word :=
  let x := rd {} s.mem.slices k
  match o with
  | 0x000 => some (word [(x.disabled.toNat, 32), (x.scratch.toNat, 0)])
  | 0x008 => some (BitVec.ofNat 64 x.hits)
  | 0x010 => some (BitVec.ofNat 64 x.misses)
  | 0x018 => some (BitVec.ofNat 64 x.writebacks)
  | 0x020 => some (BitVec.ofNat 64 x.fetch)
  | 0x028 => some (tallyWord x.ce)
  | 0x030 => some (tallyWord x.ue + word [(bn x.ueOff.isSome, 33), ((x.ueOff.getD 0).toNat, 34)])
  | 0x038 => some (word [(bn x.scrubEn, 16), (x.scrubInterval.toNat, 0)])
  | 0x040 => some (marchWord (marchNow s.time.cycle true x.march))
  | _ => none

/-- The block of an HBM stack (R265). -/
def hbmReg (s : State) (k : Nat) (o : Nat) : Option Word :=
  let x := rd {} s.mem.hbm k
  match o with
  | 0x000 => some (word [(if x.trained then (Config.stackTemp k s.time.cycle).toNat else 0, 32), (x.softRepairs.toNat, 16), (x.sparesLeft.toNat, 8), (bn x.trained, 0)])
  | 0x008 => some (tallyWord x.ce)
  | 0x010 => some (tallyWord x.ue)
  | 0x018 => some (match x.ueAddr with | some l => word [(l.toNat, 6), (1, 0)] | none => 0)
  | 0x020 => some (tallyWord x.ondie)
  | 0x028 => some (tallyWord x.poison)
  | 0x030 => some (word [(bn x.scrubEn, 16), (x.hours.toNat, 0)])
  | _ => none

/-- The die-level `HBM` block (R264). -/
def hbmDieReg (s : State) (o : Nat) : Option Word :=
  let m := s.mem
  match o with
  | 0x00 => some (word [(m.p0cap.toNat, 16), (m.w3.toNat, 10), (m.w2.toNat, 5), (m.w1.toNat, 0)])
  | 0x08 => some (BitVec.ofNat 64 (rd 0 m.bytesP 0))
  | 0x10 => some (BitVec.ofNat 64 (rd 0 m.bytesP 1))
  | 0x18 => some (BitVec.ofNat 64 (rd 0 m.bytesP 2))
  | 0x20 => some (BitVec.ofNat 64 (rd 0 m.bytesP 3))
  | 0x28 => some (word [(bn m.retSat, 44), (m.retOvf.toNat, 32), (m.retired.length, 0)])
  | _ => none

/-- Is some capacity of a device outside the mapping (R262, R266)? -/
def cxlUnmapped (s : State) (k : Nat) : Bool :=
  let n := cxlWays s
  let c := cxlCap s k
  if n = 1 then decide (16384 < ((List.range 4).filter (· ≤ k)).foldl (fun t j => t + cxlCap s j) 0 ∧ 0 < c)
  else decide (mappedCap s / n < c) || (decide (n ≤ k) && decide (0 < c))

/-- `CXL.STATUS` (R266). -/
def cxlStatus (s : State) : Word :=
  let here := (List.range 4).filter fun k => (rd {} s.mem.cxl k).present
  let speed := here.foldl (fun m k => let v := (rd {} s.mem.cxl k).speed.toNat; if m = 0 then v else min m v) 0
  word [(mappedCap s, 49), (here.length, 36), (cxlWays s, 32), (s.mem.gran, 28), (s.mem.bifur, 26), (speed, 16),
        (s.mem.cxlDown.toNat, 0)]

/-- `CXL.DEVk` (R266). -/
def cxlDev (s : State) (k : Nat) : Word :=
  let d := rd {} s.mem.cxl k
  word [(min d.capacity 0x7FFF, 49), (bn (cxlUnmapped s k), 40), (d.lanes.toNat, 32), (bn d.present, 0)]

/-- The `CXL` block (R266). -/
def cxlReg (s : State) (o : Nat) : Option Word :=
  match o with
  | 0x00 => some (cxlStatus s)
  | 0x08 => some (tallyWord s.mem.cxlRetry)
  | 0x10 => some (tallyWord s.mem.cxlLost)
  | 0x18 => some (s.mem.cxlTimeout.setWidth 64)
  | 0x40 => some (cxlDev s 0)
  | 0x48 => some (cxlDev s 1)
  | 0x50 => some (cxlDev s 2)
  | 0x58 => some (cxlDev s 3)
  | _ => none

/-! ### Fabric, collectives, time -/

/-- `FAB.SLICE` (R308). -/
def fabSlice (s : State) : Word :=
  match sliceNo s s.fab.own.toNat with
  | none => 0
  | some d =>
    let w := (List.range 4).foldl (fun n a => n + 2 ^ a * bn (wraps s.fab.extent d a)) 0
    word [(d.number.toNat, 58), (nth 0 d.start 0, 53), (nth 0 d.start 1, 48), (nth 0 d.start 2, 43), (nth 0 d.start 3, 39),
          (nth 0 d.ext 0, 33), (nth 0 d.ext 1, 27), (nth 0 d.ext 2, 21), (nth 0 d.ext 3, 16), (w, 0)]

/-- The `FAB` die block (R308). -/
def fabReg (s : State) (o : Nat) : Option Word :=
  let f := s.fab
  match o with
  | 0x00 => some (word [(f.node.toNat, 48), (f.coords.x.toNat, 43), (f.coords.y.toNat, 38), (f.coords.z.toNat, 33),
      (f.coords.w.toNat, 29), (f.method.toNat, 27), (bn f.root, 26), (bn f.placed, 25)])
  | 0x08 => some (word [(f.extent.nx.toNat, 18), (f.extent.ny.toNat, 12), (f.extent.nz.toNat, 6), (f.extent.nw.toNat, 0)])
  | 0x10 => some s.serial
  | 0x18 => some (fabSlice s)
  | 0x20 => some (word [(bn f.quench.overflow, 50), (bn f.quench.lastDead.isSome, 49), (bn f.quench.on, 48),
      (f.quench.number.toNat, 32), (f.quench.origin.toNat, 16), ((f.quench.lastDead.getD 0).toNat, 0)])
  | 0x28 => some (f.ackTimeout.setWidth 64)
  | 0x40 => some (BitVec.ofNat 64 f.injected)
  | 0x48 => some (BitVec.ofNat 64 f.ejected)
  | 0x50 => some (BitVec.ofNat 64 f.deflected)
  | 0x58 => some (BitVec.ofNat 64 f.ejBusy)
  | 0x60 => some (BitVec.ofNat 64 f.golden)
  | 0x68 => some (BitVec.ofNat 64 f.heldCnt)
  | 0x70 => some (BitVec.ofNat 64 f.dup)
  | 0x78 => some (BitVec.ofNat 64 f.bounced)
  | 0x80 => some (tallyWord f.proto)
  | _ => none

/-- `FAB.PORT_STATUS` (R309). -/
def portStatus (s : State) (p : Nat) : Word :=
  let x := portAt s p
  let failed := (List.range 4).foldl (fun n k => n + 2 ^ k * bn (eFailed (strandAt s (4 * p + k)).entry)) 0
  word [(failed, 52), (x.txSpared.toNat, 40), (x.rxSpared.toNat, 32), (x.state.toNat, 0)]

/-- The block of a port (R309). -/
def portReg (s : State) (p : Nat) (o : Nat) : Option Word :=
  let x := portAt s p
  match o with
  | 0x00 => some (portStatus s p)
  | 0x08 => some ((strandAt s (4 * p)).entry.setWidth 64)
  | 0x10 => some ((strandAt s (4 * p + 1)).entry.setWidth 64)
  | 0x18 => some ((strandAt s (4 * p + 2)).entry.setWidth 64)
  | 0x20 => some ((strandAt s (4 * p + 3)).entry.setWidth 64)
  | 0x28 => some (BitVec.ofNat 64 x.cwCorr)
  | 0x30 => some (tallyWord x.cwUncorr)
  | 0x38 => some (BitVec.ofNat 64 x.replays)
  | 0x40 => some (BitVec.ofNat 64 x.qSent)
  | _ => none

/-- `CE.CHANc` (R352). -/
def chanWord (c : Chan) : Word :=
  word [(bn c.bound, 63), (c.n, 57), (c.pos, 52), (c.plus.length, 49), (c.minus.length, 46), (c.items.length, 41),
        (c.next.toNat, 0)]

/-- The block of a collective engine (R352). -/
def ceReg (s : State) (a : Nat) (o : Nat) : Option Word :=
  let e := rd {} s.ces a
  if o < 0x40 then (if o % 8 = 0 then some (chanWord (rd {} e.chans (o / 8))) else none)
  else match o with
  | 0x40 => some (BitVec.ofNat 64 e.items)
  | 0x48 => some (BitVec.ofNat 64 e.tx)
  | 0x50 => some (BitVec.ofNat 64 e.rx)
  | 0x58 => some (BitVec.ofNat 64 e.flagged)
  | 0x60 => some (tallyWord e.csum)
  | 0x68 => some (e.timeout.setWidth 64)
  | _ => none

/-- `TIME.STATUS` (R353). -/
def timeStatus (s : State) : Word :=
  let x := s.time
  word [(x.stratum.toNat, 56), (x.upstream.toNat, 53), (bn x.upValid, 52), (x.state.toNat, 49), (bn x.pps, 48),
        (bn x.master, 47), (bn x.drift, 46), (min (x.holdNs / 1000000) 0xFFFFFFFF, 0)]

/-- `TIME.OFFSET` (R353). -/
def timeOffset (s : State) : Word := word [(s.time.delay.toNat, 32), (s.time.offset.toNat, 0)]

/-- The time and snapshot registers (R353). `TIME.FEC` reads what its last read latched. -/
def timeReg (s : State) (o : Nat) : Option Word :=
  let sn := fun i => rd {} s.time.snaps i
  match o with
  | 0x00 => some (fec s)
  | 0x08 => some (timeStatus s)
  | 0x10 => some (timeOffset s)
  | 0x18 => some (word [(s.time.epochQ.length, 0)])
  | 0x20 => some (word ((List.range 4).map fun i => ((sn i).id.toNat, 16 * i)))
  | 0x28 => some (word ((List.range 4).map fun i => (bn (sn i).done + 16 * bn (sn i).waits, i)))
  | _ => none

/-- Four 16-bit counters from number `n` on (R350). -/
def fourCounters (t : Table (BitVec 16)) (n : Nat) : Word :=
  word ((List.range 4).map fun i => ((rd 0 t (n + i)).toNat, 16 * i))

/-- `BAR.TREEt` (R351). -/
def treeWord (s : State) (k : Nat) : Word :=
  match treeDecl s k with
  | none => 0
  | some d =>
    let t := rd {} s.trees k
    word [(t.round.toNat, 48), (expected d, 37), (t.who.length, 26), ((myChildren s).length, 22), (t.heard.length, 18),
          ((myParent s).getD 0, 15), (bn (isAnchor s), 14), (1, 13), (bn d.step, 12)]

/-! ### Hamper and host link -/

/-- The newest generation at `LOCAL` or beyond (R388). -/
def lastLocal (s : State) : BitVec 32 := newest s fun g => g == .local_ || isComplete g

/-- `HAMPER.STATUS` (R388): free user capacity at 3 B a cell block, 12,288 GiB at most (log 19). -/
def hamperStatus (s : State) : Word :=
  let h := s.hamper
  word [(stagingSpace s / 2 ^ 30, 36), (min 12288 (freeBlocks s * 0xC00000 / 2 ^ 30), 20), (bn h.background, 7),
        (bn (h.mirrorTx.isSome || h.mirrorRx.isSome), 6), (bn h.copyOut.isSome, 5), (h.state.toNat, 0)]

/-- `HAMPER.HOLDUP` (R388). -/
def hamperHoldup (s : State) : Word := word [(s.hamper.energy % 2 ^ 32, 16), (min s.hamper.cap 64, 0)]

/-- `HAMPER.WEAR` (R388): wear of the blocks in service; a block that the table does not list has none. -/
def hamperWear (s : State) : Word :=
  let bs := s.hamper.blocks.filter fun e => !e.2.bad
  let hi := s.hamper.blocks.foldl (fun m e => max m e.2.wear) 0
  let lo := if bs.length < 1398784 - s.factoryBad.toNat - s.hamper.grownBad.toNat then 0
    else bs.foldl (fun m e => min m e.2.wear) 0xFFFF
  word [(min hi 0xFFFF, 48), (lo, 32), (35000 - s.hamper.lifeW / 10 ^ 12, 0)]

/-- The `HAMPER` block (R388). -/
def hamperReg (s : State) (o : Nat) : Option Word :=
  let h := s.hamper
  match o with
  | 0x00 => some (hamperStatus s)
  | 0x08 => some (hamperHoldup s)
  | 0x10 => some (hamperWear s)
  | 0x18 => some (word [(s.factoryBad.toNat, 32), (h.grownBad.toNat, 0)])
  | 0x20 => some (tallyWord h.soft)
  | 0x28 => some (tallyWord h.lost)
  | 0x30 => some (BitVec.ofNat 64 h.bytesW)
  | 0x38 => some (BitVec.ofNat 64 h.bytesR)
  | 0x40 => some (word [(h.jnum.toNat, 32), ((h.journal.filter (isLive s)).length, 0)])
  | 0x48 => some (word [((newest s isComplete).toNat, 32), ((lastLocal s).toNat, 0)])
  | 0x50 => some (word [(h.refresh.length, 8), (h.age.toNat, 0)])
  | _ => none

/-- `VKX.STATUS` (R398). -/
def vkxStatus (s : State) : Word :=
  word [(s.vkx.speed.toNat, 32), (s.vkx.lanes.toNat, 24), (s.vkx.state.toNat, 0)]

/-- The `VKX` block (R398). -/
def vkxReg (s : State) (o : Nat) : Option Word :=
  let v := s.vkx
  match o with
  | 0x00 => some (word [(v.base.toNat, 16), (bn v.en, 8), (v.order.toNat, 0)])
  | 0x08 => some (vkxStatus s)
  | 0x10 => some (BitVec.ofNat 64 v.replayCnt)
  | 0x18 => some (tallyWord v.crcErr)
  | 0x20 => some (tallyWord v.retrain)
  | 0x28 => some (tallyWord v.lost)
  | 0x30 => some (tallyWord v.evLost)
  | 0x38 => some (v.timeout.setWidth 64)
  | _ => none

/-! ### Tile registers (R158) -/

/-- The state code of a stream (R159). -/
def streamState (x : StreamCtx) : Nat :=
  match x.run with
  | .notStarted => 0xA
  | .ended => 5
  | .halted => 6
  | .atBreak => 7
  | .active =>
    if x.paused then 9
    else match x.wait with
      | some w => (match w.kind with | .interlock => 0xB | _ => if w.acquire = 0 then 2 else 3)
      | none => if x.bubble then 4 else 1

/-- The state code of a stream of a program tile: set aside when the tile has another context loaded (R159). -/
def seqStatus (s : State) (t : Nat) : Word :=
  let x := tileAt s t
  match x.loaded with
  | none => 0
  | some p => word [(x.carried.length, 54), (p, 45), (1, 44), (streamState x.ctx.u, 8), (streamState x.ctx.b, 4),
                    (streamState x.ctx.f, 0)]

/-- `TILE.HALT_INFO` (R160). -/
def haltInfo (h : HaltInfo) : Word :=
  word [(bn h.valid, 63), (bn h.multi, 62), (h.stream.toNat, 60), (h.ptile.toNat, 48), (h.reason.toNat, 40), (h.detail.toNat, 0)]

/-- A conversion flag register (R64). -/
def cvtWord (c : CvtFlags) : Word :=
  word [(c.tally.toNat, 32), (bn c.tallySat, 7), (bn c.poisonOut, 4), (bn c.poisonIn, 3), (bn c.underflow, 2), (bn c.sat, 1),
        (bn c.nonfinite, 0)]

/-- An IEEE flag register (R189). -/
def ieeeWord (c : IeeeFlags) : Word :=
  word [(bn c.fxsat, 5), (bn c.invalid, 4), (bn c.divzero, 3), (bn c.overflow, 2), (bn c.underflow, 1), (bn c.inexact, 0)]

/-- The physical arrays of the program arrays (R118). -/
def fenceMap (fenced : BitVec 4) : Nat := (List.range 4).foldl (fun m n => m + 4 ^ n * physOf fenced n) 0

/-- A register of a physical array (R119). -/
def arrayReg (x : PhysArray) : Nat → Option Word
  | 0x00 => some (BitVec.ofNat 64 x.busy)
  | 0x08 => some (BitVec.ofNat 64 x.stall)
  | 0x10 => some (word [(x.drain.toNat, 16), (x.b.toNat, 8), (x.a.toNat, 0)])
  | 0x18 => some (tallyWord x.residue)
  | _ => none

/-- The layer records declared for the loaded context (R219). -/
def recordsOf (s : State) (x : Tile) : Nat :=
  match s.prog, x.loaded with
  | some g, some p => rd 0 g.recCount p
  | _, _ => 0

/-- The single registers of a tile block (R118, R160-R162, R190, R219, R224, R227, R244). -/
def tileReg1 (s : State) (t : Nat) (x : Tile) : Nat → Option Word
  | 0x008 => some (haltInfo x.halt)
  | 0x010 => some (x.halt.addr.setWidth 64)
  | 0x018 => some (word [(bn x.brkEn, 0)])
  | 0x020 => some (x.watchdog.setWidth 64)
  | 0x0A0 => some (BitVec.ofNat 64 x.switches)
  | 0x0A8 => some (BitVec.ofNat 64 x.move)
  | 0x0B0 => some (BitVec.ofNat 64 x.idle)
  | 0x0B8 => some (BitVec.ofNat 64 x.active)
  | 0x300 => some (word [(fenceMap x.fenced, 8), (bn x.fencedMode, 4), (x.fenced.toNat, 0)])
  | 0x420 => some (word [(bn (!x.vec.started.isEmpty && decide (s.time.cycle < x.vec.freeAt)), 7), (x.vec.queue.length + bn (!x.vec.started.isEmpty && decide (s.time.cycle < x.vec.freeAt)), 4),
      (match holderOf s t 4 with | some st => sc st | none => 3, 2)])
  | 0x428 => some (BitVec.ofNat 64 x.vec.busy)
  | 0x430 => some (BitVec.ofNat 64 x.vec.bankLoss)
  | 0x438 => some (tallyWord x.vec.ecc)
  | 0x500 => some (if x.loaded.isNone then 0 else
      word [(recordsOf s x, 32), (bn x.ctx.clove.lost, 16), (x.ctx.clove.log.length, 0)])
  | 0x508 => some (tallyWord x.ovfLost)
  | 0x620 => some (BitVec.ofNat 64 x.vec.bankLoss)
  | 0x628 => some (tallyWord x.spCe)
  | 0x630 => some (tallyWord x.spUeTally + word [(bn x.spUeAddr.isSome, 33), ((x.spUeAddr.getD 0).toNat, 36)])
  | 0x638 => some (word [(bn x.scrubEn, 16), (x.scrubInterval.toNat, 0)])
  | 0x640 => some (marchWord (marchNow s.time.cycle false x.march))
  | _ => none

/-- The registers of a tile block that stand in rows (R64, R119, R162, R163, R189, R224, R350). -/
def tileReg (s : State) (t : Nat) (o : Nat) : Option Word :=
  let x := tileAt s t
  let row := fun (base n : Nat) => decide (base ≤ o ∧ o < base + 8 * n ∧ o % 8 = 0)
  if o = 0 then some (seqStatus s t)
  else if row 0x040 3 then some (BitVec.ofNat 64 (rd 0 x.issued ((o - 0x040) / 8)))
  else if row 0x060 3 then some (BitVec.ofNat 64 (rd 0 x.waited ((o - 0x060) / 8)))
  else if row 0x080 3 then some (BitVec.ofNat 64 (rd 0 x.bubbles ((o - 0x080) / 8)))
  else if row 0x200 3 then some (cvtWord (rd {} x.cvt ((o - 0x200) / 8)))
  else if row 0x340 16 then arrayReg (rd {} x.phys ((o - 0x340) / 32)) ((o - 0x340) % 32)
  else if row 0x400 3 then some (ieeeWord (rd {} x.ieee ((o - 0x400) / 8)))
  else if row 0x600 4 then some (BitVec.ofNat 64 (rd 0 x.conflict ((o - 0x600) / 8)))
  else if row 0x700 16 then some (if x.loaded.isNone then 0 else fourCounters x.ctx.sync ((o - 0x700) / 2))
  else if row 0x1000 64 then
    some (if x.loaded.isNone then 0 else word ((List.range 16).map fun i => ((rd 0 x.ctx.seals (2 * (o - 0x1000) + i)).toNat, 4 * i)))
  else tileReg1 s t x o

/-! ### The whole region (R258, R259) -/

/-- What an 8-byte register access meets: a register, a fused-off unit (R5), or no register (R258). -/
inductive RegRes where
  | value (w : Word)
  | absent (k : UnitKind) (i : Nat)
  | none
  deriving DecidableEq, Repr

/-- A register or nothing. -/
def regRes : Option Word → RegRes
  | some w => .value w
  | none => .none

/-- The register at a control-register offset (R258). -/
def regAt (s : State) (o : Nat) : RegRes :=
  if o % 8 ≠ 0 then .none
  else if o < 0x1000 then regRes (dieReg s o)
  else if 0x800000 ≤ o ∧ o < 0x810000 then regRes (llmReg s ((o - 0x800000) / 0x1000) (o % 0x1000))
  else if 0x900000 ≤ o ∧ o < 0x908000 then regRes (hbmReg s ((o - 0x900000) / 0x1000) (o % 0x1000))
  else if 0x908000 ≤ o ∧ o < 0x909000 then regRes (hbmDieReg s (o % 0x1000))
  else if 0x910000 ≤ o ∧ o < 0x911000 then regRes (cxlReg s (o % 0x1000))
  else if 0x920000 ≤ o ∧ o < 0x921000 then regRes (fabReg s (o % 0x1000))
  else if 0x930000 ≤ o ∧ o < 0x938000 then
    let p := (o - 0x930000) / 0x1000
    if portsOn s ≤ p then .absent .port p else regRes (portReg s p (o % 0x1000))
  else if 0x940000 ≤ o ∧ o < 0x944000 then
    let a := (o - 0x940000) / 0x1000
    if axesOn s ≤ a then .absent .axis a else regRes (ceReg s a (o % 0x1000))
  else if 0x950000 ≤ o ∧ o < 0x951000 then regRes (timeReg s (o % 0x1000))
  else if 0x960000 ≤ o ∧ o < 0x962000 then .value (fourCounters s.cluster ((o - 0x960000) / 2))
  else if 0x964000 ≤ o ∧ o < 0x964080 then .value (fourCounters s.dieSync ((o - 0x964000) / 2))
  else if 0x970000 ≤ o ∧ o < 0x970080 then .value (treeWord s ((o - 0x970000) / 8))
  else if 0x980000 ≤ o ∧ o < 0x981000 then regRes (hamperReg s (o % 0x1000))
  else if 0x990000 ≤ o ∧ o < 0x991000 then regRes (vkxReg s (o % 0x1000))
  else if 0x1000000 ≤ o ∧ o < 0x1400000 then
    let t := (o - 0x1000000) / 0x10000
    if tilesOn s ≤ t then .absent .tile t else regRes (tileReg s t (o % 0x10000))
  else .none

end Sys2Proof.Machine
end

