-- ==== Sys2Proof/Machine/MemEvents.lean ====
section
/-! DEFINITION. Events of the memories: scrubs and corrections (R225, R226, R237, R238, R253-R256), the march engines and
repair (R239-R242), HBM slots (R249), write-backs and way-group modes (R230, R234), and the far tier (R263). -/

namespace Sys2Proof.Machine

/-- A memory error event (R417): source 0 scratchpad, 1 LLM, 2 HBM, 3 CXL. -/
def memEvent (s : State) (source addr : Nat) (path : Word) : State :=
  raiseEvent s 0x05 2 path ([BitVec.ofNat 8 source, 0, 0, 0, 0, 0, 0, 0] ++ natLe 8 addr)

/-- The path of the cluster over an LLM slice, the die where that cluster is fused off (R2; log 8). -/
def slicePath (s : State) (k : Nat) : Word := if k < clustersOn s then unitPath s 1 k else unitPath s 0 0

/-! ### Scratchpad scrub (R225, R226) -/

/-- Spare rows in use of a bank. -/
def spareUsed (x : Table Nat) (bank : Nat) : Nat := rd 0 x bank

/-- The row that a spare row of a bank stands for (R241, R242). -/
def spareRow (s : State) (kinds : List Nat) (unit bank spare : Nat) : Nat :=
  match s.mem.repair.find? fun e => kinds.contains e.kind.toNat && e.unit.toNat == unit && e.bank.toNat == bank && e.result == 0 &&
      e.spare.toNat == spare with
  | some e => e.row.toNat
  | none => 0

/-- The row and the word in it at a scrub position: the spare rows in use follow the `n` words of the bank's own rows (R226, R238). -/
def scrubPlace (s : State) (kinds : List Nat) (unit bank n pos : Nat) : Nat × Nat :=
  if pos < n then (pos / 8, pos % 8) else (spareRow s kinds unit bank ((pos - n) / 8), pos % 8)

/-- `TILE_PATROL_SCRUB` (R226): the bank's next word, spare rows in use included; `e` tells which of its ECC words is in error by the
low address bits. An uncorrectable word stays as it is, and an event names it. -/
def execTilePatrolScrub (t : Fin 64) (bank : Fin 32) (e : ReadFault) (s : State) : Res :=
  let x := tileAt s t
  let n := 2048 + 8 * spareUsed x.spares bank.val
  let place := scrubPlace s [0] t.val bank.val 2048 (rd 0 x.scrubPos bank.val)
  let word := fun (a : BitVec 48) => bankAddr bank.val place.1 place.2 + a.toNat % 64 / 8 * 8
  done s (
    if !(decide (t.val < tilesOn s) && x.scrubEn && s.mem.onchip) then s
    else
      let s := modTile s t fun x => { x with scrubPos := upd 0 x.scrubPos bank.val fun p => (p + 1) % n }
      match e with
      | .clean => s
      | .corrected a => noteSp s t (word a) false
      | .uncorrectable a =>
        let s := modCtx (noteSp s t (word a) true) t fun c => { c with spUe := insNat (word a) c.spUe }
        memEvent s 0 (word a) (tilePath s t))

/-- `SP_CORRECTED_WRITEBACK` (R225): the oldest corrected word is written back. -/
def execSpCorrectedWriteback (t : Fin 64) (s : State) : Res :=
  done s (modTile s t fun x => { x with spCorrected := x.spCorrected.drop 1 })

/-! ### LLM scrub and write-back (R230, R234, R237, R238) -/

/-- The lines that a set of ways of a slice holds. -/
def wayLines (x : Slice) (way : Nat → Bool) : List Nat := (x.tags.filter fun e => way (e.1 % 128)).map fun e => e.2 - 1

/-- A double-bit error in a data word of a way-group in cache mode (R237). Which of the group's lines the word belongs to, if any, is
free (log 4). -/
def llmCacheError (s : State) (k g : Nat) : State :=
  let ls := wayLines (rd {} s.mem.slices k) fun w => w / 5 == g
  let n := (Config.freeValue s.free).toNat % (ls.length + 1)
  let s := { s with free := s.free + 1 }
  if n = 0 then modSlice s k fun x => { x with ce := tallyAdd x.ce 1 } else cacheError s (nth 0 ls (n - 1))

/-- An error in a tag (R237): a double-bit one of a dirty line writes back every way of the set and is told by an event with the set. -/
def llmTagError (s : State) (k : Nat) (e : TagError) : State :=
  let x := rd {} s.mem.slices k
  let v := rd 0 x.tags (128 * e.set.val + e.way.val)
  if !e.double || v = 0 then modSlice s k fun x => { x with ce := tallyAdd x.ce 1 }
  else if !isDirty s (v - 1) then cacheError s (v - 1)
  else
    let others := ((cacheWays x).map fun w => rd 0 x.tags (128 * e.set.val + w)).filter fun u => u ≠ 0 && u ≠ v
    let s := others.foldl (fun s u => dropLine s 1 (u - 1)) s
    memEvent (cacheError s (v - 1)) 1 e.set.val (slicePath s k)

/-- The slice offset of a word: word `w` of row `r` of bank `b` (R228). -/
def sliceOff (b r w : Nat) : Nat := r * 2 ^ 14 + w * 2 ^ 11 + b * 64

/-- Is a scrub position one that is read: of a row in service, or of a spare row in use (R238)? -/
def inService (x : Slice) (pos : Nat) : Bool := decide (40960 ≤ pos) || !x.disabled.getLsbD (pos / 2560)

/-- The scrub position after one, over `n` words: the rows of a way-group out of service are left out (R238). -/
def nextScrub (x : Slice) (n : Nat) : Nat → Nat → Nat
  | 0, p => p
  | f + 1, p =>
    let q := (p + 1) % n
    if inService x q then q else nextScrub x n f ((q / 2560 + 1) * 2560 - 1)

/-- `LLM_PATROL_SCRUB` (R238): the bank's next word, and a tag whose check comes with it; `e` tells which of the word's ECC words is
in error by the low address bits. -/
def execLlmPatrolScrub (sl : Fin 16) (bank : Fin 32) (e : ReadFault) (tag : Option TagError) (s : State) : Res :=
  let k := sl.val
  let x := rd {} s.mem.slices k
  let n := 40960 + 8 * spareUsed x.spares bank.val
  let pos := rd 0 x.scrubPos bank.val
  let pos := if inService x pos then pos else nextScrub x n 17 pos
  let place := scrubPlace s [1] k bank.val 40960 pos
  let word := fun (a : BitVec 48) => sliceOff bank.val place.1 place.2 + a.toNat % 64 / 8 * 8
  done s (
    if !(x.scrubEn && s.mem.onchip) then s
    else
      let s := modSlice s k fun x => { x with scrubPos := wr 0 x.scrubPos bank.val (nextScrub x n 17 pos) }
      let s := match e with
        | .clean => s
        | .corrected _ => modSlice s k fun x => { x with ce := tallyAdd x.ce 1 }
        | .uncorrectable a =>
          let off := word a
          if inScratch s k (off / wayGroup) then
            let s := noteLlm s (llmBase + k * 16 * wayGroup + off) true
            { s with mem := { s.mem with ue := insNat (llmBase + k * 16 * wayGroup + off) s.mem.ue } }
          else llmCacheError s k (off / wayGroup)
      match tag with
      | some e => llmTagError s k e
      | none => s)

/-- `LLM_WRITEBACK_COMPLETE` (R234): the line stays in its way, which another line may take. -/
def execLlmWritebackComplete (sl : Fin 16) (line : BitVec 42) (s : State) : Res :=
  done s (
    if (rd {} s.mem.slices sl.val).dirty.contains line.toNat && decide (homeSlice (64 * line.toNat) = sl.val) then
      writeBack s 1 line.toNat
    else s)

/-- A way-group gives up its lines: dirty ones are written back (R230, R241; class 1, log 85). -/
def flushGroup (s : State) (k g : Nat) : State :=
  (wayLines (rd {} s.mem.slices k) fun w => w / 5 == g).foldl (fun s l => dropLine s 1 l) s

/-- A way-group takes a mode (R230): into scratchpad mode its lines are written back and its bytes are zero. -/
def setWayGroup (s : State) (k g : Nat) (scratch : Bool) : State :=
  let x := rd {} s.mem.slices k
  if x.scratch.getLsbD g == scratch || x.disabled.getLsbD g then s
  else
    let base := llmBase + (16 * k + g) * wayGroup
    let s := if scratch then flushGroup s k g else s
    let s := modSlice s k fun x => { x with scratch := x.scratch ^^^ (1#16 <<< g) }
    { s with mem := { s.mem with dev := clearRange s.mem.dev base wayGroup, ue := dropRange s.mem.ue base wayGroup } }

/-- The masks of every slice are applied (R229, R230). -/
def applyMasks (s : State) (masks : List (BitVec 16)) : State :=
  (List.range 256).foldl (fun s i => setWayGroup s (i / 16) (i % 16) ((nth 0 masks (i / 16)).getLsbD (i % 16))) s

/-- The masks of a payload, slice 0 first (R412). -/
def masksOf (bs : List Byte) : List (BitVec 16) := (List.range 16).map fun k => BitVec.ofNat 16 (leNat (sub bs (2 * k) 2))

/-- `LLM_MODE_CHANGE_DONE` (R230): the fills end and the command completes. -/
def execLlmModeChangeDone (s : State) : Res :=
  done s (match acceptedOf s 0x0303 with
    | some c => finishDrain (completeCmd (applyMasks s (masksOf c.p.payload)) c 0 0 [])
    | none => s)

/-! ### March and repair (R239-R242) -/

/-- An entry joins the repair log; where it is full the overflow tally counts a repair that was made (R242, R243). -/
def logRepair (s : State) (e : RepairEntry) : State :=
  let m := s.mem
  if m.repair.length < 4096 then { s with mem := { m with repair := m.repair ++ [e] } }
  else if e.result ≠ 0 then s
  else { s with mem := { m with repOvf := if m.repOvf = 0xFFF then m.repOvf else m.repOvf + 1,
                                repSat := m.repSat || decide (0xFFE ≤ m.repOvf.toNat) } }

/-- Saturating addition of one on a byte. -/
def inc8 (n : BitVec 8) : BitVec 8 := if n = 0xFF then n else n + 1

/-- A failing row of a unit is remapped to the next unused spare of its bank, or found unrepairable (R241): the answer
says whether it was repaired. -/
def repairRow (s : State) (u : MarchUnit) (r : BankRow) (test : Nat) : State × Bool :=
  let b := r.bank.val
  let used := match u with
    | .tile t => spareUsed (tileAt s t).spares b
    | .llm sl => spareUsed (rd {} s.mem.slices sl.val).spares b
  let have_ : Nat := match u with | .tile _ => 4 | .llm _ => 32
  let ok := decide (used < have_)
  let when_ := if s.time.state.toNat < 2 then 0 else fec s
  let kind := match u with | .tile _ => 0 | .llm _ => if r.tag then 2 else 1
  let unit := match u with | .tile t => t.val | .llm sl => sl.val
  let s := logRepair s
    { fec := when_, kind := BitVec.ofNat 4 kind, unit := BitVec.ofNat 8 unit, bank := BitVec.ofNat 5 b, row := r.row,
      spare := BitVec.ofNat 5 (if ok then used else 0), test := BitVec.ofNat 3 test, result := if ok then 0 else 1 }
  let count := fun (m : March) => if ok then
      { m with repaired := inc8 m.repaired, sparesLeft := BitVec.ofNat 8 (min m.sparesLeft.toNat (have_ - used - 1)) }
    else { m with unrepaired := inc8 m.unrepaired }
  let s := match u with
    | .tile t => modTile s t fun x =>
        { x with march := count x.march, spares := if ok then upd 0 x.spares b (· + 1) else x.spares,
                 unusable := x.unusable || !ok }
    | .llm sl =>
      -- the way-group of a tag row is free: the manual does not place tag rows (log 4)
      let g := if r.tag then (Config.freeValue s.free).toNat % 16 else min 15 (r.row.toNat / 320)
      let s := if r.tag then { s with free := s.free + 1 } else s
      -- a preserving run writes back the lines of the way-group that goes out of service
      let s := if !ok && test = 2 then flushGroup s sl.val g else s
      modSlice s sl.val fun x =>
        { x with march := count x.march, spares := if ok then upd 0 x.spares b (· + 1) else x.spares,
                 disabled := if ok then x.disabled else x.disabled ||| (1#16 <<< g),
                 scratch := if ok then x.scratch else x.scratch &&& ~~~(1#16 <<< g) }
  (s, ok)

/-- A march of a unit starts anew: its register shows the mode (R244). -/
def marchBegin (s : State) (u : MarchUnit) (mode : BitVec 2) : State :=
  let f := fun (m : March) =>
    { m with unrepaired := 0, repaired := 0, mode := mode, state := 1, bank := if mode = 1 then 0x1F else 0, since := s.time.cycle }
  match u with
  | .tile t => modTile s t fun x => { x with march := f x.march }
  | .llm sl => modSlice s sl.val fun x => { x with march := f x.march }

/-- The march register of a unit. -/
def marchOf (s : State) (u : MarchUnit) : March :=
  match u with | .tile t => (tileAt s t).march | .llm sl => (rd {} s.mem.slices sl.val).march

/-- The contents that a destructive run leaves: zero, with correct check bits; LLM lines invalid (R240). -/
def marchClear (s : State) (u : MarchUnit) : State :=
  match u with
  | .tile t => modCtx s t fun c => { c with sp := [], spUe := [] }
  | .llm sl =>
    let base := llmBase + sl.val * 16 * wayGroup
    let s := modSlice s sl.val fun x => { x with dirty := [], tags := [], tree := [] }
    { s with mem := { s.mem with dev := clearRange s.mem.dev base (16 * wayGroup), ue := dropRange s.mem.ue base (16 * wayGroup) } }

/-- A run of a unit ends (R240, R241): its rows are repaired; the bank shown is the last one tested (R244). -/
def marchFinish (s : State) (u : MarchUnit) (rows : List BankRow) (test : Nat) : State :=
  let s := if (marchOf s u).mode = 1 then marchClear s u else s
  let s := rows.foldl (fun s r => (repairRow s u r test).1) s
  let f := fun (m : March) => { m with state := if m.unrepaired = 0 then 2 else 3, bank := 0x1F, since := 0 }
  match u with
  | .tile t => modTile s t fun x => { x with march := f x.march }
  | .llm sl => modSlice s sl.val fun x => { x with march := f x.march }

/-- Does a `MARCH_RUN` payload name a unit: 8 B tile mask, 2 B slice mask, mode (R412)? -/
def marchNames (bs : List Byte) : MarchUnit → Bool
  | .tile t => (leNat (bs.take 8)).testBit t.val
  | .llm sl => (leNat (sub bs 8 2)).testBit sl.val

/-- All units of the march engines. -/
def allUnits : List MarchUnit :=
  (List.range 64).map (fun t => MarchUnit.tile (Fin.ofNat 64 t)) ++ (List.range 16).map fun k => MarchUnit.llm (Fin.ofNat 16 k)

/-- The result of a `MARCH_RUN`: the word of the lowest tile and of the lowest slice that it named (log 23). -/
def marchResult (s : State) (bs : List Byte) : List Word :=
  let named := allUnits.filter (marchNames bs)
  let w := fun (l : List MarchUnit) => match l with
    | u :: _ => marchWord (marchNow s.time.cycle (match u with | .tile _ => false | .llm _ => true) (marchOf s u))
    | [] => 0
  [w (named.filter fun u => match u with | .tile _ => true | .llm _ => false),
   w (named.filter fun u => match u with | .tile _ => false | .llm _ => true)]

/-- A tile with an unrepairable row on request: it holds no context any more, an event names the tile and bank, and the module enters
`FAULTED` (R241). -/
def tileUnusable (s : State) (t : Nat) (r : BankRow) : State :=
  let s := memEvent s 0 (bankAddr r.bank.val r.row.toNat 0) (tilePath s t)
  let s := match (tileAt s t).loaded with
    | some p => setAside s p (tileAt s t).ctx
    | none => s
  let s := modTile s t fun x => { x with loaded := none, carried := [] }
  if inLoaded s then dieFault s 0x05
  else
    let s := setState s .faulted
    { s with firm := { s.firm with draining := some .faulted, faultCause := 0x05 } }

/-- The first of the failing rows for which its bank has no spare row left (R241). -/
def lostRow (spares : Table Nat) (have_ : Nat) : List BankRow → Option BankRow
  | [] => none
  | r :: rs => if rd 0 spares r.bank.val < have_ then lostRow (upd 0 spares r.bank.val (· + 1)) have_ rs else some r

/-- `MARCH_COMPLETE` (R241): a requested run of a unit ends; the command completes with its last unit. -/
def execMarchComplete (u : MarchUnit) (failing : List BankRow) (s : State) : Res :=
  done s (
    if (marchOf s u).state ≠ 1 then s
    else
      let test := if (marchOf s u).mode = 1 then 1 else 2
      let spares := match u with | .tile t => (tileAt s t).spares | .llm _ => []
      let s := marchFinish s u failing test
      let s := match u, lostRow spares 4 failing with
        | .tile t, some r => tileUnusable s t r
        | _, _ => s
      let s := match acceptedOf s 0x0901 with
        | some c =>
          if allUnits.any fun v => marchNames c.p.payload v && decide ((marchOf s v).state = 1) then s
          else completeCmd s c 0 0 (marchResult s c.p.payload)
        | none => s
      finishDrain s)

/-! ### HBM (R249, R253-R256) -/

/-- Is a row a repair candidate (R255)? -/
def isCandidate (x : Stack) (r : Nat) : Bool := x.ueRows.contains r

/-- What the symbol code makes of `bad` wrong symbols in a line (R251): 2 are corrected; more are detected (log 87). -/
def symbolFault (bad : Nat) : Nat := if bad = 0 then 0 else if bad ≤ 2 then 1 else 2

/-- Corrections that a stack reports (R251, R265). -/
def noteOnDie (s : State) (k n : Nat) : State := modStack s k fun x => { x with ondie := tallyAdd x.ondie n }

/-- The reader of an HBM line whose read failed fails at it in its own step, where the read is not counted again (R253). -/
def toldRead (s : State) (line : Nat) : State := { s with mem := { s.mem with told := insNat line s.mem.told } }

/-- The reader of a line whose read failed (R253): a descriptor and a collective item take the failure at once, the Hamper's extent, a
fetch and a host access meet the mark in their own step. -/
def failReader (s : State) (line : Nat) (reader : HbmReader) : State :=
  let d := eccDetail 5 (64 * line)
  match reader with
  | .dma t st seq => modTile s t fun x => { x with dmaRun := x.dmaRun.map fun i =>
      if i.stream == st && i.seq == seq && i.failed.isNone then { i with failed := some 0x0D, fdetail := d } else i }
  | .collective ax ch => { toldRead s line with ces := upd {} s.ces ax.val fun e => { e with chans := upd {} e.chans ch.val fun c =>
      { c with items := match c.items.findIdx? fun i => i.started with
        | some n => c.items.mapIdx fun k i => if k = n ∧ i.failed.isNone then { i with failed := some 0x0D, fdetail := d } else i
        | none => c.items } } }
  | .fetch _ _ => toldRead s line
  | .hamper => toldRead s line
  | .host _ => toldRead s line

/-- `HBM_READ_COMPLETE` (R251-R253): a line with up to 2 wrong symbols is corrected and waits for its write-back, unless a write to it
is queued; one that cannot be corrected, or carries the mark, is poisoned from now on, and its reader fails. A write-back by the
line's own slice has no reader. -/
def execHbmReadComplete (line : BitVec 42) (bad : Fin 73) (ondie : Nat) (reader : HbmReader) (s : State) : Res :=
  let l := line.toNat
  let queued := (rd {} s.mem.chans (channelOf s l).1).reqs.any fun r => r.write && r.line == l
  done s (
    if !(s.mem.offchip && decide (64 * l < hbmSize)) then s
    else
      let s := noteOnDie s (stackOf (64 * l)) ondie
      if linePoison s l || symbolFault bad.val = 2 then failReader (hbmBad s l) l reader
      else if symbolFault bad.val = 0 then s
      else if queued then modStack s (stackOf (64 * l)) fun x => noteCandidate { x with ce := tallyAdd x.ce 1 } l
      else hbmCorrected s l)

/-- `HBM_CORRECTED_WRITEBACK` (R253): the oldest corrected line is written back in P3. -/
def execHbmCorrectedWriteback (k : Fin 8) (s : State) : Res :=
  done s (match (rd {} s.mem.hbm k.val).corrected with
    | [] => s
    | l :: ls => memRequest (modStack s k.val fun x => { x with corrected := ls }) 3 true l.toNat)

/-- The HBM line of a stack at a pseudo-channel's offset: the inverse of R247. -/
def hbmLine (k pc off : Nat) : Nat :=
  let hi := off / 256
  (hi * 2 ^ 17 + (pc ^^^ bitsN hi 3 6 ^^^ bitsN hi 12 6) * 2 ^ 11 + (k ^^^ bitsN hi 0 3 ^^^ bitsN hi 9 3 ^^^ bitsN hi 18 3) * 2 ^ 8
    + off % 256) / 64

/-- The line at a position of a stack's scrub pass (R254): offsets ascend, the 64 pseudo-channels in turn at each (log 87). -/
def scrubLine (k pos : Nat) : Nat := hbmLine k (pos % 64) (pos / 64 * 64)

/-- A scrub pass goes on with the next line; a new pass forgets the rows that it tracked (R254, R255). -/
def scrubOn (x : Stack) : Stack :=
  let p := (x.scrubPos + 1) % 2 ^ 30
  { x with scrubPos := p, candidates := if p = 0 then [] else x.candidates }

/-- `HBM_PATROL_SCRUB` (R251, R254): the stack's next line, with `bad` wrong symbols; a correction is written back in the same
operation, retired granules are left out and poisoned lines left alone. -/
def execHbmPatrolScrub (k : Fin 8) (bad : Fin 73) (ondie : Nat) (s : State) : Res :=
  let x := rd {} s.mem.hbm k.val
  let l := scrubLine k.val x.scrubPos
  done s (
    if !(x.scrubEn && x.trained) then s
    else
      let on := fun (s : State) => modStack s k.val scrubOn
      if s.mem.retired.contains (l / 4) then on s
      else
        let s := memRequest (noteOnDie s k.val ondie) 3 false l
        if linePoison s l || symbolFault bad.val = 0 then on s
        else if symbolFault bad.val = 1 then
          on (modStack s k.val fun x => noteCandidate { x with ce := tallyAdd x.ce 1 } l)
        else on (memEvent (hbmBad s l) 2 (64 * l) (unitPath s 0 0)))

/-- The granules of a row are retired (R256): cached lines of theirs are marked and their write-back is dropped; a full list counts its
failure. -/
def retireRow (s : State) (granules : List Nat) : State :=
  let m := s.mem
  let new := granules.filter fun g => !m.retired.contains g
  if m.retired.length + new.length ≤ 4096 then
    let s := { s with mem := { m with retired := new.foldl (fun l g => insNat g l) m.retired } }
    new.foldl (fun s g => (List.range 4).foldl (fun s i => uncache s (4 * g + i)) s) s
  else
    { s with mem := { m with retOvf := if m.retOvf = 0xFFF then m.retOvf else m.retOvf + 1,
                             retSat := m.retSat || decide (0xFFE ≤ m.retOvf.toNat) } }

/-- The 16 lines of a row of a pseudo-channel (R255). -/
def rowLines (k pc row : Nat) : List Nat := (List.range 16).map fun i => hbmLine k pc (1024 * row + 64 * i)

/-- The four granules that a row holds (R256). -/
def rowGranules (k pc row : Nat) : List Nat := (List.range 4).map fun i => hbmLine k pc (1024 * row + 256 * i) / 4

/-- `HBM_ROW_REPAIR` (R255): a candidate row is copied, soft-repaired and written back, the lines that were lost with the mark; without
a spare row it is retired (R256). The copies run in P3 (R248). -/
def execHbmRowRepair (k : Fin 8) (r : RowRepair) (s : State) : Res :=
  let x := rd {} s.mem.hbm k.val
  let row := r.pc.val * 2 ^ 20 + r.row.toNat
  let lines := rowLines k.val r.pc.val r.row.toNat
  done s (
    if !isCandidate x row then s
    else
      let s := lines.foldl (fun s l => memRequest (memRequest s 3 false l) 3 true l) s
      let s := ((List.range 16).filter fun i => r.lost.getLsbD i).foldl (fun s i => markPoison s (nth 0 lines i)) s
      let s := modStack s k.val fun x => { x with ueRows := x.ueRows.filter fun y => y ≠ row }
      if r.spare then
        -- whether this bank was the one with the fewest spares is free (log 4)
        let less := bn (freeBit s 0)
        modStack { s with free := s.free + 1 } k.val fun x =>
          { x with softRepairs := inc8 x.softRepairs, soft := insNat row x.soft,
                   sparesLeft := BitVec.ofNat 8 (x.sparesLeft.toNat - less) }
      else retireRow s (rowGranules k.val r.pc.val r.row.toNat))

/-- The class weights of `HBM.PRIO`. -/
def prioWord (m : Memory) : Nat := m.p0cap.toNat + 32 * (m.w1.toNat + 32 * (m.w2.toNat + 32 * m.w3.toNat))

/-- The class of 1-3 that gets a slot (R249): the least (used + 1) / weight, the lower on a tie. -/
def leastClass (used weight : Nat → Nat) (cs : List Nat) : Option Nat :=
  cs.foldl (fun m c => match m with
    | none => some c
    | some b => if (used c + 1) * weight b < (used b + 1) * weight c then some c else m) none

/-- The queue of P0 requests in each channel (R249). -/
def p0Queue : Nat := 16

/-- Requests of a class that a channel has queued: P0 has 16 entries of its own, and what lies beyond them still waits at its requester
(R249). -/
def queued (c : MemChan) (cls : Nat) : List MemReq :=
  let rs := c.reqs.filter fun r => r.cls == cls
  if cls = 0 then rs.take p0Queue else rs

/-- May a queued request be served: its bank is ready, and no older request is to its line (R250)? `busy` are lines of banks that are
not ready. -/
def servable (c : MemChan) (busy : List (BitVec 42)) (r : MemReq) : Bool :=
  !(busy.any fun l => l.toNat == r.line) && ((c.reqs.takeWhile fun q => q ≠ r).all fun q => q.line ≠ r.line)

/-- The class that a slot goes to (R249): P0 under its cap, then the least used of the classes by weight, P0 as class 1. -/
def grantClass (prio : Nat) (used : Nat → Nat) (pending : Nat → Bool) : Option Nat :=
  if pending 0 && decide (used 0 < prio % 32) then some 0
  else leastClass used (fun c => prio / 32 ^ c % 32) ([1, 2, 3].filter fun c => pending c || (pending 0 && c = 1))

/-- `HBM_SLOT_GRANT` (R249, R250, R260): one slot of a channel's frame of 20. `HBM.PRIO` holds from a frame's start (R264). The slot's
class moves its oldest request that can be served; in a slot of class 1 the older of P0's and P1's (log 85). -/
def execHbmSlotGrant (ch : Fin 516) (busy : List (BitVec 42)) (s : State) : Res :=
  let c := rd {} s.mem.chans ch.val
  let first := decide (c.slot = 0)
  let prio := if first then prioWord s.mem else c.prio
  let used := fun (k : Nat) => if first then 0 else rd 0 c.used k
  let pick := grantClass prio used fun k => !(queued c k).isEmpty
  let strict := !(queued c 0).isEmpty && decide (used 0 < prio % 32)
  let mine := fun (r : MemReq) => match pick with
    | some k => (queued c k).contains r || (k = 1 && !strict && (queued c 0).contains r)
    | none => false
  let served := c.reqs.find? fun r => mine r && servable c busy r
  done s (
    let s := { s with mem := { s.mem with chans := upd {} s.mem.chans ch.val fun x =>
      { x with slot := (c.slot + 1) % 20, prio := prio, used := [0, 1, 2, 3].foldl (fun u k => wr 0 u k (used k + bn (pick = some k))) x.used,
               reqs := match served with | some r => x.reqs.erase r | none => x.reqs } } }
    match served with
    | some r => if ch.val < 512 then { s with mem := { s.mem with bytesP := upd 0 s.mem.bytesP r.cls (· + 64) } } else s
    | none => s)

/-! ### The far tier (R263) -/

/-- `CXL_RESPONSE` (R263): retries are counted, and poison marks the line. -/
def execCxlResponse (line : BitVec 42) (poison : Bool) (retries : Nat) (s : State) : Res :=
  let a := 64 * line.toNat
  done s (
    if regionAt s a ≠ .far ∨ farDown s a 64 then s
    else
      let m := { s.mem with cxlRetry := tallyAdd s.mem.cxlRetry retries }
      let s := { s with mem := m }
      if poison then loseLine s line.toNat else s)

/-- A CXL link goes down (R263): the dirty lines homed on it are poisoned and counted, an event names it, and the die
reports a fault. -/
def cxlLinkDown (s : State) (k : Nat) : State :=
  let mine := fun (l : Nat) => regionAt s (64 * l) == .far && farLink s (64 * l) == k
  let lost := ((List.range 16).flatMap fun i => (rd {} s.mem.slices i).dirty).filter mine
  let s := { s with mem := { s.mem with
    cxlDown := s.mem.cxlDown ||| (1#4 <<< k), cxlLost := tallyAdd s.mem.cxlLost lost.length } }
  let s := lost.foldl loseLine s
  dieFault (memEvent s 3 k (unitPath s 0 0)) 0x05

/-- `CXL_REQUEST_TIMEOUT` (R263). -/
def execCxlRequestTimeout (link : Fin 4) (s : State) : Res :=
  done s (
    if (rd {} s.mem.cxl link.val).present && link.val < cxlLinks s && !s.mem.cxlDown.getLsbD link.val then
      finishDrain (cxlLinkDown s link.val)
    else s)

end Sys2Proof.Machine
end

