-- ==== Sys2Proof/Machine/Hamper.lean ====
section
/-! DEFINITION. What the Hamper controller does: checkpoint writes (R373), mirrors (R376), flash reads and failures (R358,
R359), background work (R360-R364), journal upkeep, loss and replay (R378-R380), restores (R382) and exports (R383). -/

namespace Sys2Proof.Machine

/-- An extent that says nothing. -/
def noExtent : Extent := { kind := 0, source := 0, len := 0 }

/-- The body of `EXT_COMMIT` and `EXT_FAILED` (R378). -/
def extBody (x : Extent) (digest : BitVec 512) : List Byte :=
  natLe 64 digest.toNat ++ natLe 8 x.stripe ++ natLe 8 x.len ++ [x.kind]

/-- The body of `GEN_BEGIN` and `MIR_BEGIN` (R378). -/
def beginBody (s : State) (n : BitVec 32) (g : Gen) : List Byte :=
  (manifestHead s n g).take 96 ++ natLe 4 (dataExtents g).length

/-! ### Writing a generation (R373) -/

/-- `CHECKPOINT_WRITE_START` (R373): with the items in flight complete, the generation is laid out from the program's lists
and `GEN_BEGIN` is appended. -/
def execCheckpointWriteStart (s : State) : Res :=
  done s (match s.hamper.write, s.prog with
    | some j, some p =>
      if itemsRunning s || (genAt s j.gen).isSome then s
      else
        let arm := s.hamper.takenArms.find? fun a => a.gen == some j.gen
        let d := ownSlice s
        let g : Gen :=
          { state := .writing, extents := planExtents p, exported := arm.any fun a => a.exported,
            mirror := arm.any fun a => a.mirror, buddy := (arm.map fun a => a.buddy).getD 0xFF, image := p.digest, seed := p.seed,
            coords := (List.range 4).map fun a => relCoord s.fab.extent d s.fab.node.toNat a, epoch := s.hamper.releaseEpoch }
        let s := modHamper s fun h =>
          { h with gens := insKey j.gen.toNat g (delKey j.gen.toNat h.gens), state := 2, background := false,
                   write := some { j with paused := false } }
        appendJ s 0x01 0 0 j.gen (beginBody s j.gen g)
    | _, _ => s)

/-- An extent of a generation fails: its record, its journal record and its mark (R373, R386). -/
def failExtent (s : State) (n : BitVec 32) (i reason : Nat) (x : Extent) : State :=
  let s := modGen s n fun g =>
    { setExtent g i { x with status := 2, reason := BitVec.ofNat 8 reason } with failed := g.failed + 1 }
  appendJ (extRecord s n i reason) 0x03 reason i n (extBody x 0)

/-- An extent of a generation is committed. -/
def commitExtent (s : State) (n : BitVec 32) (i : Nat) (x : Extent) : State :=
  let s := modGen s n fun g => setExtent g i { x with status := 1 }
  appendJ (extRecord s n i 0) 0x02 0 i n (extBody x x.digest)

/-- The end of a local write (R38, R373, R385): the module goes on running, or to the fault that waited, and a paused mirror
goes on. -/
def endWrite (s : State) : State :=
  let f := s.hamper.faultAfter
  let ecc := s.hamper.eccAfter
  let s := modHamper s fun h =>
    { h with write := none, state := idleState h, faultAfter := false, eccAfter := false, mirrorTx := h.mirrorTx.map fun j => { j with paused := false } }
  let s := if s.firm.state == .checkpoint then
      -- an extent that failed on its source read is a die fault of this module (R436)
      (if ecc then dieFault s 0x05 else if f then dieFaultQ { s with free := s.free + 1 } (freeByte s) false
       else setState s .running)
    else s
  let s := match mirrorCircuit s with | some c => pumpCircuit s c.handle | none => s
  finishDrain s

/-- A generation's writing is over: it is `LOCAL`, and `INCOMPLETE` with a failed extent or a dead member (R370, R373). -/
def settleWrite (s : State) (n : BitVec 32) : State :=
  match genAt s n with
  | none => s
  | some g =>
    let s := setGenState s n .local_
    if g.failed ≠ 0 || g.lost then setGenState (reportGen s n 1 (max 1 g.failed)) n .incomplete else reportGen s n 1 0

/-- The device range of an extent of a region, snooped before the Hamper reads or writes it (R394). -/
def extRange (x : Extent) : List (Nat × Nat) := if x.kind = 4 ∨ x.kind = 5 then [(x.source, x.len)] else []

/-- `EXTENT_COMMIT` (R373): the next extent in index order; the manifest is the last one, which closes the generation's last stripe (R357).
An error at an address outside the extent's source is none of this read. -/
def execExtentCommit (e : ExtentEnd) (s : State) : Res :=
  done s (match s.hamper.write with
    | none => s
    | some j =>
      match genAt s j.gen with
      | none => s
      | some g =>
        if j.paused || g.extents.length ≤ j.next then s
        else
          let last := decide (j.next + 1 = g.extents.length)
          let x := nth noExtent g.extents j.next
          snoopGate (extRange x) [] s <|
          let hit := match e with | .sourceEcc a => if extHolds s x a.toNat then some a else none | _ => none
          let bad := !last && (extError s x || hit.isSome)
          let s := if last then s else readSource (match hit with | some a => (noteFault s (.uncorrectable a)).1 | none => s) x
          let x := if last then { x with digest := sha3Word (manifestEntries g) } else if bad then x else readExtent s x
          let s := modHamper s fun h => { h with write := some { j with next := j.next + 1 } }
          let s :=
            if bad then failExtent (modHamper s fun h => { h with eccAfter := true }) j.gen j.next 0x02 x
            else match e, programExtent s j.gen false j.next x.len with
              | .noSpace, _ => failExtent s j.gen j.next 0x03 x
              | _, none => failExtent s j.gen j.next 0x03 x
              | _, some r =>
                let x := { x with stripe := r.2 }
                if last then
                  let s := modGen (extRecord (closeStripe r.1) j.gen j.next 0) j.gen fun g => setExtent g j.next { x with status := 1 }
                  appendJ s 0x04 0 0 j.gen (natLe 64 x.digest.toNat ++ natLe 8 x.stripe)
                else commitExtent r.1 j.gen j.next x
          if last then endWrite (settleWrite s j.gen) else s)

/-! ### Mirrors (R376) -/

/-- The mirror of a generation tries to open its circuit on the lowest strand that can carry it (R280, R376): causes 2 and 3
leave it to the retry. -/
def mirrorOpen (s : State) (n : BitVec 32) (buddy port : Nat) : State :=
  let cs := (strandsOf port).map fun k => (k, outCause s s.fab.own k)
  match cs.find? fun c => c.2 = 0 with
  | some c => (openCircuit s s.fab.own (BitVec.ofNat 16 buddy) [BitVec.ofNat 8 c.1] n true).1
  | none => if cs.any fun c => c.2 = 2 ∨ c.2 = 3 then s else mirrorTxFail s 5

/-- A mirror of a generation begins. -/
def mirrorBegin (s : State) (n : BitVec 32) (g : Gen) : State :=
  match buddyOf s g.buddy with
  | none => s
  | some b =>
    let j : HJob := { gen := n, next := 0, tag := n, route := .fabric s.fab.node, base := 0, host := false,
                      since := s.time.cycle, paused := false, failed := none }
    let s := modGen s n fun g => { g with sent := true }
    mirrorOpen (modHamper s fun h => { h with mirrorTx := some j, background := false }) n b.1 b.2

/-- `MIRROR_START` (R376): after `GEN_LOCAL` of the oldest generation that is to be mirrored. -/
def execMirrorStart (s : State) : Res :=
  let ready := s.hamper.gens.find? fun e =>
    e.2.mirror && !e.2.sent && (e.2.state == .local_ || e.2.state == .complete)
  done s (match ready, s.hamper.mirrorTx, s.hamper.write with
    | some e, none, none => finishDrain (mirrorBegin s (BitVec.ofNat 32 e.1) e.2)
    | _, _, _ => s)

/-- `MIRROR_CIRCUIT_RETRY` (R376). -/
def execMirrorCircuitRetry (s : State) : Res :=
  done s (match s.hamper.mirrorTx, mirrorCircuit s with
    | some j, none =>
      (match (genAt s j.gen).bind fun g => buddyOf s g.buddy with
        | some b => finishDrain (mirrorOpen s j.gen b.1 b.2)
        | none => s)
    | _, _ => s)

/-- `MIRROR_TIMEOUT` (R376). -/
def execMirrorTimeout (s : State) : Res :=
  done s (finishDrain (if s.hamper.mirrorTx.isSome then mirrorTxFail s 9 else mirrorRxFail s 9))

/-- A mirror copy begins at the buddy: `MIR_BEGIN` (R376, R378). -/
def mirrorCopyBegin (s : State) (n : BitVec 32) : State :=
  match s.prog with
  | none => s
  | some p =>
    let g : Gen :=
      { state := .mirrorWriting, extents := planExtents p, mirror := true, image := p.digest, seed := p.seed,
        buddy := match genAt s n with | some g => g.buddy | none => 0xFF }
    let s := modHamper s fun h =>
      { h with mirrors := insKey n.toNat g (delKey n.toNat h.mirrors), mirrorRx := some n, background := false }
    appendJ s 0x07 0 0 n (beginBody s n g)

/-- The last extent of a mirror copy has come: it is held, or failed (R376). -/
def mirrorCopyEnd (s : State) (n : BitVec 32) : State :=
  match mirrorAt s n with
  | none => s
  | some g =>
    let s := closeStripe (modHamper s fun h => { h with mirrorRx := none })
    let bad := g.extents.filter fun x => x.status ≠ 1
    if bad.isEmpty then
      let x := nth noExtent g.extents (g.extents.length - 1)
      let s := appendJ s 0x08 0 0 n (natLe 64 x.digest.toNat ++ natLe 8 x.stripe)
      let s := genEvent (modMirror s n fun g => { g with state := .mirrorHeld }) n .mirrorHeld g.buddy
      reportGen s n 6 0
    else
      let s := appendJ (modMirror s n fun g => { g with state := .mirrorFailed }) 0x05 0 0 n [7]
      reportGen (genEvent s n .mirrorFailed g.buddy) n 7 bad.length

/-- An extent that a mirror's circuit has brought whole is taken from it (R376): item 2^31 + index. -/
def takeInbox (s : State) (index : Nat) : Option (List Byte × State) :=
  let tag := BitVec.ofNat 32 (2 ^ 31 + index)
  match s.fab.circuits.find? fun c => !c.source && c.inbox.any fun i => i.1 = tag with
  | none => none
  | some c =>
    (c.inbox.find? fun i => i.1 = tag).map fun i =>
      (i.2, modCircuit s c.handle fun c => { c with inbox := c.inbox.filter fun i => !(i.1 = tag) })

/-- A mirror copy's manifest is programmed with the mirror flag of its header set (R369, R376). -/
def mirrorFlagged (kind : BitVec 8) (bs : List Byte) : List Byte :=
  if kind = 0x0F then setNth bs 125 (nth 0 bs 125 ||| 2) else bs

/-- `MIRROR_EXTENT_RECEIVE` (R376): an extent that the circuit has brought whole is programmed, and its digest must match the sender's;
nothing happens where none has come. -/
def execMirrorExtentReceive (m : MirrorExtent) (s : State) : Res :=
  done s (match takeInbox s m.index with
  | none => s
  | some (data, s) =>
    let s := if (mirrorAt s m.gen).isNone || (s.hamper.mirrorRx.isNone && m.index = 0) then mirrorCopyBegin s m.gen else s
    match mirrorAt s m.gen with
    | none => s
    | some g =>
      if s.hamper.mirrorRx ≠ some m.gen ∨ g.extents.length ≤ m.index then s
      else
        let x := nth noExtent g.extents m.index
        let x := { x with len := data.length, data := sparse (mirrorFlagged x.kind data), digest := m.digest }
        let good := decide (sha3Word data = m.digest)
        let put := fun (s : State) (x : Extent) => modMirror s m.gen fun g => setExtent g m.index x
        let fail := fun (s : State) (r : Nat) =>
          appendJ (extRecord (put s { x with status := 2, reason := BitVec.ofNat 8 r }) m.gen m.index r) 0x03 r m.index m.gen
            (extBody x 0)
        let s :=
          if !good then fail s 6
          else match programExtent s m.gen true m.index x.len with
            | none => fail s 3
            | some r =>
              let x := { x with stripe := r.2, status := 1 }
              appendJ (extRecord (put r.1 x) m.gen m.index 0) 0x02 0 m.index m.gen (extBody x x.digest)
        finishDrain (if m.last then mirrorCopyEnd s m.gen else s))

/-! ### Reads and failed blocks (R358-R361) -/

/-- A block that is open for writing is open no more: the stripe under way is closed, and the next one takes new blocks (log 92). -/
def leaveOpen (s : State) (k : Nat) : State :=
  if s.hamper.openBlocks.contains k then modHamper (closeStripe s) fun h => { h with openBlocks := [], fill := 0 } else s

/-- The valid pages of blocks, in the order of the blocks and of their pages. -/
def validPages (s : State) (ks : List Nat) : List FlashPage := ks.flatMap fun k => (blockAt s k).pages.map (·.2)

/-- Blocks' valid pages go to a new block of their channel in a mode, and the blocks are done with by `after`. -/
def moveBlock (s : State) (ks : List Nat) (mode : BitVec 2) (after : State → Nat → State) : State :=
  match ks with
  | [] => s
  | k :: _ =>
    let s := ks.foldl leaveOpen s
    let ps := validPages s ks
    if ps.isEmpty then ks.foldl after s
    else match lowestWear s (k / chanBlocks) with
      | none => s
      | some n => ks.foldl after (modBlock (takeBlock s n mode) n fun b => { b with pages := (List.range ps.length).zip ps })

/-- A block joins the refresh list (R358, R361, R362). -/
def joinRefresh (s : State) (k : Nat) : State := modHamper s fun h => { h with refresh := insNat k h.refresh }

/-- A grown-bad block (R359): its data is rewritten and it is retired; with no block left the Hamper is read-only. -/
def growBad (s : State) (k : Nat) : State :=
  if (blockAt s k).bad then s
  else
    let none_ := freeBlocks s = 0
    let s := retireBlock (moveBlock s [k] (blockAt s k).mode fun s _ => s) k
    if none_ && s.hamper.state ≠ 0 then modHamper s fun h => { h with state := 4 } else s

/-- `PAGE_READ_COMPLETE` (R358, R361): `step` 12 is a page that step 11 did not give back, which is lost with the extent that holds it. -/
def execPageReadComplete (b : BlockId) (page : Fin 768) (step : Fin 13) (s : State) : Res :=
  let k := blockKey b
  let x := blockAt s k
  let limit := if x.mode = 2 then 1000000 else 200000
  done s (
    if x.mode = 0 ∨ x.bad then s
    else
      let s := modBlock s k fun x => { x with reads := x.reads + 1, rebuilt := if step.val = 11 then x.rebuilt + 1 else x.rebuilt }
      let s := if x.reads + 1 = limit then joinRefresh s k else s
      if step.val < 9 then s
      else if step.val = 12 then
        let s := modHamper s fun h => { h with lost := tallyAdd h.lost 1 }
        match x.pages.find? fun p => p.1 = page.val with | some p => losePage s p.2 | none => s
      else
        let s := joinRefresh (modHamper s fun h => { h with soft := tallyAdd h.soft 1 }) k
        if step.val = 11 && 1 ≤ x.rebuilt then growBad s k else s)

/-- `PROGRAM_OR_ERASE_FAIL` (R359). -/
def execProgramOrEraseFail (b : BlockId) (s : State) : Res := done s (growBad s (blockKey b))

/-! ### Background work (R360, R362, R364) -/

/-- May background work run (R364)? -/
def mayWork (s : State) : Bool :=
  (s.hamper.state = 1) && s.firm.state != .checkpoint && s.firm.state != .restore && s.hamper.write.isNone &&
    s.hamper.mirrorTx.isNone && s.hamper.mirrorRx.isNone && s.hamper.restore.isNone && s.hamper.copyOut.isNone

/-- The pSLC blocks to fold: those that are full, oldest first, of the oldest one's channel, three to a TLC block. -/
def foldSet (s : State) : List Nat :=
  let full := s.hamper.blocks.filter fun e => e.2.mode = 2 && !e.2.bad && !s.hamper.openBlocks.contains e.1 && !isKept e.1
  match full.foldl (fun (m : Option (Nat × Block)) e => match m with
    | none => some e
    | some o => if e.2.epoch.toNat < o.2.epoch.toNat then some e else m) none with
  | none => []
  | some o => ((full.filter fun e => e.1 / chanBlocks = o.1 / chanBlocks && e.1 ≠ o.1).map (fun e => e.1)).take 2 |> (o.1 :: ·)

/-- Does background work remain (R388)? -/
def workLeft (s : State) : State :=
  modHamper s fun h => { h with background := !(foldSet s).isEmpty || !h.refresh.isEmpty }

/-- `FOLD` (R364): pSLC blocks into a TLC block. -/
def execFold (s : State) : Res := done s (if mayWork s then workLeft (moveBlock s (foldSet s) 1 eraseBlock) else s)

/-- A day in nanoseconds. -/
def dayNs : Nat := 86400 * 10 ^ 9

/-- Aged blocks join the refresh list (R362): those whose epoch lies ahead of the counter join at once. -/
def refreshCheck (s : State) : State :=
  let now := (fec s).toNat
  let due := s.hamper.blocks.filter fun e =>
    let limit := if e.2.mode = 2 then 7 * dayNs else s.hamper.age.toNat * dayNs
    e.2.mode ≠ 0 && !e.2.bad && decide (now < e.2.epoch.toNat ∨ e.2.epoch.toNat + limit < now)
  due.foldl (fun s e => joinRefresh s e.1) s

/-- `REFRESH_CHECK` (R362): a Hamper that is offline refreshes nothing (R435). -/
def execRefreshCheck (s : State) : Res := done s (if s.hamper.state = 0 then s else refreshCheck s)

/-- `BLOCK_REFRESH` (R362): under R364, and not while the Hamper is read-only. -/
def execBlockRefresh (s : State) : Res :=
  done s (match s.hamper.refresh with
    | [] => s
    | k :: _ =>
      if !mayWork s then s
      else
        let s := moveBlock s [k] (blockAt s k).mode eraseBlock
        workLeft (modHamper s fun h => { h with refresh := h.refresh.filter fun x => x ≠ k }))

/-- How far the wear of the blocks in service is spread (R360); a block that the table does not list has none. -/
def wearSpread (s : State) : Nat :=
  let bs := s.hamper.blocks.filter fun e => !e.2.bad
  let hi := bs.foldl (fun m e => max m e.2.wear) 0
  let lo := if bs.length < 1398784 - s.factoryBad.toNat - s.hamper.grownBad.toNat then 0
    else bs.foldl (fun m e => min m e.2.wear) hi
  hi - lo

/-- The least-worn full TLC block (R360). -/
def wearPick (s : State) : Option (Nat × Block) :=
  (s.hamper.blocks.filter fun e => !e.2.bad && e.2.mode = 1 && !s.hamper.openBlocks.contains e.1).foldl
    (fun (m : Option (Nat × Block)) e => match m with
      | none => some e
      | some o => if e.2.wear < o.2.wear then some e else m) none

/-- `WEAR_LEVEL_MOVE` (R360): the least-worn full TLC block moves when wear is spread by more than 2,000 units. -/
def execWearLevelMove (s : State) : Res :=
  done s (match wearPick s with
    | some e =>
      if mayWork s && decide (2000 < wearSpread s) && s.hamper.wearAt.all (fun n => decide (n + 1000000000 ≤ s.time.elapsed)) then
        modHamper (moveBlock s [e.1] 1 eraseBlock) fun h => { h with wearAt := some s.time.elapsed }
      else s
    | none => s)

/-! ### The journal (R378-R380) -/

/-- `JOURNAL_COMPACTION` (R378): the live records are written anew, then `SUMMARY`; the rest is erased. -/
def execJournalCompaction (s : State) : Res :=
  let live := s.hamper.journal.filter (isLive s)
  let first := s.hamper.jnum
  done s (
    if s.hamper.state = 0 then s
    else
      let s := modHamper s fun h =>
        { h with journal := (List.range live.length).map (fun i =>
                   { nth ⟨0, 0, 0, 0, 0, 0, []⟩ live i with number := first + BitVec.ofNat 32 i }),
                 jnum := first + BitVec.ofNat 32 live.length }
      appendJ s 0x0A 0 0 0 (natLe 4 first.toNat ++ natLe 4 (s.hamper.gens.length + s.hamper.mirrors.length)))

/-- The extents in the write buffer that R379 still commits: the one in hand and those after it, as far as the buffer's cap
holds them; how far the controller had read is free (log 4). -/
def drainable (s : State) (xs : List Extent) (next : Nat) : Nat :=
  let cap := s.hamper.cap * 2 ^ 20
  (((List.range (xs.length - 1 - next)).takeWhile fun i =>
    freeBit s i && decide (((sub xs next (i + 1)).foldl (fun n x => n + x.len) 0) ≤ cap + (nth noExtent xs next).len))).length

/-- What R379 does to a generation in `WRITING`. -/
def flushGen (s : State) (n : BitVec 32) (g : Gen) (reason : Nat) : State :=
  let next := match s.hamper.write with | some j => if j.gen = n then j.next else g.extents.length | none => g.extents.length
  let k := if next < g.extents.length then drainable s g.extents next else 0
  let s := { s with free := s.free + g.extents.length }
  let s := (List.range k).foldl (fun s i =>
    let x := nth noExtent g.extents (next + i)
    if extError s x then s
    else match programExtent s n false (next + i) x.len with
      | some r => commitExtent (readSource r.1 x) n (next + i) { readExtent s x with stripe := r.2 }
      | none => s) s
  let left := match genAt s n with
    | some g => (List.range g.extents.length).filter fun i => (nth noExtent g.extents i).status = 0
    | none => []
  left.foldl (fun s i => failExtent s n i reason (nth noExtent g.extents i)) s

/-- The sequence of R379 with a reason: the write buffer is programmed, and every other extent of a generation or mirror
copy that is being written fails. -/
def flushHamper (s : State) (reason : Nat) : State :=
  if s.hamper.state = 0 then s
  else
    let before := s.hamper.bytesW
    let gens := s.hamper.gens.filter fun e => e.2.state == .writing
    let s := gens.foldl (fun s e => flushGen s (BitVec.ofNat 32 e.1) e.2 reason) s
    let s := match s.hamper.mirrorRx with
      | some n =>
        (match mirrorAt s n with
          | some g =>
            ((List.range g.extents.length).filter fun i => (nth noExtent g.extents i).status = 0).foldl (fun s i =>
              let x := nth noExtent g.extents i
              let s := modMirror s n fun g => setExtent g i { x with status := 2, reason := BitVec.ofNat 8 reason }
              appendJ (extRecord s n i reason) 0x03 reason i n (extBody x 0)) s
          | none => s)
      | none => s
    let s := modHamper s fun h =>
      { h with write := none, mirrorRx := none, mirrorTx := none, restore := none, copyOut := none }
    let s := closeStripe s
    appendJ s 0x0B 0 0 0 ([BitVec.ofNat 8 s.hamper.cap] ++ natLe 8 (s.hamper.bytesW - before))

/-- A ledger record of a failed extent that replay finds (R380). -/
def replayRecord (s : State) (n : BitVec 32) (i reason : Nat) : State :=
  let r : Record := { kind := 3, done := false, space := 2, reason := BitVec.ofNat 8 reason, who := n,
                      number := BitVec.ofNat 32 i, detail := 0, fec := fec s }
  { s with firm := { s.firm with records := s.firm.records ++ [r], ledger := s.firm.ledger ++ [r] } }

/-- Replay settles a generation, or a mirror copy (R380): extents without a record fail with `NO_RECORD`. -/
def replayGen (s : State) (mirror : Bool) (n : BitVec 32) (g : Gen) : State :=
  let open_ := if mirror then g.state == .mirrorWriting else g.state == .writing
  if !open_ then s
  else
    let idx := List.range g.extents.length
    let missing := idx.filter fun i => (nth noExtent g.extents i).status = 0
    let mark := fun (s : State) (i : Nat) (x : Extent) =>
      if mirror then modMirror s n fun g => setExtent g i x else modGen s n fun g => setExtent g i x
    let s := missing.foldl (fun s i =>
      let x := { nth noExtent g.extents i with status := 2, reason := 8 }
      appendJ (mark s i x) 0x03 8 i n (extBody x 0)) s
    let xs := match (if mirror then mirrorAt s n else genAt s n) with | some g => g.extents | none => []
    let failed := idx.filter fun i => (nth noExtent xs i).status = 2
    let s := failed.foldl (fun s i => replayRecord s n i (nth noExtent xs i).reason.toNat) s
    if failed.isEmpty then s
    else
      let s := raiseEvent s 0x0A 2 (unitPath s 9 0) (natLe 4 n.toNat ++ natLe 4 failed.length)
      if mirror then appendJ (modMirror s n fun g => { g with state := .mirrorFailed }) 0x05 0 0 n [7]
      else appendJ (modGen s n fun g => { g with state := .incomplete, failed := failed.length }) 0x05 0 0 n [4]

/-- Journal replay (R380). -/
def replayJournal (s : State) : State :=
  let s := s.hamper.gens.foldl (fun s e => replayGen s false (BitVec.ofNat 32 e.1) e.2) s
  s.hamper.mirrors.foldl (fun s e => replayGen s true (BitVec.ofNat 32 e.1) e.2) s

/-- The in-flight cap in MiB for a measured energy in mJ (R366). -/
def holdupCap (energy : Nat) : Nat := min 64 (8 * ((energy - 40) / 20))

/-! ### Restore (R382) -/

/-- The extents that a restore reads: those of the local generation, else of the program's lists (R381). -/
def restoreExtents (s : State) (n : BitVec 32) : List Extent :=
  match genAt s n with
  | some g => if isComplete g.state then g.extents else (match s.prog with | some p => planExtents p | none => [])
  | none => match s.prog with | some p => planExtents p | none => []

/-- Is there a local copy to restore from? -/
def restoreLocal (s : State) (n : BitVec 32) : Bool := (genAt s n).any fun g => isComplete g.state

/-- An extent as a buddy's bytes give it (log 18). -/
def extentOf (x : Extent) (bs : List Byte) : Extent :=
  let x := { x with len := bs.length, data := sparse bs, ctx := none, die := none }
  if x.kind = 1 then { x with die := Config.imageDie bs }
  else if x.kind = 2 then { x with ctx := Config.imageContext bs }
  else x

/-- A restore ends at a member without success (R382): it returns to `LOADED`. -/
def failRestore (s : State) (j : HJob) : State :=
  let s := modHamper s fun h => { h with restore := none, state := idleState h }
  let s := if s.firm.state == .restore then setState s .loaded else s
  completeTag s 0x0702 j.tag j.route 0x09 0 []

/-- `RESTORE_EXTENT_READ` (R382): the next extent goes to its source place; a lost or mismatching local copy is replaced by
the buddy's. -/
def execRestoreExtentRead (lost : Bool) (buddy : Option (List Byte)) (s : State) : Res :=
  done s (match s.hamper.restore with
    | none => s
    | some j =>
      let xs := restoreExtents s j.gen
      if xs.length ≤ j.next then s
      else
        let x := nth noExtent xs j.next
        snoopGate [] (extRange x) s <|
        let here := restoreLocal s j.gen
        let own := here && !lost && !x.lost && decide (x.kind = 0x0F ∨ sha3Word (extBytes x) = x.digest)
        let other := buddy.filter fun bs => !here || decide (x.kind = 0x0F ∨ sha3Word bs = x.digest)
        let s := modHamper s fun h =>
          { h with bytesR := h.bytesR + (if own then x.len else 0), restore := some { j with next := j.next + 1 } }
        finishDrain (
          if (own || other.isSome) && loadFails s x then failRestore (extRecord s j.gen j.next 4) j
          else if own then loadExtent (extRecord s j.gen j.next 0) x
          else match other with
            | some bs => loadExtent (extRecord s j.gen j.next 0) (extentOf x bs)
            | none => failRestore (extRecord s j.gen j.next (if lost || x.lost || !here then 4 else 6)) j))

/-- A restored stream: it goes on where the generation stands, its waits count anew (R30, R382). -/
def restoredStream (x : StreamCtx) : StreamCtx :=
  { x with wait := x.wait.map fun w => { w with count := 0 }, lastIssue := none, issuedAt := none, bubble := false }

/-- Every way in cache mode starts empty (R232, R382); lines that the restore has left dirty are written back first, in P3 (log 93). -/
def emptySlices (s : State) : State :=
  (s.mem.slices.map (·.1)).foldl (fun s k =>
    let s := (rd {} s.mem.slices k).dirty.foldl (fun s l => writeBack s 3 l) s
    modSlice s k fun x => { x with dirty := [], tags := [], tree := [] }) s

/-- `RESTORE_COMPLETE` (R382): every member has finished, and each enters `PAUSED`. -/
def execRestoreComplete (s : State) : Res :=
  done s (match s.hamper.restore with
    | none => s
    | some j =>
      if j.next < (restoreExtents s j.gen).length then s
      else
        let fresh := fun (c : Context) =>
          { c with f := restoredStream c.f, b := restoredStream c.b, u := restoredStream c.u }
        let s := emptySlices s
        let s := { s with tiles := s.tiles.map fun (e : Nat × Tile) => (e.1, { e.2 with ctx := fresh e.2.ctx, ibuf := [] }) }
        let s := setNextGen (modHamper s fun h => { h with restore := none, state := idleState h })
        -- a module that has left `RESTORE` by a fault completes the command `FAILED` (R419)
        finishDrain (if s.firm.state == .restore then completeTag (setState s .paused) 0x0702 j.tag j.route 0 0 []
                     else completeTag s 0x0702 j.tag j.route 9 0 []))

/-! ### Export (R383) -/

/-- Where an export writes its next piece: the manifest first, then every extent in index order. -/
def exportPiece (s : State) (n : BitVec 32) (g : Gen) (i : Nat) : List Byte :=
  let xs := dataExtents g
  if i = 0 then manifestBytes s n { g with exported := true } true false
  else extBytes (nth noExtent xs (i - 1))

/-- The bytes of an export before its piece `i`. -/
def exportOffset (g : Gen) (i : Nat) : Nat :=
  let xs := dataExtents g
  if i = 0 then 0 else manifestLen xs.length + (xs.take (i - 1)).foldl (fun n x => n + x.len) 0

/-- `EXPORT_EXTENT` (R383): the next piece goes out; it waits while a generation is written (R385). -/
def execExportExtent (lost : Bool) (s : State) : Res :=
  done s (match s.hamper.copyOut with
    | none => s
    | some j =>
      match genAt s j.gen with
      | none => s
      | some g =>
        if s.hamper.write.isSome || (j.host && s.vkx.state = 1) then s
        else
          let n := (dataExtents g).length
          let i := if j.next = 0 then n else j.next - 1
          let a := j.base + exportOffset g j.next
          let bs := exportPiece s j.gen g j.next
          snoopGate [] (if j.host then [] else [(a, bs.length)]) s <|
          let down := if j.host then decide (s.vkx.state = 0) else farDown s a bs.length
          let w := devWrite (touch 3 true s a bs.length) a bs
          let gone := lost || (j.next ≠ 0 && (nth noExtent (dataExtents g) i).lost)
          let stop := fun (s : State) (r : Nat) =>
            completeTag (extRecord (modHamper s fun h => { h with copyOut := none }) j.gen i r) 0x0703 j.tag j.route 9
              (BitVec.ofNat 64 r) []
          finishDrain (
            if gone then stop s 4
            else if down || (!j.host && w.2.isSome) then stop s 5
            else
              let s := extRecord (if j.host then hostWrite s a bs else w.1) j.gen i 0
              let s := modHamper s fun h => { h with bytesR := h.bytesR + bs.length, copyOut := some { j with next := j.next + 1 } }
              if j.next < n then s
              else completeTag (modHamper s fun h => { h with copyOut := none }) 0x0703 j.tag j.route 0 0 []))

end Sys2Proof.Machine
end

