-- ==== Sys2Proof/Machine/Images.lean ====
section
/-! DEFINITION. Firmware and Slath images (R420-R422, R426, R432), their selection at start-up, and the forced end of work in
flight (R419). -/

namespace Sys2Proof.Machine

/-- Are bytes `[a, b)` of an image zero? -/
def zeros (bs : List Byte) (a b : Nat) : Bool := (sub bs a (b - a)).all fun x => x = 0

/-- The little-endian number at an offset of an image. -/
def numAt (bs : List Byte) (a n : Nat) : Nat := leNat (sub bs a n)

/-! ### Firmware images (R426, R432) -/

/-- The version of a firmware or Slath image. -/
def imageVersion (bs : List Byte) : Nat := numAt bs 4 4

/-- The body of a firmware image. -/
def fwBody (bs : List Byte) : List Byte := sub bs 8192 (numAt bs 12 4)

/-- Check 1 of R426: the magic and the layout of R432. -/
def fwLayout (bs : List Byte) : Bool :=
  decide (8192 ≤ bs.length) && numAt bs 0 4 = 0x57464B43 && 1 ≤ imageVersion bs && numAt bs 8 4 ≤ 63 && numAt bs 2672 1 ≤ 1 &&
    zeros bs 2673 2688 && zeros bs 7315 8192

/-- Check 3: the embedded key is a ROM key that is not revoked. -/
def fwKey (s : State) (bs : List Byte) : Bool :=
  let k := numAt bs 2672 1
  sha3 (sub bs 80 2592) = Config.romKeyDigest k && !(k = 0 && s.trust.getLsbD 6)

/-- Check 4: the signature over the header. -/
def fwSigned (bs : List Byte) : Bool := Config.verify (sub bs 80 2592) (sha3 (bs.take 2688)) (sub bs 2688 4627)

/-- The first check of R426 that an image fails, 0 for none. -/
def fwCheck (s : State) (bs : List Byte) : Nat :=
  if !fwLayout bs then 1
  else if 8 * 2 ^ 20 < numAt bs 12 4 then 2
  else if !fwKey s bs then 3
  else if !fwSigned bs then 4
  else if sha3 (fwBody bs) ≠ sub bs 16 64 then 5
  else if numAt bs 8 4 < s.trust.toNat % 64 then 6
  else 0

/-- The module runs the factory firmware (R426, R435). -/
def runFactory (s : State) : State :=
  { s with firm := { s.firm with factory := true, fwSlot := false, fwVersion := 0, fwSec := 0,
                                 measure := BitVec.ofNat 512 (leNat Config.factoryDigest) } }

/-- The module runs the firmware of a slot. -/
def runSlot (s : State) (slot : Bool) (bs : List Byte) : State :=
  { s with firm := { s.firm with factory := false, fwSlot := slot, fwVersion := BitVec.ofNat 32 (imageVersion bs),
                                 fwSec := BitVec.ofNat 6 (numAt bs 8 4), measure := sha3Word (fwBody bs) } }

/-! ### Slath images (R420, R421) -/

/-- The range of a Slath field (R421): none for an unknown one. -/
def fieldRange : Nat → Option (Nat × Nat)
  | 1 => some (1, 10000)
  | 2 => some (10, 10000)
  | 3 => some (0, 2 ^ 48 - 1)
  | 4 => some (2, 20)
  | 5 => some (1, 31)
  | 6 => some (1, 31)
  | 7 => some (1, 31)
  | 8 => some (0, 2)
  | 9 => some (1, 4)
  | 10 => some (0, 4)
  | 11 => some (100000, 100000000)
  | 12 => some (100000, 1000000000)
  | 13 => some (1, 2)
  | 14 => some (100, 60000)
  | 15 => some (1000000, 0xFFFFFFFF)
  | 16 => some (1, 60)
  | 17 => some (1, 8)
  | 18 => some (1, 600)
  | 19 => some (100000, 100000000)
  | 20 => some (1, 10000)
  | _ => none

/-- Is a value allowed for a field (R421)? The ways are 1, 2 or 4. -/
def fieldOk (id v : Nat) : Bool :=
  match fieldRange id with
  | some r => decide (r.1 ≤ v ∧ v ≤ r.2) && !(id = 9 && v = 3)
  | none => false

/-- The body of a Slath image. -/
def slathBody (bs : List Byte) : List Byte := sub bs 5120 (numAt bs 8 4)

/-- The records of a Slath image: field ID and value (R420). -/
def slathFields (bs : List Byte) : List (Nat × Nat) :=
  let b := slathBody bs
  (List.range (numAt bs 8 4 / 8)).map fun i => (numAt b (8 * i + 6) 2, numAt b (8 * i) 6)

/-- Is no number repeated? -/
def noRepeat : List Nat → Bool
  | [] => true
  | x :: t => !t.contains x && noRepeat t

/-- Is a Slath image of the right layout, with known fields, none repeated, in range (R420, R422)? -/
def slathLayout (bs : List Byte) : Bool :=
  decide (5120 + numAt bs 8 4 ≤ bs.length) && numAt bs 0 4 = 0x48544C53 && 1 ≤ imageVersion bs && numAt bs 8 4 % 8 = 0 &&
    numAt bs 8 4 ≤ 65536 && zeros bs 12 16 && zeros bs 4707 5120 && sha3 (slathBody bs) = sub bs 16 64 &&
    noRepeat ((slathFields bs).map fun f => f.1) && (slathFields bs).all fun f => fieldOk f.1 f.2

/-- Does the signature of a Slath image verify (R420, R431)? -/
def slathSigned (bs : List Byte) : Bool := Config.verify Config.configKey (sha3 (bs.take 80)) (sub bs 80 4627)

/-- The slots that may be selected, the higher version first (R422): those that hold an image and are not retired. -/
def slathOrder (s : State) : List (Bool × List Byte) :=
  let a := if s.firm.slath0.retired || s.firm.slath0.bytes.isEmpty then [] else [(false, s.firm.slath0.bytes)]
  let b := if s.firm.slath1.retired || s.firm.slath1.bytes.isEmpty then [] else [(true, s.firm.slath1.bytes)]
  match a, b with
  | [x], [y] => if imageVersion x.2 < imageVersion y.2 then [y, x] else [x, y]
  | _, _ => a ++ b

/-- Does an image pass its verification? -/
def slathGood (bs : List Byte) : Bool := slathLayout bs && slathSigned bs

/-- The slot that a start-up selects (R422), or none: Saffron. -/
def slathPick (s : State) : Option (Bool × List Byte) := (slathOrder s).find? fun x => slathGood x.2

/-- The live image is set (R421, R422). -/
def setLive (s : State) (pick : Option (Bool × List Byte)) : State :=
  match pick with
  | none => { s with firm := { s.firm with image := 2, slath := [], slathVersion := 0,
                                           slathDigest := BitVec.ofNat 512 (leNat Config.saffronDigest) } }
  | some x => { s with firm := { s.firm with
      image := if x.1 then 1 else 0, slathVersion := BitVec.ofNat 32 (imageVersion x.2),
      slathDigest := BitVec.ofNat 512 (leNat (sub x.2 16 64)),
      slath := (slathFields x.2).foldl (fun t f => wr 0 t f.1 (f.2 + 1)) [] } }

/-- The registers that take their reset value from the live image (R161, R264, R266, R308, R352, R388, R398); `VKX.TIMEOUT`
is preserved but at power-on (R398). -/
def applyLive (s : State) : State :=
  let v := fun n => slathVal s n
  let ces := (List.range 4).foldl (fun t a => upd {} t a fun (e : Engine) => { e with timeout := BitVec.ofNat 32 (v 15) }) s.ces
  let tiles := (List.range (tilesOn s)).foldl (fun t k => upd {} t k fun (x : Tile) => { x with watchdog := BitVec.ofNat 48 (v 3) }) s.tiles
  { s with
    tiles := tiles, ces := ces,
    mem := { s.mem with p0cap := BitVec.ofNat 5 (v 4), w1 := BitVec.ofNat 5 (v 5), w2 := BitVec.ofNat 5 (v 6),
                        w3 := BitVec.ofNat 5 (v 7), cxlTimeout := BitVec.ofNat 32 (v 11) },
    fab := { s.fab with ackTimeout := BitVec.ofNat 32 (v 12) },
    hamper := { s.hamper with age := BitVec.ofNat 6 (v 16) },
    vkx := if s.firm.resetCause = 0 then { s.vkx with timeout := BitVec.ofNat 32 (v 19) } else s.vkx }

/-- The configuration event (R417, R420). -/
def configEvent (s : State) : State :=
  raiseEvent s 0x0F 1 (unitPath s 0 0) ([s.firm.image.setWidth 8, 0, 0, 0] ++ natLe 4 s.firm.slathVersion.toNat)

/-! ### The forced end of work in flight (R419) -/

/-- The items of a tile's own engines are forced to complete FAILED with `WATCHDOG`. -/
def forceTile (s : State) (t : Nat) : State :=
  let own := fun (i : Item) => !(i.kind == .collective || i.kind == .fabric)
  let x := tileAt s t
  let all := x.items.filter own
  let s := all.foldl (fun s i => completeItem s t (ptileOf s t) i (some 0x0F) 0) s
  modTile s t fun x =>
    { x with dmaQ := [], dmaRun := [], reissue := [], vec := { x.vec with queue := [], started := [] } }

/-- The items of a collective channel. -/
def forceChannel (s : State) (k : Nat) : State :=
  (chanAt s (k / 8) (k % 8)).items.foldl (fun s it => ceComplete s (k / 8) (k % 8) (ceFail 0x0F 0 it)) s

/-- The extents that a job has not reached are recorded with `CANCELLED` (R387, R419). -/
def forceJob (s : State) (j : HJob) (n : Nat) : State :=
  ((List.range n).filter fun i => decide (j.next ≤ i)).foldl (fun s i => extRecord s j.gen i 7) s

/-- The extents in flight of the Hamper. -/
def forceExtents (s : State) : State :=
  let s := match s.hamper.write with
    | none => s
    | some j =>
      match genAt s j.gen with
      | none => modHamper s fun h => { h with write := none }
      | some g =>
        let left := (List.range g.extents.length).filter fun i => (nth noExtent g.extents i).status = 0
        let s := left.foldl (fun s i => failExtent s j.gen i 7 (nth noExtent g.extents i)) s
        settleWrite (modHamper s fun h => { h with write := none, state := idleState h }) j.gen
  let s := match s.hamper.restore with
    | none => s
    | some j => modHamper (forceJob s j (restoreExtents s j.gen).length) fun h => { h with restore := none, state := idleState h }
  let s := match s.hamper.copyOut with
    | none => s
    | some j =>
      let n := match genAt s j.gen with | some g => g.extents.length | none => 0
      modHamper (forceJob s j n) fun h => { h with copyOut := none }
  mirrorRxFail (mirrorTxFail s 7) 7

/-- Every item and extent in flight is forced to complete FAILED. -/
def forceItems (s : State) : State :=
  let s := (s.tiles.map fun (e : Nat × Tile) => e.1).foldl forceTile s
  let s := (List.range 32).foldl forceChannel s
  let s := s.fab.items.foldl (fun s (e : Nat × FabItem) => fabComplete s e.1 e.2 (some 0x0F)) s
  forceExtents s

/-- Every command in flight that no rule of its own completes is forced to complete `FAILED` (R419). -/
def forceCommands (s : State) : State :=
  let mine := fun (c : PendCmd) => !(c.opcode == 0x0102 || c.opcode == 0x0204 || c.opcode == opArm || s.firm.cut.contains c ||
    s.time.epochQ.any fun e => e.opcode == c.opcode && e.p == c.p)
  let hit := s.firm.accepted.filter mine
  let s := hit.foldl (fun s c => completeCmd s c 9 5 []) s
  let left := s.firm.gathers.filter fun g => !(hit.any fun c => c.opcode == g.opcode && c.p == g.p)
  let s := if s.firm.writing.any fun w => hit.any fun c => c == w.1 then abortWrite s else s
  { s with firm := { s.firm with gathers := left } }

/-- `LEDGER_DRAIN_TIMEOUT` (R419). -/
def execLedgerDrainTimeout (s : State) : Res :=
  done s (if s.firm.draining.isSome then finishDrain (forceCommands (forceItems s)) else s)

end Sys2Proof.Machine
end

