-- ==== Sys2Proof/Machine/Boot.lean ====
section
/-! DEFINITION. The start-up phases (R423-R426), the resets (R428-R430), and power going and coming (R379, R445, R446). -/

namespace Sys2Proof.Machine

/-! ### Ends of start-up -/

/-- The phase that comes next (R423, R428): mode 2 runs 2, 3, 6, 9 and 10. -/
def nextPhase (s : State) : Nat :=
  let p := s.firm.phase.toNat
  if s.firm.mode = 2 then (if p = 3 then 6 else if p = 6 then 9 else p + 1) else p + 1

/-- Is a phase of the start-up under way, not held? -/
def inPhase (s : State) (n : Nat) : Bool :=
  s.phys.mainOn && !s.firm.held && nextPhase s = n &&
    (s.firm.state == .boot || s.firm.state == .selftest || s.firm.state == .linkup)

/-- A phase is complete (R427). -/
def endPhase (s : State) (n : Nat) : State := { s with firm := { s.firm with phase := BitVec.ofNat 4 n } }

/-- A phase fails (R424, R425, R427): the cause is recorded and the module restarts with the factory firmware; commands in
progress that no rule covers fail (R419), those that `RESET_N` cut short at the next `IDLE`. -/
def startFail (s : State) (phase cause : Nat) (detail : Word) : State :=
  let s := (s.firm.accepted.filter fun c => c.opcode ≠ 0x0102 && !s.firm.cut.contains c).foldl (fun s c => completeCmd s c 9 5 []) s
  let f := { s.firm with cause := BitVec.ofNat 8 cause, failedPhase := BitVec.ofNat 4 phase, detail := detail, resetTag := s.firm.resetTag }
  restart { s with firm := f } 5 false

/-- A continuing cause sets its note bit (R424, R427). -/
def note (s : State) (bit : Nat) : State := { s with firm := { s.firm with notes := s.firm.notes ||| (1#6 <<< bit) } }

/-- The milliseconds from the start of phase 1 (R427). -/
def bootTime (s : State) : BitVec 32 := BitVec.ofNat 32 (min ((s.time.elapsed - s.firm.bootStart) / 1000000) 0xFFFFFFFF)

/-- A reset's own command completes at the state that it leads to (R430). -/
def completeReset (s : State) (ok : Bool) : State :=
  match s.firm.resetTag with
  | none => s
  | some c =>
    let d := BitVec.ofNat 64 (s.firm.failedPhase.toNat * 2 ^ 52 + s.firm.cause.toNat * 2 ^ 56)
    let s := { s with firm := { s.firm with resetTag := none } }
    if ok then completeCmd s c 0 0 [] else completeCmd s c 9 d []

/-- Commands that a reset cut short complete `FAILED` (R419). -/
def failCut (s : State) (detail : Nat) : State :=
  let own := fun (c : PendCmd) => s.firm.resetTag == some c
  let s := { s with firm := { s.firm with cut := [] } }
  let s := (s.firm.accepted.filter fun c => !own c).foldl (fun s c => completeCmd s c 9 (BitVec.ofNat 64 detail) []) s
  s.firm.taken.foldl (fun s c =>
    let s := { s with firm := { s.firm with taken := s.firm.taken.filter fun x => !(x == c) } }
    sendReply (cmdRecord s c 9 (BitVec.ofNat 64 detail)) c 9 (BitVec.ofNat 64 detail) [] [] 0) s

/-- The module enters `IDLE` (R423, R426, R427): a firmware that gets there raises the fused count to its own version. -/
def enterIdle (s : State) : State :=
  let up := !s.firm.factory && decide (s.trust.toNat % 64 < s.firm.fwSec.toNat)
  let s := { s with trust := if up then (s.trust &&& 0xC0) ||| s.firm.fwSec.setWidth 8 else s.trust }
  let s := { s with firm := { s.firm with phase := 10, bootMs := bootTime s } }
  completeReset (failCut (setState s .idle) 4) true

/-- The module enters `SAFE` (R424, R435): the state change event goes to the MCTP endpoint as well as to the ring. -/
def enterSafe (s : State) : State :=
  let s := { s with firm := { s.firm with bootMs := bootTime s } }
  let old := s.firm.state
  let s := if s.vkx.en then
      emit s (.mctpEvent s.firm.endpoint
        { kind := 3, status := 0, code := 0x0E, tag := 0, detail := unitPath s 0 0, fec := fec s,
          body := body256 [BitVec.ofNat 8 (stateCode old), BitVec.ofNat 8 (stateCode .safe)] })
    else s
  let s := setState s .safe
  let asked := match s.firm.resetTag with | some c => nth 0 c.p.payload 0 = 1 | none => false
  completeReset s asked

/-! ### Phases 1 to 3 -/

/-- The module without power (R379, R428, R429): what is kept is what does not need it, and the standby domain. -/
def powerOff (s : State) : State :=
  let s := abortWrite s
  let f := s.firm
  let m := s.mem
  { State.reset with
    pending := s.pending, grade := s.grade, serial := s.serial, factoryBad := s.factoryBad, trust := s.trust, out := s.out,
    free := s.free,
    firm := { slath0 := f.slath0, slath1 := f.slath1, fw0 := f.fw0, fw1 := f.fw1 },
    mem := { host := m.host, retired := m.retired, retOvf := m.retOvf, retSat := m.retSat, repair := m.repair,
             repOvf := m.repOvf, repSat := m.repSat,
             hbm := (m.hbm.filter fun e => !e.2.soft.isEmpty).map fun e => (e.1, { soft := e.2.soft }) },
    fab := { lowest := s.serial },
    hamper := { resetHamper s.hamper with soft := {}, lost := {}, bytesW := 0, bytesR := 0, takenArms := [], energy := 0, cap := 0 },
    phys := { vin := s.phys.vin, pin := s.phys.pin, inlet := s.phys.inlet, p1cause := s.phys.p1cause, rail := s.phys.rail,
              tripFlow := s.phys.tripFlow, tripPower := s.phys.tripPower, tripThermal := s.phys.tripThermal,
              tripped := s.phys.tripped, thermtripN := s.phys.thermtripN, flowOk := s.phys.flowOk, resetN := s.phys.resetN } }

/-- `POWER_ON` (R423, R424, R425): phase 1, from the input in range; after a trip the start has reset cause 6 (R452). -/
def execPowerOn (fault : Option PhaseOneFault) (s : State) : Res :=
  done s (
    if s.phys.mainOn then s
    else
      let s := if s.phys.tripped then restart s 6 false else s
      let p := { s.phys with resetN := true, pwrGood := true, tripped := false, thermtripN := true, p1cause := 0, rail := 0 }
      let s := { s with firm := { s.firm with held := false, bootStart := s.time.elapsed } }
      match fault with
      | none => endPhase { s with phys := { p with mainOn := true } } 1
      | some .inputRange => { s with phys := { p with p1cause := 0x11 }, firm := { s.firm with held := true } }
      | some (.rail n) => { s with phys := { p with p1cause := 0x12, rail := n }, firm := { s.firm with held := true } })

/-- The Vorkiux Link trains (R389, R391, R398): full at x16 and 64 GT/s, else degraded. One that fails to is down. -/
def trainLink (s : State) (v : LinkTrain) : State :=
  if v.ok then
    let full := v.lanes = 16 && v.speed = 64
    let y := { s.vkx with speed := v.speed, lanes := v.lanes, state := if full then 2 else 3, naks := 0, badTrains := 0, nakRx := 0,
                          reqCredit := 128, snpCredit := 64, rspCredit := 256, datCredit := 256 }
    -- a link that was down begins anew, and the slots are read again (R397)
    let fresh := 3 ≤ s.vkx.badTrains || s.vkx.rxSeq = 0xFFF
    let y : Vkx := if fresh then { y with rxSeq := 0xFFF, txSeq := 0, unacked := [] } else y
    let s := drainHost { s with vkx := y }
    flushReplies (if fresh && y.en then askWindow s else s)
  else { s with vkx := { s.vkx with speed := 0, lanes := 0, state := 0, badTrains := 3 } }

/-- Phase 2 ends once the firmware runs and `FLOW_OK` is high (R410, R423): in `SAFE` after mode 1 and a failure. -/
def leaveBoot (s : State) : State :=
  if !s.phys.flowOk then s
  else
    let s := endPhase { s with firm := { s.firm with fwReady := false } } 2
    if s.firm.mode = 1 then enterSafe s else setState s .selftest

/-- `FIRMWARE_SLOT_VERIFY` (R426). An event for cause 0x21 has no code in R417: it is free (log 4). -/
def execFirmwareSlotVerify (v : LinkTrain) (s : State) : Res :=
  done s (
    if !inPhase s 2 || s.firm.fwReady then s
    else
      let s := trainLink s v
      let ready := fun (s : State) => leaveBoot { s with firm := { s.firm with fwReady := true } }
      if s.firm.mode = 1 then ready (runFactory s)
      else
        let b0 := s.firm.fw0.bytes
        let b1 := s.firm.fw1.bytes
        let c0 := fwCheck s b0
        let c1 := fwCheck s b1
        if c0 ≠ 0 ∧ c1 ≠ 0 then startFail s 2 0x22 (BitVec.ofNat 64 (c1 * 256 + c0))
        else
          let one := c0 = 0 && (c1 ≠ 0 || decide (imageVersion b1 ≤ imageVersion b0))
          let s := if one then runSlot s false b0 else runSlot s true b1
          let s := if c0 = 0 ∧ c1 = 0 then s
            else
              let code := (Config.freeValue s.free).toNat % 2 ^ 16
              raiseEvent (note { s with free := s.free + 1 } 0) code 1 (unitPath s 0 0) [if c0 = 0 then 1 else 0]
          ready s)

/-- `CONFIGURATION_LOAD` (R422, R425). -/
def execConfigurationLoad (s : State) : Res :=
  done s (
    if !inPhase s 3 then s
    else
      let pick := slathPick s
      let bad := (slathOrder s).head? ≠ pick
      let s := applyLive (setLive s pick)
      let s := if bad then note s 1 else s
      endPhase (configEvent s) 3)

/-! ### Phases 4 to 6 -/

/-- The spare rows in use by bank that the repair log gives a unit (R242). -/
def loggedSpares (s : State) (kinds : List Nat) (unit : Nat) : Table Nat :=
  s.mem.repair.foldl (fun t e =>
    if kinds.contains e.kind.toNat && e.unit.toNat = unit && e.result = 0 then upd 0 t e.bank.toNat fun n => max n (e.spare.toNat + 1)
    else t) []

/-- The repairs of the log are reapplied (R242). -/
def reapply (s : State) (u : MarchUnit) : State :=
  match u with
  | .tile t =>
    let sp := loggedSpares s [0] t.val
    let left := (List.range 32).foldl (fun m b => min m (4 - rd 0 sp b)) 4
    modTile s t fun x => { x with spares := sp, unusable := false, march := { x.march with sparesLeft := BitVec.ofNat 8 left } }
  | .llm k =>
    let sp := loggedSpares s [1, 2] k.val
    let left := (List.range 32).foldl (fun m b => min m (32 - rd 0 sp b)) 32
    modSlice s k.val fun x => { x with spares := sp, disabled := 0, march := { x.march with sparesLeft := BitVec.ofNat 8 left } }

/-- The units that start-up marches (R240). -/
def startUnits (s : State) : List MarchUnit :=
  allUnits.filter fun u => match u with | .tile t => decide (t.val < tilesOn s) | .llm _ => true

/-- A unit's start-up march with its failing rows (R239-R242). -/
def marchUnit (failing : List (MarchUnit × BankRow)) (s : State) (u : MarchUnit) : State :=
  let rows := (failing.filter fun f => f.1 = u).map fun f => f.2
  marchFinish (marchBegin (reapply s u) u 1) u rows 0

/-- `STARTUP_MARCH` (R240, R241, R425). -/
def execStartupMarch (failing : List (MarchUnit × BankRow)) (s : State) : Res :=
  done s (
    if !inPhase s 4 then s
    else
      let s := (startUnits s).foldl (marchUnit failing) s
      -- slices that lost way-groups are noted
      let hit := (List.range 16).filter fun k => (rd {} s.mem.slices k).disabled ≠ 0
      let s := hit.foldl (fun s k => memEvent (note s 2) 1 (2 ^ 32 * k + (rd {} s.mem.slices k).disabled.toNat) (slicePath s k)) s
      let dead := hit.find? fun k => (rd {} s.mem.slices k).disabled = 0xFFFF
      match (List.range 64).find? fun t => (tileAt s t).unusable, dead with
      | some t, _ =>
        -- the bank of the last row of the tile that no spare was left for
        let b := (s.mem.repair.filter fun e => e.kind = 0 && e.unit.toNat = t && e.result = 1).getLast?
        let bank := match b with | some e => e.bank.toNat | none => 0
        startFail s 4 0x41 (BitVec.ofNat 64 (t * 256 + bank))
      | none, some k => startFail s 4 0x43 (BitVec.ofNat 64 k)
      | none, none => endPhase { s with mem := { s.mem with onchip := true } } 4)

/-- A CXL link as training finds it (R260, R261). -/
def setCxl (s : State) (d : CxlDevice) : State :=
  if d.ok && decide (d.link.val < cxlLinks s) then
    let x : CxlDev := { capacity := d.capacity, lanes := d.lanes, speed := d.speed, present := true }
    { s with mem := { s.mem with cxl := wr {} s.mem.cxl d.link.val x } }
  else s

/-- The bytes of HBM are zero, with no error and no poison (R423): those of retired granules go on reading as poison. -/
def zeroHbm (s : State) : State :=
  let m := s.mem
  { s with mem := { m with dev := clearRange m.dev 0 hbmSize, poison := dropRange m.poison 0 hbmSize, ue := dropRange m.ue 0 hbmSize } }

/-- A stack is trained and its soft repairs become hard (R255). The spare rows that remain are a free value (log 4). -/
def trainStack (s : State) (k : Nat) : State :=
  let v := (Config.freeValue s.free).setWidth 8
  modStack { s with free := s.free + 1 } k fun x =>
    { x with trained := true, soft := [], candidates := [], ueRows := [], sparesLeft := v }

/-- `HBM_TRAINING` (R246, R255, R256, R261). -/
def execHbmTraining (failed : Option (Fin 8)) (cxl : List CxlDevice) (s : State) : Res :=
  done s (
    if !inPhase s 5 then s
    else match failed with
      | some k => startFail s 5 0x51 (BitVec.ofNat 64 k.val)
      | none =>
        let s := zeroHbm ((List.range 8).foldl trainStack s)
        let s := { s with mem := { s.mem with offchip := true, bifur := slathVal s 8, ways := slathVal s 9, gran := slathVal s 10 } }
        let s := cxl.foldl setCxl s
        let bad := cxl.filter fun d => !d.ok && decide (d.link.val < cxlLinks s)
        let s := bad.foldl (fun s d => memEvent (note s 3) 3 d.link.val (unitPath s 0 0)) s
        endPhase s 5)

/-- `JOURNAL_REPLAY` (R366, R380, R425): the hold-up measurement comes first; `LINKUP` follows. -/
def execJournalReplay (energy : Nat) (readable : Bool) (s : State) : Res :=
  done s (
    if !inPhase s 6 then s
    else
      let cap := holdupCap energy
      let s := modHamper s fun h => { h with energy := energy, cap := cap }
      let s := if cap < 64 then raiseEvent (note s 4) 0x0B 1 (unitPath s 9 0) (natLe 8 (hamperHoldup s).toNat) else s
      if !readable then startFail s 6 0x62 0
      else
        let s := modHamper s fun h => { h with state := if cap < 8 then 4 else 1 }
        setState (endPhase (replayJournal s) 6) .linkup)

/-! ### Phases 7 to 10 -/

/-- Do the W ports stay untrained: in a machine whose W extent is 1, as far as this module knows it (R8)? -/
def wShut (s : State) : Bool :=
  if s.fab.placed then s.fab.extent.nw.toNat ≤ 1
  else slathVal s 13 = 1 && s.fab.written.any fun (w : Coords × Extents) => w.2.nw.toNat ≤ 1

/-- Does a port come up in this training (R8, R268, R303)? -/
def portTrains (s : State) (r : PortTrain) : Bool := r.trained && r.failed ≠ 0xF && !(wShut s && decide (6 ≤ r.port.val))

/-- A port as training leaves it (R268, R303, R309). -/
def trainPort (s : State) (r : PortTrain) : State :=
  let p := r.port.val
  let up := portTrains s r
  let x := portAt s p
  let y : Port := { cwCorr := x.cwCorr, cwUncorr := x.cwUncorr, replays := x.replays, qSent := x.qSent, upAt := s.time.elapsed, state := if !up then 1 else if r.failed = 0 then 3 else 4,
                    txSpared := r.txSpare, rxSpared := r.rxSpare, rxAsked := r.rxSpare,
                    credits := if up then [(0, 2), (1, 2)] else [] }
  let s := { s with fab := { s.fab with ports := wr {} s.fab.ports p y } }
  (List.range 4).foldl (fun s k =>
    modStrand s (4 * p + k) fun _ => { entry := BitVec.ofNat 16 (bn (r.failed.getLsbD k)) }) s

/-- `FABRIC_LINK_TRAINING` (R423, R425): a port that no reading names has not trained. -/
def execFabricLinkTraining (r : List PortTrain) (s : State) : Res :=
  done s (
    if !inPhase s 7 then s
    else
      let s := (r.filter fun x => decide (x.port.val < portsOn s)).foldl trainPort s
      let off := (List.range (portsOn s)).filter fun p => !portUp s p
      let lost := (List.range (4 * portsOn s)).filter fun k => portUp s (k / 4) && eFailed (strandAt s k).entry
      let s := off.foldl (fun s p => linkEvent (note s 5) (4 * p) 0) s
      let s := lost.foldl (fun s k => linkEvent (note s 5) k 0) s
      endPhase s 7)

/-- The first of the checks of R306 and R425 that extents fail: cause and detail. A CKL-CT1-64T has no place in a machine whose W extent
is above 1, and reports it as an extent that it cannot have (R3, R8; log 80). -/
def extentFault (s : State) (e : Extents) : Option (Nat × Nat) :=
  match (List.range 4).find? fun a => (if a = 3 then (if s.grade = 3 then 1 else 16) else 32) < extOn e a with
  | some a => some (0x81, a)
  | none => if 65536 < extOn e 0 * extOn e 1 * extOn e 2 * extOn e 3 then some (0x82, 0) else none

/-- A port with a cabling fault (R305). -/
def cabledWrong (s : State) : Option Nat := (List.range (portsOn s)).find? fun p => (portAt s p).state = 5

/-- A module's coordinates: the W coordinate of a CKL-CT1-64T is always 0 (R3). -/
def homeCoords (s : State) (c : Coords) : Coords := if s.grade = 3 then { c with w := 0 } else c

/-- The module takes its place (R306, R307): coordinates, extents and node. Where the W extent is 1 the W ports stay untrained (R8). -/
def place (s : State) (c : Coords) (e : Extents) (method : Nat) : State :=
  let c := homeCoords s c
  let n := nodeOf e (coordOn c)
  let ports := if e.nw.toNat ≤ 1 then [6, 7].foldl (fun t p => upd {} t p fun (x : Port) => { x with state := 1 }) s.fab.ports
               else s.fab.ports
  { s with fab := { s.fab with coords := c, extent := e, node := BitVec.ofNat 16 n, method := BitVec.ofNat 2 method, placed := true,
                               ports := ports } }

/-- `COORD` goes out on every trained port (R306). -/
def sendCoord (s : State) (c : Coords) (e : Extents) (except : Option Nat) : State :=
  (List.range 8).foldl (fun s p => if portUp s p && some p ≠ except then emit s (.coord (Fin.ofNat 8 p) c e) else s) s

/-- `COORDINATE_PLACEMENT` (R305, R306, R425): the written coordinates, or those of a finished discovery (log 25). -/
def execCoordinatePlacement (s : State) : Res :=
  done s (
    if !inPhase s 8 then s
    else match cabledWrong s with
      | some p => startFail s 8 0x84 (BitVec.ofNat 64 p)
      | none =>
        if slathVal s 13 = 1 then
          match s.fab.written with
          | none => s
          | some w =>
            (match extentFault s w.2 with
              | some x => startFail s 8 x.1 (BitVec.ofNat 64 x.2)
              | none => (let t := place s w.1 w.2 1; endPhase (sendCoord t t.fab.coords w.2 none) 8))
        else if s.fab.discPhase = 3 then endPhase (place s s.fab.coords s.fab.extent 2) 8
        else s)

/-- Is the counter locked, or does the module keep time itself (R342, R344)? -/
def timeLocked (s : State) : Bool := s.time.state = 2 || (s.time.master && s.time.given)

/-- The discovery root without a source acts as master (R342). -/
def rootMaster (s : State) : State :=
  if s.fab.root && !s.time.pps && !s.time.upValid && s.time.given then
    { s with time := { s.time with master := true, stratum := 0, state := 2 } }
  else s

/-- `TIME_LOCK` (R362, R423): with the time given and the counter locked, the retention check, and `IDLE`. -/
def execTimeLock (s : State) : Res :=
  done s (
    if !inPhase s 9 then s
    else
      let s := rootMaster s
      if !(s.time.given && timeLocked s) then s
      else enterIdle (endPhase (refreshCheck s) 9))

/-- `TIME_SET_TIMEOUT` (R425). -/
def execTimeSetTimeout (s : State) : Res :=
  done s (if inPhase s 9 && !s.time.given then startFail s 9 0x91 0 else s)

/-- `TIME_LOCK_TIMEOUT` (R425). -/
def execTimeLockTimeout (s : State) : Res :=
  done s (if inPhase s 9 && s.time.given && !timeLocked s then startFail s 9 0x92 (s.time.offset.signExtend 64) else s)

/-- `PHASE_BOUND_EXCEEDED` (R423-R425): the wait for `FLOW_OK` does not count; phase 1 ends in reset. -/
def execPhaseBoundExceeded (s : State) : Res :=
  let n := nextPhase s
  done s (
    if n = 1 && !s.phys.mainOn && !s.phys.tripped then
      { s with firm := { s.firm with held := true }, phys := { s.phys with p1cause := 0xF1 } }
    else if inPhase s n && !s.firm.fwReady && n ≤ 9 then startFail s n 0xF1 (BitVec.ofNat 64 n)
    else s)

/-! ### Resets (R419, R428, R430) -/

/-- What comes before a reset other than power-on (R379, R428): a quench if a program is loaded, and the sequence of R379
when the Hamper is writing. -/
def beforeReset (s : State) : State :=
  let s := if s.prog.isSome then sendQuench s 1 none else s
  if s.firm.state == .checkpoint || s.hamper.write.isSome || s.hamper.mirrorRx.isSome then flushHamper s 0x0A else s

/-- A reset that the firmware makes: the ledgers drain first (R419, R428). Mode 3 is the management watchdog's. -/
def beginReset (s : State) (m : Nat) : State :=
  let s := beforeReset s
  finishDrain { s with firm := { s.firm with draining := some .boot, pendingReset := some (BitVec.ofNat 2 m) } }

/-- `RESET_N_ASSERT` (R419): the engines are held, what is in flight is recorded FAILED. -/
def execResetNAssert (s : State) : Res :=
  done s (
    let s := { s with phys := { s.phys with resetN := false } }
    if !s.phys.mainOn || s.firm.held then s
    else
      let s := beforeReset s
      let s := { s with firm := { s.firm with held := true, holdOver := false, draining := some .boot, pendingReset := none } }
      let s := forceItems s
      let s := abortWrite s
      { s with firm := { s.firm with draining := none, gathers := [], cut := s.firm.accepted ++ s.firm.taken } })

/-- The restart of R428 after `RESET_N`, once the hold is over and the pin is high. -/
def resetIfFree (s : State) : State := if s.firm.holdOver && s.phys.resetN then restart s 1 false else s

/-- `RESET_HOLD_EXPIRY` (R419). -/
def execResetHoldExpiry (s : State) : Res :=
  done s (
    if s.phys.mainOn && s.firm.held && !s.firm.holdOver then
      resetIfFree { s with firm := { s.firm with holdOver := true } }
    else s)

/-- `RESET_N_RELEASE` (R428, R452): after a trip the start has reset cause 6 and begins with phase 1. -/
def execResetNRelease (s : State) : Res :=
  done s (
    let s := { s with phys := { s.phys with resetN := true } }
    if s.phys.tripped then
      let s := restart s 6 false
      { s with phys := { s.phys with tripped := false, thermtripN := true } }
    else if s.phys.mainOn && s.firm.held then resetIfFree s
    else s)

/-- `MANAGEMENT_WATCHDOG` (R428): a mode 2 reset. -/
def execManagementWatchdog (s : State) : Res :=
  done s (if s.phys.mainOn && !s.firm.held && 2 ≤ s.firm.phase.toNat then beginReset s 3 else s)

/-- `PWR_GOOD_FALL` (R379, R445): the Hamper runs on its hold-up, and the module loses power. -/
def execPwrGoodFall (s : State) : Res :=
  done s (powerOff (if s.phys.mainOn then flushHamper s 1 else s))

/-- `STANDBY_CONVERTER_START` (R446): `STBY.STATUS` takes its reset values. -/
def execStandbyConverterStart (s : State) : Res :=
  done s (
    if s.phys.mainOn then s
    else { powerOff s with phys := { flowOk := s.phys.flowOk, resetN := s.phys.resetN } })

end Sys2Proof.Machine
end

