-- ==== Sys2Proof/Machine/Physical.lean ====
section
/-! DEFINITION. Coolant, trips, throttling and the standby register (R443, R446, R448-R453). -/

namespace Sys2Proof.Machine

/-- Event 0x10 (R453): kinds 4 to 6 are faults. -/
def thermalEvent (s : State) (kind : Nat) : State :=
  let p := s.phys
  raiseEvent s 0x10 (if 4 ≤ kind ∧ kind ≤ 6 then 2 else 1) (unitPath s 0 0)
    ([BitVec.ofNat 8 kind, BitVec.ofNat 8 (throttleStep s), p.tj, p.inlet] ++ natLe 2 p.pin10.toNat ++ natLe 2 p.pin100.toNat
      ++ natLe 2 p.vin.toNat)

/-- The sensors' readings are taken (R446, R454): the standby register holds 12 bits of the input power. -/
def sense (s : State) (m : Sensors) : State :=
  { s with phys := { s.phys with tj := m.tj, inlet := m.inlet, pin10 := m.pin10, pin100 := m.pin100, vin := m.vin,
                                 pin := BitVec.ofNat 12 (min m.pin10.toNat 0xFFF) } }

/-! ### Coolant (R451) -/

/-- `FLOW_OK_FALL` (R449, R451). -/
def execFlowOkFall (s : State) : Res :=
  let s' := { s with phys := { s.phys with flowOk := false } }
  done s (
    if !s.phys.flowOk || s.firm.state == .boot then s'
    else thermalEvent { s' with phys := { s'.phys with flowDem := 4 } } 2)

/-- `FLOW_OK_RISE` (R449, R451): `BOOT` may proceed. -/
def execFlowOkRise (s : State) : Res :=
  let s' := { s with phys := { s.phys with flowOk := true, flowDem := 0 } }
  done s (
    if s.phys.flowOk then s
    else if s.firm.state == .boot then (if inPhase s 2 && s.firm.fwReady then leaveBoot s' else s')
    else thermalEvent s' 3)

/-! ### Trips (R452) -/

/-- The trip bit of a kind of event is latched (R446): 4 thermal, 5 power, 6 flow. -/
def latch (s : State) (kind : Nat) : State :=
  let p := s.phys
  { s with phys := { p with tripThermal := p.tripThermal || kind = 4, tripPower := p.tripPower || kind = 5,
                            tripFlow := p.tripFlow || kind = 6 } }

/-- The main rails go off: every link goes down and `THERMTRIP_N` is low (R452). -/
def railsOff (s : State) : State :=
  { s with
    firm := { s.firm with state := .boot, phase := 0, held := true, draining := none, writing := none, gathers := [] },
    vkx := { s.vkx with state := 0, speed := 0, lanes := 0 },
    fab := { s.fab with ports := s.fab.ports.map fun (e : Nat × Port) => (e.1, { e.2 with state := 1 }) },
    phys := { s.phys with mainOn := false, tripped := true, thermtripN := false, tj := 0 } }

/-- A trip (R452): the Hamper's sequence runs with reason `RESET`, the die fault is taken, the ledgers drain at once, and
the main rails go off. -/
def trip (s : State) (kind : Nat) : State :=
  if !s.phys.mainOn then s
  else
    let s := thermalEvent (latch s kind) kind
    let s := if s.hamper.write.isSome || s.hamper.mirrorRx.isSome then flushHamper s 0x0A else s
    let s := dieFault s 0x10
    let s := if s.firm.draining.isSome then s else { s with firm := { s.firm with draining := some .safe } }
    railsOff (finishDrain (forceCommands (forceItems s)))

/-- `FLOW_TRIP` (R451): only outside `BOOT`. -/
def execFlowTrip (s : State) : Res :=
  done s (if s.phys.flowOk || s.firm.state == .boot then s else trip s 6)

/-- `THERMAL_TRIP` (R452). -/
def execThermalTrip (s : State) : Res := done s (trip s 4)

/-- `POWER_TRIP` (R448, R452). -/
def execPowerTrip (s : State) : Res := done s (trip s 5)

/-! ### Throttling (R449) -/

/-- `THERMAL_DEMAND_RISE` (R449). -/
def execThermalDemandRise (m : Sensors) (s : State) : Res :=
  let s' := sense s m
  done s (
    if 95 ≤ m.tj.toNat ∧ s.phys.thermalDem.toNat < 4 then
      thermalEvent { s' with phys := { s'.phys with thermalDem := s'.phys.thermalDem + 1 } } 0
    else s')

/-- `THERMAL_DEMAND_FALL` (R449). -/
def execThermalDemandFall (m : Sensors) (s : State) : Res :=
  let s' := sense s m
  done s (
    if m.tj.toNat < 90 ∧ 0 < s.phys.thermalDem.toNat then
      thermalEvent { s' with phys := { s'.phys with thermalDem := s'.phys.thermalDem - 1 } } 0
    else s')

/-- `POWER_DEMAND_RISE` (R449): it rises again no sooner than 5 ms after a rise. -/
def execPowerDemandRise (m : Sensors) (s : State) : Res :=
  let s' := sense s m
  let over_ := decide (1850 ≤ m.pin10.toNat ∨ 1500 < m.pin100.toNat)
  let soon := match s.phys.powerRise with | some t => decide (s.time.elapsed < t + 5000000) | none => false
  done s (
    if over_ && !soon && decide (s.phys.powerDem.toNat < 4) then
      let p := { s'.phys with powerDem := s'.phys.powerDem + 1, powerRise := some s.time.elapsed }
      thermalEvent { s' with phys := p } 1
    else s')

/-- `POWER_DEMAND_FALL` (R449). -/
def execPowerDemandFall (m : Sensors) (s : State) : Res :=
  let s' := sense s m
  done s (
    if m.pin10.toNat < 1750 ∧ m.pin100.toNat < 1400 ∧ 0 < s.phys.powerDem.toNat then
      thermalEvent { s' with phys := { s'.phys with powerDem := s'.phys.powerDem - 1 } } 1
    else s')

/-- `INLET_OVER_TEMPERATURE` (R451). -/
def execInletOverTemperature (m : Sensors) (s : State) : Res :=
  let s' := sense s m
  done s (if 40 < m.inlet.toNat then thermalEvent s' 7 else s')

/-! ### The standby register and the alert (R443, R446) -/

/-- `STBY.STATUS` (R446). -/
def stbyStatus (s : State) : Word :=
  let p := s.phys
  word [(p.vin.toNat, 48), (p.pin.toNat, 36), (p.tj.toNat, 28), (p.inlet.toNat, 20), (p.p1cause.toNat, 8), (p.rail.toNat, 4),
        (bn p.tripFlow, 3), (bn p.tripPower, 2), (bn p.tripThermal, 1), (bn p.mainOn, 0)]

/-- The level of `SMB_ALERT_N` as far as a latched trip pulls it low (R443). -/
def smbAlertN (s : State) : Bool := !(s.phys.tripFlow || s.phys.tripPower || s.phys.tripThermal)

/-- `STBY_STATUS_READ` (R446). -/
def execStbyStatusRead (s : State) : Res := done s (emit s (.smbus (stbyStatus s)))

/-- `STBY_STATUS_CLEAR` (R446): a bit whose condition holds is set again at once. `holding` gives thermal, power, flow. -/
def execStbyStatusClear (v : BitVec 64) (holding : BitVec 3) (s : State) : Res :=
  let p := s.phys
  done s { s with phys := { p with
    tripThermal := (p.tripThermal && !v.getLsbD 1) || (p.tripThermal && holding.getLsbD 0),
    tripPower := (p.tripPower && !v.getLsbD 2) || (p.tripPower && holding.getLsbD 1),
    tripFlow := (p.tripFlow && !v.getLsbD 3) || (p.tripFlow && holding.getLsbD 2) } }

end Sys2Proof.Machine
end

