-- ==== Sys2Proof/Machine/Discovery.lean ====
section
/-! DEFINITION. Discovery over the links (R305, R306) and the disciplined time base (R341-R345, R348, R444). -/

namespace Sys2Proof.Machine

/-! ### Discovery (R305, R306) -/

/-- Does the module take part in discovery: in `LINKUP`, by the method of discovery? -/
def discovering (s : State) : Bool := inPhase s 8 && slathVal s 13 ≠ 1

/-- Does a port hear its neighbour: trained, if with a cabling fault? -/
def hears (s : State) (p : Nat) : Bool := portUp s p || (p < portsOn s && (portAt s p).state = 5)

/-- The port that a cable from port `p` must end at. -/
def farEnd (p : Nat) : Nat := if p % 2 = 0 then p + 1 else p - 1

/-- A lower serial is adopted, and the shorter way to it, while the election lasts. -/
def adopt (s : State) (m : HelloSym) : State :=
  if s.fab.discPhase ≠ 0 then s
  else if m.lowest.toNat < s.fab.lowest.toNat then { s with fab := { s.fab with lowest := m.lowest, hops := m.hops + 1 } }
  else if m.lowest = s.fab.lowest ∧ m.hops.toNat + 1 < s.fab.hops.toNat then { s with fab := { s.fab with hops := m.hops + 1 } }
  else s

/-- `HELLO` (R305, R306): a far port that is not the near port xor 1 is a cabling fault. -/
def execHello (port : Fin 8) (m : HelloSym) (s : State) : Res :=
  let p := port.val
  done s (
    if !hears s p then s
    else
      let wrong := m.port.toNat ≠ farEnd p
      let s := modPort s p fun x => { x with farPort := some m.port, farSerial := m.serial, state := if wrong then 5 else x.state }
      if wrong then (if inPhase s 8 then startFail s 8 0x84 (BitVec.ofNat 64 p) else s) else adopt s m)

/-- `HELLO_TIMER` (R305). -/
def execHelloTimer (port : Fin 8) (s : State) : Res :=
  done s (
    if !portUp s port.val then s
    else emit s (.hello port { serial := s.serial, port := BitVec.ofNat 8 port.val, grade := s.grade.setWidth 8,
                               phase := s.fab.discPhase, lowest := s.fab.lowest, hops := s.fab.hops }))

/-- Discovery is complete at the root once its trained ports agree, and it floods `DISC_DONE` (R306; log 25). -/
def rootDone (s : State) : State :=
  let up := (List.range 8).filter (portUp s)
  if s.fab.root && s.fab.discPhase = 2 && up.all fun p => s.fab.coordFrom.contains p then
    let s := { s with fab := { s.fab with discPhase := 3 } }
    up.foldl (fun s p => emit s (.discDone (Fin.ofNat 8 p))) s
  else s

/-- With an extent known on every axis the root takes its place and sends `COORD` (R306). -/
def rootPlace (s : State) : State :=
  if (List.range 4).all fun a => rd 0 s.fab.probes a ≠ 0 then
    let n := fun a => BitVec.ofNat 6 (min 63 (rd 0 s.fab.probes a))
    let e : Extents := ⟨n 0, n 1, n 2, n 3⟩
    match extentFault s e with
    | some x => startFail s 8 x.1 (BitVec.ofNat 64 x.2)
    | none =>
      let s := { s with fab := { s.fab with coords := ⟨0, 0, 0, 0⟩, extent := e, discPhase := 2, coordFrom := [] } }
      rootDone (sendCoord s ⟨0, 0, 0, 0⟩ e none)
  else s

/-- `DISCOVERY_ELECTION` (R306): the module with the lowest serial is the root and sends the probes, whose count it starts at
1 for itself; an axis whose + port is not trained has extent 1. -/
def execDiscoveryElection (s : State) : Res :=
  done s (
    if !(discovering s && s.fab.discPhase = 0 && s.fab.lowest = s.serial) then s
    else
      let s := { s with fab := { s.fab with root := true, discPhase := 1, hops := 0, probes := [] } }
      let s := (List.range 4).foldl (fun s a =>
        if portUp s (2 * a) then emit s (.probe (Fin.ofNat 8 (2 * a)) 1)
        else { s with fab := { s.fab with probes := wr 0 s.fab.probes a 1 } }) s
      rootPlace s)

/-- `RING_PROBE` (R306): counted and sent on, or back at the root's − port. -/
def execRingProbe (port : Fin 8) (count : BitVec 8) (s : State) : Res :=
  let p := port.val
  done s (
    if !(discovering s && portUp s p && p % 2 = 1) then s
    else if s.fab.root then
      (if s.fab.discPhase = 1 then rootPlace { s with fab := { s.fab with probes := wr 0 s.fab.probes (p / 2) count.toNat } } else s)
    else
      let s := { s with fab := { s.fab with discPhase := if s.fab.discPhase = 0 then 1 else s.fab.discPhase } }
      if portUp s (p - 1) then emit s (.probe (Fin.ofNat 8 (p - 1)) (if count = 0xFF then count else count + 1)) else s)

/-- The coordinates that a neighbour's `COORD` on a port gives this module (R306). -/
def derived (p : Nat) (c : Coords) (e : Extents) : Coords :=
  let n := max 1 (extOn e (p / 2))
  let v := coordOn c (p / 2)
  let w := if p % 2 = 1 then (v + 1) % n else (v + n - 1) % n
  match p / 2 with
  | 0 => { c with x := BitVec.ofNat 5 w }
  | 1 => { c with y := BitVec.ofNat 5 w }
  | 2 => { c with z := BitVec.ofNat 5 w }
  | _ => { c with w := BitVec.ofNat 4 w }

/-- The coordinates and extents that this module already has: those of discovery, or the written ones. -/
def ownPlace (s : State) : Option (Coords × Extents) :=
  if slathVal s 13 = 1 then s.fab.written
  else if 2 ≤ s.fab.discPhase.toNat then some (s.fab.coords, s.fab.extent) else none

/-- `COORD` (R306): the first one places the module, and every later one must agree. -/
def execCoord (port : Fin 8) (c : Coords) (n : Extents) (s : State) : Res :=
  let p := port.val
  let d := homeCoords s (derived p c n)
  done s (
    if !(inPhase s 8 && portUp s p) then s
    else match ownPlace s with
      | some x =>
        if x.1 = d ∧ x.2 = n then
          rootDone { s with fab := { s.fab with coordFrom := insNat p s.fab.coordFrom } }
        else startFail s 8 0x83 (BitVec.ofNat 64 p)
      | none =>
        if slathVal s 13 = 1 then s
        else match extentFault s n with
        | some x => startFail s 8 x.1 (BitVec.ofNat 64 x.2)
        | none =>
          let s := { s with fab := { s.fab with coords := d, extent := n, discPhase := 2, coordFrom := [p] } }
          sendCoord s d n none)

/-- `DISC_DONE` (R306). -/
def execDiscDone (port : Fin 8) (s : State) : Res :=
  done s (
    if !(discovering s && portUp s port.val && s.fab.discPhase = 2) then s
    else
      let s := { s with fab := { s.fab with discPhase := 3 } }
      ((List.range 8).filter fun p => portUp s p && p ≠ port.val).foldl (fun s p => emit s (.discDone (Fin.ofNat 8 p))) s)

/-- `DISCOVERY_TIMEOUT` (R306, R425). -/
def execDiscoveryTimeout (s : State) : Res := done s (if inPhase s 8 then startFail s 8 0x85 0 else s)

/-- `MCTP_COORDINATE_WRITE` (R305): before phase 8. -/
def execMctpCoordinateWrite (c : Coords) (n : Extents) (s : State) : Res :=
  done s (
    if s.phys.mainOn && decide (s.firm.phase.toNat < 8) then { s with fab := { s.fab with written := some (homeCoords s c, n) } } else s)

/-! ### Time (R341-R345) -/

/-- The counter in sixteenths of a nanosecond. -/
def stampNow (s : State) : Nat := 16 * s.time.fec.toNat + s.time.fecFrac.toNat

/-- A time event (R417): `TIME.STATUS` and `TIME.OFFSET`. -/
def timeEvent (s : State) : State :=
  raiseEvent s 0x08 1 (unitPath s 0 0) (natLe 8 (timeStatus s).toNat ++ natLe 8 (timeOffset s).toNat)

/-- The counter is set, in sixteenths of a nanosecond: entries that a forward step passes complete without acting (R348). -/
def stepCounter (s : State) (v : Int) : State :=
  let s := { s with time := { s.time with fec := BitVec.ofInt 64 (v / 16), fecFrac := BitVec.ofInt 4 v, slew := 0, slewNs := 0 } }
  let late := s.time.epochQ.filter fun e => decide (e.epoch.toNat ≤ s.time.fec.toNat)
  let s := { s with time := { s.time with epochQ := s.time.epochQ.filter fun e => decide (s.time.fec.toNat < e.epoch.toNat) } }
  late.foldl (fun s e => endEntry s e 4 3) s

/-- A step forward or back (R348): only a forward one passes epochs. -/
def stepTo (s : State) (v : Int) : State :=
  if v < stampNow s then
    { s with time := { s.time with fec := BitVec.ofInt 64 (v / 16), fecFrac := BitVec.ofInt 4 v, slew := 0, slewNs := 0 } }
  else stepCounter s v

/-- The trained port whose last symbol showed the lowest stratum below 255, the lowest on a tie (R342). -/
def bestUpstream (s : State) : Option Nat :=
  ((List.range 8).filter fun p => portUp s p && (portAt s p).stratum ≠ 0xFF).foldl (fun (m : Option Nat) p =>
    match m with
    | none => some p
    | some b => if (portAt s p).stratum.toNat < (portAt s b).stratum.toNat then some p else m) none

/-- A follower takes its source and its stratum (R342): a new source, or one after holdover, starts the exchanges anew. -/
def follow (s : State) : State :=
  match bestUpstream s with
  | none => { s with time := { s.time with upValid := false } }
  | some b =>
    let t := s.time
    let same := t.upValid && t.upstream.toNat = b && t.state ≠ 3
    let v := BitVec.ofNat 8 (min 254 ((portAt s b).stratum.toNat + 1))
    if same then { s with time := { t with stratum := v } }
    else { s with time := { t with upstream := BitVec.ofNat 3 b, upValid := true, stratum := v, state := 1, good := 0, drift := false,
                                   holdNs := 0 } }

/-- A difference modulo 2^40, signed (R344). -/
def diff40 (a b : BitVec 40) : Int := (a - b).toInt

/-- May the counter step in this state (R344)? -/
def mayStep (s : State) : Bool := stateCode s.firm.state ≤ 4

/-- Half of a value in sixteenths: which way an odd one is rounded is free (log 4). -/
def halfOf16 (s : State) (k : Nat) (v : Int) : Int := v / 2 + (if v % 2 = 1 && freeBit s k then 1 else 0)

/-- The exchange of R344 with the upstream port: offset, delay and correction. -/
def exchange (s : State) (m : TimeSym) (r : BitVec 40) : State :=
  let a := diff40 r m.tTx
  let b := diff40 m.echoRx m.echoTx
  let th := a - b
  let off := halfOf16 s 0 th
  let del := halfOf16 s 1 (a + b)
  let s := { s with free := s.free + 2, time := { s.time with offset := BitVec.ofInt 32 off, delay := BitVec.ofInt 32 del } }
  let far := decide (32000 < th.natAbs)
  if far && mayStep s then
    let v : Int := (stampNow s : Int) - off
    let n := BitVec.ofInt 64 (v / 16)
    -- the upper bits come from the sender where they disagree
    let v := if n.extractLsb' 28 36 = m.hi.extractLsb' 0 36 then v
      else ((16 * (2 ^ 28 * (m.hi.toNat % 2 ^ 36) + n.toNat % 2 ^ 28) : Nat) : Int) + v % 16
    let s := stepTo s v
    { s with time := { s.time with good := 0, state := 1 } }
  else
    let good := if th.natAbs ≤ 64 then s.time.good + 1 else 0
    let s := { s with time := { s.time with slew := -off, slewNs := 0, good := good,
                                            state := if 16 ≤ good then 2 else s.time.state } }
    if far then timeEvent s else s

/-- `TIME_SYMBOL` (R342, R344). -/
def execTimeSymbol (port : Fin 8) (m : TimeSym) (r : BitVec 40) (s : State) : Res :=
  let p := port.val
  done s (
    if !portUp s p then s
    else
      let s := modPort s p fun x => { x with stratum := m.stratum, lastTx := m.tTx, lastRx := r, echoValid := true }
      if s.time.pps then s
      else
        -- a root that kept time itself follows a source that appears
        let s := if s.time.master && (bestUpstream s).isSome then { s with time := { s.time with master := false } } else s
        if s.time.master then s
        else
          let s := follow s
          if s.time.upValid && s.time.upstream.toNat = p && m.hi.getLsbD 36 then exchange s m r else s)

/-- `TIME_SYMBOL_TIMER` (R343): on the first path of the port. -/
def execTimeSymbolTimer (port : Fin 8) (s : State) : Res :=
  let x := portAt s port.val
  done s (
    if !portUp s port.val then s
    else
      let hi := s.time.fec.toNat / 2 ^ 28 + 2 ^ 36 * bn x.echoValid + 2 ^ 37 * bn (s.time.state = 2) + 2 ^ 38 * bn s.time.drift
        + 2 ^ 39 * bn (s.time.state = 3)
      let m : TimeSym := ⟨s.time.stratum, BitVec.ofNat 40 (stampNow s), x.lastTx, x.lastRx, BitVec.ofNat 40 hi⟩
      match firstPath s port.val with
      | none => s
      | some l => emit s (.time l m))

/-- `PPS_IN_EDGE` (R342): the module is a master, and the counter a multiple of 10^9. -/
def execPpsInEdge (s : State) : Res :=
  done s (
    if !s.phys.mainOn then s
    else
      let n := (s.time.fec.toNat + 500000000) / 1000000000 * 1000000000
      let s := stepTo s (16 * n : Nat)
      { s with time := { s.time with pps := true, master := true, stratum := 0, upValid := false, drift := false, holdNs := 0,
                                     state := if s.time.given then 2 else 1 } })

/-- The module enters holdover (R345). -/
def holdover (s : State) : State :=
  { s with time := { s.time with state := 3, stratum := 0xFF, master := false, upValid := false, good := 0, holdNs := 0, drift := false } }

/-- `PPS_LOSS` (R342, R345): a follower if a port offers a source, else holdover. -/
def execPpsLoss (s : State) : Res :=
  done s (
    if !s.time.pps then s
    else
      let s := { s with time := { s.time with pps := false, master := false } }
      if (bestUpstream s).isSome then follow s else holdover s)

/-- `HOLDOVER_ENTRY` (R345): no port has given a valid symbol for 10 µs. -/
def execHoldoverEntry (s : State) : Res :=
  done s (
    if !s.phys.mainOn || s.time.pps || s.time.master || s.time.state = 3 then s
    else
      let ports := s.fab.ports.map fun (e : Nat × Port) => (e.1, { e.2 with stratum := (0xFF : BitVec 8) })
      holdover { s with fab := { s.fab with ports := ports } })

/-- `DRIFT` (R345): after 400 ms of holdover. -/
def execDrift (s : State) : Res :=
  done s (
    if s.time.state ≠ 3 || s.time.drift then s
    else
      let s := passNs s (400000000 - s.time.holdNs)
      timeEvent { s with time := { s.time with drift := true } })

/-- `PPS_OUT_PULSE` (R444): within 2 ns of a whole second. -/
def execPpsOutPulse (s : State) : Res :=
  let r := s.time.fec.toNat % 1000000000
  let on := s.time.state = 2 || (s.time.state = 3 && !s.time.drift)
  done s (if on && decide (r ≤ 2 ∨ 999999998 ≤ r) then emit s .pulse else s)

end Sys2Proof.Machine
end

