-- ==== Sys2Proof/Machine/RegWrites.lean ====
section
/-! DEFINITION. Writes of the control registers (R65, R118, R119, R160, R161, R189, R227, R245, R259, R264-R266, R308, R352,
R388, R398): each keeps to its field's range, and reserved bits are dropped. -/

namespace Sys2Proof.Machine

/-- Bits of a written word as a number. -/
def wBits (v : Word) (lo n : Nat) : Nat := bitsN v.toNat lo n

/-- A value put to the nearer limit of its range. -/
def clamp (lo hi n : Nat) : Nat := max lo (min hi n)

/-! ### The registers -/

/-- W1C bits of a conversion flag register (R64, R65). -/
def clearCvt (c : CvtFlags) (v : Word) : CvtFlags :=
  { tally := if v.getLsbD 7 then 0 else c.tally, tallySat := c.tallySat && !v.getLsbD 7,
    poisonOut := c.poisonOut && !v.getLsbD 4, poisonIn := c.poisonIn && !v.getLsbD 3,
    underflow := c.underflow && !v.getLsbD 2, sat := c.sat && !v.getLsbD 1, nonfinite := c.nonfinite && !v.getLsbD 0 }

/-- W1C bits of an IEEE flag register (R189). -/
def clearIeee (c : IeeeFlags) (v : Word) : IeeeFlags :=
  { fxsat := c.fxsat && !v.getLsbD 5, invalid := c.invalid && !v.getLsbD 4, divzero := c.divzero && !v.getLsbD 3,
    overflow := c.overflow && !v.getLsbD 2, underflow := c.underflow && !v.getLsbD 1, inexact := c.inexact && !v.getLsbD 0 }

/-- A conversion flag register written, by stream code; what was raised in this cycle stays (R65). -/
def setCvt (s : State) (t k : Nat) (v : Word) : State :=
  modTile s t fun x => { x with cvt := upd {} x.cvt k fun c => cvtRaise (clearCvt c v) (freshOf s t k) }

/-- An IEEE flag register written, by stream code; what was raised in this cycle stays (R189). -/
def setIeee (s : State) (t k : Nat) (v : Word) : State :=
  modTile s t fun x => { x with ieee := upd {} x.ieee k fun c => ieeeOr (clearIeee c v) (freshOf s t k).ieee }

/-- `TILE.ARRAY_LAGn` written (R119). -/
def setLag (s : State) (t n : Nat) (v : Word) : State :=
  if v.getLsbD 63 then modTile s t fun x => { x with phys := upd {} x.phys n fun p => { p with drain := 0, b := 0, a := 0 } }
  else s

/-- `TILE.SP_SCRUB` written (R227). -/
def setSpScrub (s : State) (t : Nat) (v : Word) : State :=
  modTile s t fun x =>
    { x with scrubEn := v.getLsbD 16, scrubInterval := BitVec.ofNat 16 (max 0x0040 (wBits v 0 16)) }

/-- `LLM.SCRUB` written (R245). -/
def setLlmScrub (s : State) (k : Nat) (v : Word) : State :=
  modSlice s k fun x =>
    { x with scrubEn := v.getLsbD 16, scrubInterval := BitVec.ofNat 16 (max 0x0040 (wBits v 0 16)) }

/-- `HBM.PRIO` written (R264): each pseudo-channel takes it up with its next frame. -/
def setPrio (s : State) (v : Word) : State :=
  let w := fun lo => BitVec.ofNat 5 (max 1 (wBits v lo 5))
  { s with mem := { s.mem with p0cap := BitVec.ofNat 5 (clamp 2 20 (wBits v 16 5)), w1 := w 0, w2 := w 5, w3 := w 10 } }

/-- `HBM.SCRUB` written (R265). -/
def setHbmScrub (s : State) (k : Nat) (v : Word) : State :=
  modStack s k fun x => { x with scrubEn := v.getLsbD 16, hours := BitVec.ofNat 8 (clamp 1 168 (wBits v 0 8)) }

/-- `CXL.TIMEOUT` written (R266). -/
def setCxlTimeout (s : State) (v : Word) : State :=
  { s with mem := { s.mem with cxlTimeout := BitVec.ofNat 32 (clamp 100000 100000000 (wBits v 0 32)) } }

/-- `FAB.ACK_TIMEOUT` written (R308). -/
def setAckTimeout (s : State) (v : Word) : State :=
  { s with fab := { s.fab with ackTimeout := BitVec.ofNat 32 (clamp 100000 1000000000 (wBits v 0 32)) } }

/-- `CE.TIMEOUT` written (R352). -/
def setCeTimeout (s : State) (a : Nat) (v : Word) : State :=
  { s with ces := upd {} s.ces a fun e => { e with timeout := BitVec.ofNat 32 (clamp 1000000 0xFFFFFFFF (wBits v 0 32)) } }

/-- `HAMPER.REFRESH` written (R388). -/
def setRefresh (s : State) (v : Word) : State :=
  modHamper s fun h => { h with age := BitVec.ofNat 6 (clamp 1 60 (wBits v 0 6)) }

/-- `VKX.WINDOW` written (R398): the base is fixed while en is 1, and writing 1 there sets the ring tail to 0; the host has
set the head to 0. Replies that waited for a window go out. -/
def setWindow (s : State) (v : Word) : State :=
  let on := v.getLsbD 8
  let y := s.vkx
  let y : Vkx := { y with base := if y.en then y.base else v.extractLsb' 16 36, en := on,
                          order := BitVec.ofNat 5 (clamp 10 20 (wBits v 0 5)),
                          tail := if on then 0 else y.tail, head := if on then 0 else y.head }
  let s := { s with vkx := y }
  flushReplies (if on && linkUp s then askWindow s else s)

/-- `VKX.TIMEOUT` written (R398). -/
def setVkxTimeout (s : State) (v : Word) : State :=
  { s with vkx := { s.vkx with timeout := BitVec.ofNat 32 (clamp 100000 100000000 (wBits v 0 32)) } }

/-- `TILE.DEBUG` written (R160). -/
def setBrk (s : State) (t : Nat) (v : Word) : State := modTile s t fun x => { x with brkEn := v.getLsbD 0 }

/-- `TILE.WATCHDOG` written (R161). -/
def setWatchdog (s : State) (t : Nat) (v : Word) : State := modTile s t fun x => { x with watchdog := v.setWidth 48 }

/-! ### Writes by offset (R259) -/

/-- A write in a tile's block: nothing where the register has no field that can be written. -/
def tileWrite (s : State) (t o : Nat) (v : Word) : Option State :=
  if o = 0x018 then some (setBrk s t v)
  else if o = 0x020 then some (setWatchdog s t v)
  else if o = 0x200 ∨ o = 0x208 ∨ o = 0x210 then some (setCvt s t ((o - 0x200) / 8) v)
  else if o = 0x350 ∨ o = 0x370 ∨ o = 0x390 ∨ o = 0x3B0 then some (setLag s t ((o - 0x350) / 32) v)
  else if o = 0x400 ∨ o = 0x408 ∨ o = 0x410 then some (setIeee s t ((o - 0x400) / 8) v)
  else if o = 0x638 then some (setSpScrub s t v)
  else none

/-- A write of a register at a control-register offset. -/
def putReg (s : State) (o : Nat) (v : Word) : Option State :=
  if 0x1000000 ≤ o then tileWrite s ((o - 0x1000000) / 0x10000) (o % 0x10000) v
  else if 0x800000 ≤ o ∧ o < 0x810000 ∧ o % 0x1000 = 0x038 then some (setLlmScrub s ((o - 0x800000) / 0x1000) v)
  else if 0x900000 ≤ o ∧ o < 0x908000 ∧ o % 0x1000 = 0x030 then some (setHbmScrub s ((o - 0x900000) / 0x1000) v)
  else if 0x940000 ≤ o ∧ o < 0x944000 ∧ o % 0x1000 = 0x068 then some (setCeTimeout s ((o - 0x940000) / 0x1000) v)
  else match o with
  | 0x908000 => some (setPrio s v)
  | 0x910018 => some (setCxlTimeout s v)
  | 0x920028 => some (setAckTimeout s v)
  | 0x980050 => some (setRefresh s v)
  | 0x990000 => some (setWindow s v)
  | 0x990038 => some (setVkxTimeout s v)
  | _ => none

/-- What an 8-byte write of a register comes to (R5, R259): the state, and the resp code of R396. A register without a field
that can be written takes nothing. -/
def regWrite (s : State) (o : Nat) (v : Word) : State × Nat :=
  match regAt s o with
  | .absent k i => (countAbsent s k i, 1)
  | .none => (s, 2)
  | .value _ => (match putReg s o v with | some s' => (s', 0) | none => (s, 0))

/-- A write meets its unit, or an absent one (R5, R6). -/
def onUnit (s : State) (k : UnitKind) (i : Nat) (s' : State) : State := if unitOn s k i then s' else countAbsent s k i

/-! ### The commands -/

/-- `CVT_FLAGS_WRITE` (R65). -/
def execCvtFlagsWrite (t : Fin 64) (st : Stream) (v : BitVec 64) (s : State) : Res :=
  done s (onUnit s .tile t.val (setCvt s t.val (sc st) v))

/-- `ARRAY_LAG_CLEAR` (R119). -/
def execArrayLagClear (t : Fin 64) (n : Fin 4) (v : BitVec 64) (s : State) : Res :=
  done s (onUnit s .tile t.val (setLag s t.val n.val v))

/-- `SP_SCRUB_WRITE` (R227). -/
def execSpScrubWrite (t : Fin 64) (v : BitVec 64) (s : State) : Res := done s (onUnit s .tile t.val (setSpScrub s t.val v))

/-- `LLM_SCRUB_WRITE` (R245). -/
def execLlmScrubWrite (sl : Fin 16) (v : BitVec 64) (s : State) : Res := done s (setLlmScrub s sl.val v)

/-- `HBM_PRIO_WRITE` (R264). -/
def execHbmPrioWrite (v : BitVec 64) (s : State) : Res := done s (setPrio s v)

/-- `HBM_SCRUB_WRITE` (R265). -/
def execHbmScrubWrite (k : Fin 8) (v : BitVec 64) (s : State) : Res := done s (setHbmScrub s k.val v)

/-- `CXL_TIMEOUT_WRITE` (R266). -/
def execCxlTimeoutWrite (v : BitVec 64) (s : State) : Res := done s (setCxlTimeout s v)

/-- `FAB_ACK_TIMEOUT_WRITE` (R308). -/
def execFabAckTimeoutWrite (v : BitVec 64) (s : State) : Res := done s (setAckTimeout s v)

/-- `CE_TIMEOUT_WRITE` (R352). -/
def execCeTimeoutWrite (ax : Fin 4) (v : BitVec 64) (s : State) : Res :=
  done s (onUnit s .axis ax.val (setCeTimeout s ax.val v))

/-- `HAMPER_REFRESH_WRITE` (R388). -/
def execHamperRefreshWrite (v : BitVec 64) (s : State) : Res := done s (setRefresh s v)

/-- `VKX_WINDOW_WRITE` (R398). -/
def execVkxWindowWrite (v : BitVec 64) (s : State) : Res := done s (setWindow s v)

/-- `VKX_TIMEOUT_WRITE` (R398). -/
def execVkxTimeoutWrite (v : BitVec 64) (s : State) : Res := done s (setVkxTimeout s v)

/-- `TIME_FEC_READ` (R353). -/
def execTimeFecRead (s : State) : Res := done s { s with time := { s.time with latched := fec s } }

/-- `REGISTER_WRITE` (R259): 8 aligned bytes, to a register that can be written. -/
def execRegisterWrite (addr : BitVec 48) (len : Fin 65) (v : BitVec 64) (s : State) : Res :=
  done s (
    if len.val = 8 && regionAt s addr.toNat == .reg then (regWrite s (addr.toNat - regBase) v).1 else s)

end Sys2Proof.Machine
end

