-- ==== Sys2Proof/Machine/Vkx.lean ====
section
/-! DEFINITION. The Vorkiux Link (R389-R398): flits, retrains and their end, and the requests of the host to the CT-1. -/

namespace Sys2Proof.Machine

/-! ### Link layer (R390, R391) -/

/-- A retrain of a link that is up begins (R391, R398). -/
def startRetrain (s : State) : State :=
  if linkUp s then { s with vkx := { s.vkx with state := 1, naks := 0, nakRx := 0, retrain := tallyAdd s.vkx.retrain 1 } } else s

/-- The bytes of a flit from byte `a` on. -/
def flitBytes (f : BitVec 2048) (a n : Nat) : List Byte := natLe n (bitsN f.toNat (8 * a) (8 * n))

/-- Does a flit's CRC-64 match (R390; log 26)? -/
def flitCrcOk (f : BitVec 2048) : Bool := crcLeft 0x42F0E1EBA9EA3693 64 (flitBytes f 0 232) 0 == bitsN f.toNat (8 * 232) 64

/-- A flit is discarded and a nak names the last good one (R391): eight for one seq start a retrain. -/
def discardFlit (s : State) : State :=
  let v := s.vkx
  let n := if v.nakSeq = v.rxSeq then v.naks + 1 else 1
  let v : Vkx := { v with crcErr := tallyAdd v.crcErr 1, nakSeq := v.rxSeq, naks := n }
  let s := emit { s with vkx := v } (.nak v.rxSeq)
  if 8 ≤ n then startRetrain s else s

/-- An acknowledgement: the covered flits leave the replay buffer; a nak has the others sent again (R391). -/
def takeFlitAck (s : State) (ack : BitVec 12) (nak : Bool) : State :=
  let v := s.vkx
  let left := v.unacked.filter fun q => precedes 12 ack.toNat q.toNat
  let v : Vkx := { v with unacked := left }
  if !nak then { s with vkx := v }
  else
    let n := if v.nakRxSeq = ack then v.nakRx + 1 else 1
    let s := { s with vkx := { v with replayCnt := v.replayCnt + left.length, nakRxSeq := ack, nakRx := n } }
    if 8 ≤ n then startRetrain s else s

/-- The credits that a flit returns (R390). -/
def takeCredits (s : State) (f : BitVec 2048) : State :=
  let v := s.vkx
  let c := fun j => bitsN f.toNat (8 * j) 8
  { s with vkx := { v with reqCredit := min 128 (v.reqCredit + c 4), snpCredit := min 64 (v.snpCredit + c 5),
                           rspCredit := min 256 (v.rspCredit + c 6), datCredit := min 256 (v.datCredit + c 7) } }

/-- `FLIT_RECEIVED` (R390, R391): a payload flit in sequence is good; one out of sequence, a repeat or a type that is reserved
is discarded without a nak (log 26). Its messages come as commands of their own. -/
def execFlitReceived (f : BitVec 2048) (fecOk : Bool) (s : State) : Res :=
  done s (
    if !linkUp s then s
    else if !(fecOk && flitCrcOk f) then discardFlit s
    else
      let seq := BitVec.ofNat 12 (bitsN f.toNat 0 12)
      let type := bitsN f.toNat 12 4
      let read := fun (s : State) => drainHost (takeCredits (takeFlitAck s (BitVec.ofNat 12 (bitsN f.toNat 16 12)) (bitN f.toNat 28)) f)
      if type = 0 then
        if seq = s.vkx.rxSeq + 1 then read { s with vkx := { s.vkx with rxSeq := seq, naks := 0 } } else s
      else if type = 1 then read s
      else if type = 2 then startRetrain s
      else s)

/-- `VKX_RETRAIN` (R391): loss of lock. -/
def execVkxRetrain (s : State) : Res := done s (startRetrain s)

/-- `VKX_REQUEST_TIMEOUT` (R397): a request or a snoop without a response. -/
def execVkxRequestTimeout (txid : BitVec 12) (s : State) : Res := done s (if txUsed s.vkx txid then startRetrain s else s)

/-- `VKX_DOWN_RETRAIN_TIMER` (R397): a link that is down trains once a second. -/
def execVkxDownRetrainTimer (s : State) : Res :=
  done s (
    if s.phys.mainOn && 2 ≤ s.firm.phase.toNat && s.vkx.state = 0 then
      { s with vkx := { s.vkx with state := 1, retrain := tallyAdd s.vkx.retrain 1 } }
    else s)

/-! ### Loss of the link (R397) -/

/-- Does a number name host memory: an address marked *h* (R412)? -/
def isHost (a : Nat) : Bool := a.testBit 63

/-- Does an accepted command still read or write host memory (R397, R412)? -/
def usesHost (s : State) (c : PendCmd) : Bool :=
  let n := fun i => leNat (sub c.p.payload i 8)
  match c.opcode.toNat with
  | 0x0200 => isHost (n 0)
  | 0x0302 => isHost (n 0) || isHost (n 8)
  | 0x0110 => !(s.firm.writing.any fun w => w.1 == c)
  | 0x0A02 => !(s.firm.writing.any fun w => w.1 == c)
  | 0x0A00 => true
  | _ => false

/-- The host's copies are lost (R397): lines in E or M are poisoned at their home, shared ones forgotten. -/
def loseCopies (s : State) : State :=
  let lost := s.mem.slices.flatMap fun e => e.2.snoop.filterMap fun x => if x.2 = 2 then some x.1 else none
  let s := lost.foldl loseLine s
  { s with mem := { s.mem with slices := s.mem.slices.map fun (e : Nat × Slice) => (e.1, { e.2 with snoop := [] }) },
           vkx := { s.vkx with lost := tallyAdd s.vkx.lost lost.length } }

/-- A copy out to host memory ends with `LINK_LOST` (R387, R397). -/
def loseExport (s : State) : State :=
  match s.hamper.copyOut with
  | some j =>
    if j.host then
      let n := match genAt s j.gen with | some g => (dataExtents g).length | none => 0
      let i := if j.next = 0 then n else j.next - 1
      completeTag (extRecord (modHamper s fun h => { h with copyOut := none }) j.gen i 5) 0x0703 j.tag j.route 9 5 []
    else s
  | none => s

/-- The link goes down (R397): every item that needs host memory fails, what is to be written to the window is kept. -/
def linkLost (s : State) : State :=
  let v := requeue s.vkx
  let s := { s with vkx := { v with state := 0, speed := 0, lanes := 0, lines := [], asked := [], toAsk := [], snooped := [],
                                    held := [], waitQ := [], unacked := [] } }
  let s := loseExport (loseCopies s)
  let s := (s.firm.accepted.filter (usesHost s)).foldl (fun s c => completeCmd s c 9 0 []) s
  let s := raiseEvent s 0x0C 2 (unitPath s 0 0) (natLe 8 (vkxStatus s).toNat)
  finishDrain (dieFault s 0x0C)

/-- `VKX_RETRAIN_COMPLETE` (R391, R397): the link is up again, or the third failure in a row takes it down. -/
def execVkxRetrainComplete (v : LinkTrain) (s : State) : Res :=
  done s (
    if s.vkx.state ≠ 1 then s
    else if v.ok then trainLink s v
    else
      let n := s.vkx.badTrains + 1
      let s := { s with vkx := { s.vkx with badTrains := n } }
      if n < 3 then { s with vkx := { s.vkx with retrain := tallyAdd s.vkx.retrain 1 } }
      else if n = 3 then linkLost s
      else { s with vkx := { s.vkx with state := 0, speed := 0, lanes := 0 } })

/-! ### Requests of the host (R393-R396) -/

/-- A response to the host (R392). -/
def respond (s : State) (op : BitVec 6) (txid : BitVec 12) (resp : Nat) (st : BitVec 2) (d : List Byte) : State :=
  sendHost s (.host op txid 0 (BitVec.ofNat 4 resp) (resp == 3) st d)

/-- The bytes of a line with an access's bytes at their place (R392). -/
def inLine (a : Nat) (bs : List Byte) : List Byte :=
  List.replicate (a % 64) 0 ++ bs ++ List.replicate (64 - a % 64 - bs.length) 0

/-- Where a host access of `n` bytes goes (R5, R259, R393): a region, or the resp code that ends it. -/
def hostTarget (s : State) (a n : Nat) : Region × Nat :=
  if 64 < a % 64 + n ∨ 2 ^ 48 ≤ a then (.hole, 2)
  else match regionAt s a with
    | .hole => (.hole, 2)
    | .reg => (.reg, if n = 8 ∧ a % 8 = 0 then 0 else 2)
    | .sp t => (.sp t, if t < tilesOn s then 0 else 1)
    | .far => (.far, if farDown s a n then 1 else 0)
    | r => (r, 0)

/-- An access of the host to a fused-off tile is counted (R6). -/
def countTile (s : State) (r : Region) : State :=
  match r with
  | .sp t => if t < tilesOn s then s else countAbsent s .tile t
  | _ => s

/-- The class of host accesses (R248). -/
def hostClass : Nat := 2

/-- An uncached read of the host or of `MEM_READ`: the state, the resp code and the bytes (R225, R259, R396). -/
def readAt (s : State) (a n : Nat) : State × Nat × List Byte :=
  let zero := List.replicate n (0 : Byte)
  let t := hostTarget s a n
  if t.2 ≠ 0 then (countTile s t.1, t.2, zero)
  else match t.1 with
    | .reg =>
      (match regAt s (a - regBase) with
        | .absent k i => (countAbsent s k i, 1, zero)
        | .none => (s, 2, zero)
        | .value w =>
          let s := if a = regBase + 0x950000 then { s with time := { s.time with latched := fec s } } else s
          (s, 0, natLe 8 w.toNat))
    | _ =>
      (match devMark s a n with
        | some m => (noteMark (touch hostClass false s a n) m, 3, zero)
        | none => (touch hostClass false s a n, 0, devRead s a n))

/-- Does a tile refuse window writes (R153)? -/
def runsHere (s : State) (r : Region) : Bool :=
  match r with
  | .sp t => s.firm.state == .running && (tileAt s t).loaded.isSome
  | _ => false

/-- Does a write meet a marked unit that it covers only in part, or a retired granule (R225, R256, R396)? -/
def writeMark (s : State) (a : Nat) (bs : List Byte) : Option Nat := (devWrite s a bs).2

/-- An uncached write of the host: the state and the resp code (R153, R259, R396). A marked unit stops all of it. -/
def writeAt (s : State) (a : Nat) (bs : List Byte) : State × Nat :=
  let t := hostTarget s a bs.length
  if t.2 ≠ 0 then (countTile s t.1, t.2)
  else match t.1 with
    | .reg => regWrite s (a - regBase) (BitVec.ofNat 64 (leNat bs))
    | r =>
      if runsHere s r then (s, 2)
      else match writeMark s a bs with
        | some m => (noteMark s m, 3)
        | none => (touch hostClass true (devWrite s a bs).1 a bs.length, 0)

/-- The bytes of an uncached write, from their place in the line (R392). -/
def writeBytes (m : HostReq) (d : BitVec 512) : List Byte := sub (natLe 64 d.toNat) (m.addr.toNat % 64) (m.len.val + 1)

/-- May the host cache the line at an address (R394)? -/
def cacheable (s : State) (a : Nat) : Bool := a % 64 = 0 && (regionAt s a == .hbm || regionAt s a == .far)

/-- The filter entry of a line dropped or set (R394). -/
def setSnoop (s : State) (line : Nat) (st : BitVec 2) : State :=
  modSlice s (homeSlice (64 * line)) fun x =>
    { x with snoop := if st = 0 then x.snoop.filter fun y => y.1 ≠ line
                      else if x.snoop.any fun y => y.1 = line then x.snoop.map fun y => if y.1 = line then (line, st) else y
                      else x.snoop ++ [(line, st)] }

/-- Does the host hold a line? -/
def hostHolds (s : State) (line : Nat) : Bool := (rd {} s.mem.slices (homeSlice (64 * line))).snoop.any fun y => y.1 = line

/-- Lines that a snoop filter holds (R394). -/
def filterSize : Nat := 65536

/-- A line request to a region whose lines the host may not cache: the state and the resp code, `ABSENT` for a fused-off unit (R5, R394). -/
def lineRefusal (s : State) (a : Nat) : State × Nat :=
  match regionAt s a with
  | .sp t => (countTile s (.sp t), if t < tilesOn s then 2 else 1)
  | .reg => (match regAt s (a / 8 * 8 - regBase) with | .absent k i => (countAbsent s k i, 1) | _ => (s, 2))
  | _ => (s, 2)

/-- A line request of the host (R394): it waits while a snoop of its line is under way, or until its slice's filter has
given up its oldest entry. -/
def lineRead (s : State) (op : BitVec 6) (m : HostReq) : State :=
  let a := m.addr.toNat
  let zero := List.replicate 64 (0 : Byte)
  if !cacheable s a then (let r := lineRefusal s a; respond r.1 0x30 m.txid r.2 0 zero)
  else if farDown s a 64 then respond s 0x30 m.txid 1 0 zero
  else if (devMark s a 64).isSome then respond (noteMark (touch hostClass false s a 64) a) 0x30 m.txid 3 0 zero
  else
    let l := a / 64
    let full := (rd {} s.mem.slices (homeSlice a)).snoop
    let wait := { s with vkx := { s.vkx with held := s.vkx.held ++ [(op, m)] } }
    if s.vkx.snooped.any fun x => x.2.1 = l then wait
    else if !hostHolds s l && decide (filterSize ≤ full.length) then
      match full.head? with
      | some x => snoopLine wait (x.1, 0x10)
      | none => wait
    else
      let st : BitVec 2 := if op = 3 then 2 else 1
      respond (setSnoop (touch hostClass false s a 64) l st) 0x30 m.txid 0 st (devRead s a 64)

/-- Requests that waited are tried again, in order (R395). -/
def retryHeld (s : State) : State :=
  s.vkx.held.foldl (fun s x => lineRead s x.1 x.2) { s with vkx := { s.vkx with held := [] } }

/-- A message counts only over a link that is up. -/
def overLink (s s' : State) : State := if linkUp s then s' else s

/-- `RD_UC` (R393). -/
def execRdUc (m : HostReq) (s : State) : Res :=
  let a := m.addr.toNat
  let r := readAt s a (m.len.val + 1)
  done s (overLink s (respond r.1 0x30 m.txid r.2.1 0 (if a % 64 + m.len.val < 64 then inLine a r.2.2 else List.replicate 64 0)))

/-- `RD_S` (R394). -/
def execRdS (m : HostReq) (s : State) : Res := done s (overLink s (lineRead s 2 m))

/-- `RD_X` (R394). -/
def execRdX (m : HostReq) (s : State) : Res := done s (overLink s (lineRead s 3 m))

/-- `WR_UC` (R393). -/
def execWrUc (m : HostReq) (d : BitVec 512) (s : State) : Res :=
  let a := m.addr.toNat
  let r := if a % 64 + m.len.val < 64 then writeAt s a (writeBytes m d) else (s, 2)
  done s (overLink s (respond r.1 0x20 m.txid r.2 0 []))

/-- A whole line written by the host (R252, R394): one sent with poison takes the mark, which only HBM and the far tier have. -/
def lineWrite (s : State) (m : HostReq) (d : BitVec 512) : State × Nat :=
  let a := m.addr.toNat
  if a % 64 ≠ 0 then (s, 2)
  else if !m.poison then writeAt s a (natLe 64 d.toNat)
  else if cacheable s a then (if farDown s a 64 then (s, 1) else if (retiredIn s a 64).isEmpty then (loseLine s (a / 64), 0) else (s, 3))
  else
    let t := hostTarget s a 64
    (countTile s t.1, if t.2 = 0 then 3 else t.2)

/-- `WR_LINE` (R393, R394): every cached copy of the line is invalid. -/
def execWrLine (m : HostReq) (d : BitVec 512) (s : State) : Res :=
  let r := lineWrite s m d
  let s' := if r.2 = 0 && cacheable s m.addr.toNat then setSnoop r.1 (m.addr.toNat / 64) 0 else r.1
  done s (overLink s (respond s' 0x20 m.txid r.2 0 []))

/-- `WB` (R394, R395): the host gives up a modified line. While a snoop of the line is outstanding the snoop's data count, and
a line that the host no longer holds has been given up with a snoop. -/
def execWb (m : HostReq) (d : BitVec 512) (s : State) : Res :=
  let a := m.addr.toNat
  let l := a / 64
  done s (overLink s (
    if !cacheable s a then (let r := lineRefusal s a; respond r.1 0x20 m.txid r.2 0 [])
    else if !hostHolds s l || s.vkx.snooped.any fun x => x.2.1 = l then respond s 0x20 m.txid 0 0 []
    else
      let r := lineWrite s m d
      retryHeld (respond (if r.2 = 0 then setSnoop r.1 l 0 else r.1) 0x20 m.txid r.2 0 [])))

/-- `EVICT` (R394). -/
def execEvict (m : HostReq) (s : State) : Res :=
  let a := m.addr.toNat
  done s (overLink s (
    if !cacheable s a then (let r := lineRefusal s a; respond r.1 0x20 m.txid r.2 0 [])
    else retryHeld (respond (setSnoop s (a / 64) 0) 0x20 m.txid 0 0 [])))

/-! ### Snoops and responses (R394, R395) -/

/-- The state of a host line in the host-line cache. -/
def lineState (s : State) (a : Nat) : BitVec 2 := match s.vkx.lines.find? fun x => x.1 = a / 64 with | some x => x.2 | none => 0

/-- `SNP_INV` (R394, R400): a window line that the host is about to write leaves the cache and is asked for again. -/
def execSnpInv (m : HostReq) (s : State) : Res :=
  let l := m.addr.toNat / 64
  done s (overLink s (
    let had := lineState s (64 * l) ≠ 0
    let s := respond { s with vkx := { s.vkx with lines := s.vkx.lines.filter fun x => x.1 ≠ l } } 0x21 m.txid 0 0 []
    if had && s.vkx.en then request s 2 (64 * l) [] else s))

/-- `SNP_SH` (R394): the CT-1 holds host lines in S. -/
def execSnpSh (m : HostReq) (s : State) : Res :=
  done s (overLink s (respond s 0x21 m.txid 0 (if lineState s m.addr.toNat = 0 then 0 else 1) []))

/-- A post that waits for nothing more is finished: a reply's valid word, or the ring tail (R395, R400, R403). -/
def endPost (s : State) (p : Post) : State :=
  match p.what with
  | .reply k r => endReply s k r
  | .entry _ =>
    let n := s.vkx.tail + 1
    flushReplies (writeHost { s with vkx := { s.vkx with tail := n } } (winAt s 0x41008) (natLe 8 n.toNat)).1

/-- `CMP` (R395): a write of the CT-1 is complete, and with it what waited for it. -/
def execCmp (m : HostRsp) (s : State) : Res :=
  done s (overLink s (
    if !(s.vkx.asked.any fun x => x.1 = m.txid && 4 ≤ x.2.2.toNat) then s
    else
      let v := s.vkx
      let ps := v.posts.map fun (p : Post) => { p with need := p.need.filter fun t => t ≠ m.txid }
      let s := { s with vkx := { v with asked := v.asked.filter (fun x => x.1 ≠ m.txid),
                                        posts := ps.filter fun p => !p.need.isEmpty } }
      (ps.filter fun p => p.need.isEmpty).foldl endPost s))

/-- A snoop of the CT-1 is answered with the host's state after (R394); those who waited for it go on. -/
def endSnoop (s : State) (m : HostRsp) (line : Nat) : State :=
  let s := setSnoop { s with vkx := { s.vkx with snooped := s.vkx.snooped.filter fun x => x.1 ≠ m.txid } } line m.state
  pumpFab (retryHeld s)

/-- `SNP_ACK` (R394). -/
def execSnpAck (m : HostRsp) (s : State) : Res :=
  done s (overLink s (match s.vkx.snooped.find? fun x => x.1 = m.txid with
    | none => s
    | some x => endSnoop s m x.2.1))

/-- `SNP_DATA` (R394, R395): the modified line is written at its home, with poison as the mark. -/
def execSnpData (m : HostRsp) (d : BitVec 512) (s : State) : Res :=
  done s (overLink s (match s.vkx.snooped.find? fun x => x.1 = m.txid with
    | none => s
    | some x => endSnoop (if m.poison then loseLine s x.2.1 else touch hostClass true (devWrite s (64 * x.2.1) (natLe 64 d.toNat)).1 (64 * x.2.1) 64) m x.2.1))

end Sys2Proof.Machine
end

