-- ==== Sys2Proof/Machine/Cmd.lean ====
section
/-! DEFINITION. The checks of a command, its execution, its replies and its fan-out to a group's members (R25-R29, R346,
R347, R401-R409, R411). -/

namespace Sys2Proof.Machine

/-! ### Packets and unit paths (R401, R406) -/

/-- A unit path's node. -/
def pathNode (w : Word) : Nat := bitsN w.toNat 48 16
/-- Its local bit. -/
def pathLocal (w : Word) : Bool := w.getLsbD 47
/-- Its level code. -/
def pathLevel (w : Word) : Nat := bitsN w.toNat 40 4
/-- Its index. -/
def pathIndex (w : Word) : Nat := bitsN w.toNat 0 40

/-- The level codes of R406. -/
def lDie : Nat := 0
/-- Cluster. -/
def lCluster : Nat := 1
/-- Tile. -/
def lTile : Nat := 2
/-- Array. -/
def lArray : Nat := 3
/-- Axis engine. -/
def lAxis : Nat := 8
/-- Hamper. -/
def lHamper : Nat := 9
/-- Slice. -/
def lSlice : Nat := 0xC
/-- User group. -/
def lGroup : Nat := 0xD

/-- A number in a payload. -/
def pn (p : Packet) (at_ n : Nat) : Nat := leNat (sub p.payload at_ n)

/-- The detail of a refusal (R407): byte offset and cause. -/
def refusal (offset cause : Nat) : Word := BitVec.ofNat 64 (offset * 2 ^ 48 + cause * 2 ^ 40)

/-- `BAD_PARAM` cause 3 at a payload byte (R407). -/
def badAt (offset : Nat) : Option (Nat × Word) := some (4, refusal (32 + offset) 3)

/-- `WRONG_STATE` with the state code (R407). -/
def wrongState (s : State) : Nat × Word := (5, BitVec.ofNat 64 (stateCode s.firm.state))

/-- A target: level and index (R406). -/
structure Tgt where
  level : Nat
  index : Nat
  deriving DecidableEq, Repr

/-- The target that a path names. -/
def tgtOf (w : Word) : Tgt := ⟨pathLevel w, pathIndex w⟩

/-- The kinds of R412: final status, accepted, or accepted with an epoch. -/
inductive CmdKind where
  | S | A | E
  deriving DecidableEq, Repr

/-- A command of R412: opcode, levels, legal state codes, kind, whether it only reads (R409), the payload lengths that fit,
its own checks 8 to 11 of R407 at a target, what it does there, and the fused-off units that its payload names (R5; log 77). An
answer with status 1 is still in progress. -/
structure CmdDef where
  op     : BitVec 16
  levels : List Nat
  states : List Nat
  kind   : CmdKind
  reads  : Bool
  len    : List Byte → Bool
  check  : State → Packet → Tgt → Option (Nat × Word)
  act    : State → Packet → Tgt → State × Answer
  absents : State → Packet → List (UnitKind × Nat) := fun _ _ => []

/-- The states of R411 from `LINKUP` on. -/
def anyOf : List Nat := [2, 3, 4, 5, 6, 7, 8, 9, 10]

/-- The command of a packet as it is held. -/
def pendOf (c : CmdDef) (p : Packet) : PendCmd := { opcode := c.op, p := p }

/-! ### Check 5 and 6 of R407 -/

/-- Can an index be one on some grade (R406)? -/
def indexPossible (t : Tgt) : Bool :=
  if t.level = lCluster then decide (t.index < 16)
  else if t.level = lTile then decide (t.index < 64)
  else if t.level = lArray then decide (t.index < 256)
  else if t.level = lAxis then decide (t.index < 4)
  else if t.level = lSlice then decide (1 ≤ t.index ∧ t.index < 64)
  else if t.level = lGroup then decide (t.index < 64)
  else decide (t.index = 0)

/-- Is the module the anchor of a declared slice (R406)? -/
def anchors (s : State) (n : Nat) : Bool :=
  match sliceNo s n with | some d => anchorOf s d = s.fab.node.toNat | none => false

/-- The modules of the machine, once it is placed (R307). -/
def machineSize (s : State) : Nat :=
  (max 1 (extOn s.fab.extent 0)) * (max 1 (extOn s.fab.extent 1)) * (max 1 (extOn s.fab.extent 2)) * max 1 (extOn s.fab.extent 3)

/-- Check 5 (R407): flags, reserved bits, level, index, node; then the place where the packet is to act. -/
def addressFault (s : State) (c : CmdDef) (p : Packet) : Option Word :=
  let t := tgtOf p.path
  if p.flags.toNat / 4 ≠ 0 then some (refusal 26 2)
  else if bitsN p.path.toNat 44 3 ≠ 0 ∨ (pathLocal p.path ∧ pathNode p.path ≠ 0xFFFF) then some (refusal 0 2)
  else if !(c.levels.contains t.level) then some (refusal 0 6)
  else if !indexPossible t then some (refusal 0 6)
  else if !pathLocal p.path && (!s.fab.placed || decide (machineSize s ≤ pathNode p.path)) then some (refusal 0 8)
  else if t.level = lSlice && (pathLocal p.path || pathNode p.path = s.fab.node.toNat) && !anchors s t.index then some (refusal 0 7)
  else if t.level = lGroup && (pathLocal p.path || pathNode p.path = s.fab.node.toNat) && (rd [] s.firm.groups t.index).isEmpty then
    some (refusal 0 6)
  else none

/-- Does a packet name another module (R408)? -/
def elsewhere (s : State) (p : Packet) : Bool := !pathLocal p.path && pathNode p.path ≠ s.fab.node.toNat

/-- The fused-off unit that a target names, if any (R5). -/
def absentUnit (s : State) (t : Tgt) : Option (UnitKind × Nat) :=
  let k : Option UnitKind :=
    if t.level = lCluster then some .cluster else if t.level = lTile then some .tile
    else if t.level = lArray then some .array else if t.level = lAxis then some .axis else none
  match k with
  | some k => if unitOn s k t.index then none else some (k, t.index)
  | none => none

/-! ### Check 7 and 8 -/

/-- Is a target a group (R25)? -/
def isGroup (t : Tgt) : Bool := t.level = lCluster || t.level = lSlice || t.level = lGroup

/-- Check 7 (R20, R28, R407). -/
def timeFault (s : State) (c : CmdDef) (p : Packet) : Option Word :=
  if p.fireAt = 0 then none
  else if c.kind ≠ .E then some (refusal 8 3)
  else if p.fireAt.toNat ≤ (fec s).toNat then some (refusal 8 4)
  else if isGroup (tgtOf p.path) && decide (p.fireAt.toNat < (fec s).toNat + 1000 * slathVal s 2) then some (refusal 8 5)
  else none

/-- Check 8 (R411). -/
def stateFault (s : State) (c : CmdDef) : Bool := !(c.states.contains (stateCode s.firm.state))

/-! ### Check 11: what is held (R409) -/

/-- What an asynchronous command holds until it completes: 1 the program, 2 the LLM's modes and marches, 3 the far tier's
links, 4 the strand tables, 5 the SPI NOR flash, 6 the Hamper's copy out, 7 the mirror, 8 the memory copy. -/
def holds (op : Nat) : List Nat :=
  match op with
  | 0x0103 => [1] | 0x0200 => [1, 2] | 0x0201 => [1] | 0x0202 => [1] | 0x0203 => [1] | 0x0204 => [1] | 0x0206 => [1]
  | 0x0207 => [1] | 0x0303 => [1, 2] | 0x0304 => [3] | 0x0400 => [4] | 0x0403 => [4] | 0x0404 => [4] | 0x0407 => [4]
  | 0x0110 => [5] | 0x0111 => [5] | 0x0A02 => [5] | 0x0702 => [1] | 0x0703 => [6] | 0x0704 => [7] | 0x0801 => [1]
  | 0x0901 => [1, 2] | _ => []

/-- Commands that no hold stops (R409). -/
def neverHeld (op : Nat) : Bool := [0x0102, 0x0202, 0x0405, 0x0406, 0x0601, 0x0701].contains op

/-- The device ranges that a memory command changes, and those that a copy under way holds (R409). -/
def memRange (op : BitVec 16) (p : Packet) : List (Nat × Nat) :=
  if op = 0x0301 then [(pn p 0 8, p.payload.length - 8)]
  else if op = 0x0302 then [(pn p 8 8, pn p 16 8)]
  else []

/-- Does a memory range meet one that a pending copy reads or writes? -/
def copyHolds (s : State) (op : BitVec 16) (p : Packet) : Bool :=
  s.firm.accepted.any fun a => a.opcode == 0x0302 && (memRange op p).any fun r =>
    [(pn a.p 0 8, pn a.p 16 8), (pn a.p 8 8, pn a.p 16 8)].any fun h => r.1 < h.1 + h.2 && h.1 < r.1 + r.2

/-- Is what a command would change held by a pending one (R409)? -/
def isHeld (s : State) (c : CmdDef) (p : Packet) : Bool :=
  !c.reads && !neverHeld c.op.toNat &&
    (copyHolds s c.op p || s.firm.accepted.any fun a => (holds a.opcode.toNat).any fun k => (holds c.op.toNat).contains k)

/-- Check 11 (R347, R407, R409). -/
def resourceFault (s : State) (c : CmdDef) (p : Packet) : Bool :=
  (c.kind ≠ .S && decide (4096 ≤ s.firm.accepted.length)) || (p.fireAt ≠ 0 && decide (64 ≤ s.time.epochQ.length)) || isHeld s c p

/-- Checks 8 to 11 at one target (R407). -/
def checkAt (s : State) (c : CmdDef) (p : Packet) (t : Tgt) : Option (Nat × Word) :=
  if stateFault s c then some (wrongState s)
  else match c.check s p t with
    | some f => some f
    | none =>
      if !(c.absents s p).isEmpty then some (6, 0)
      else if resourceFault s c p then some (7, 0) else none

/-- A check that found a fused-off unit counts an access to every such unit that the command names (R5, R6). -/
def tallyAims (s : State) (c : CmdDef) (p : Packet) (t : Tgt) (f : Option (Nat × Word)) : State :=
  match f with
  | some (6, _) =>
    (match absentUnit s t with
      | some u => countAbsent s u.1 u.2
      | none => (c.absents s p).foldl (fun s u => countAbsent s u.1 u.2) s)
  | _ => s

/-! ### Replies -/

/-- A final reply, with the command's record (R21, R402). -/
def finalReply (s : State) (c : PendCmd) (status : Nat) (detail : Word) (result : List Word) (data : List Byte) (members : Nat) :
    State :=
  sendReply (cmdRecord s c status detail) c status detail result data members

/-- A command's own completion, once it has been accepted (R403). -/
def settle (s : State) (c : PendCmd) (a : Answer) : State :=
  if a.status = 1 then s else completeCmd s c a.status.toNat a.detail a.result

/-- A command joins the accepted ones (R404). -/
def accepted (s : State) (c : PendCmd) : State := { s with firm := { s.firm with accepted := s.firm.accepted ++ [c] } }

/-- A snapshot that is to come takes a free buffer, if there is one (R349, R353). -/
def awaitSnap (s : State) (c : PendCmd) : State :=
  match (List.range 4).find? fun i => rd {} s.time.snaps i == ({} : Snapshot) with
  | some i =>
    let x : Snapshot := { id := BitVec.ofNat 16 (leNat (c.p.payload.take 2)), epoch := c.p.fireAt, waits := true }
    { s with time := { s.time with snaps := wr {} s.time.snaps i x } }
  | none => s

/-- An entry of the epoch queue (R347). -/
def addEpoch (s : State) (c : PendCmd) : State :=
  let s := if c.opcode = 0x0602 then awaitSnap s c else s
  { s with time := { s.time with epochQ := s.time.epochQ ++ [{ epoch := c.p.fireAt, opcode := c.opcode, p := c.p }] } }

/-- A command is taken and not yet replied (R404). -/
def taking (s : State) (c : PendCmd) : State := { s with firm := { s.firm with taken := s.firm.taken ++ [c] } }
/-- It is about to be replied. -/
def untake (s : State) (c : PendCmd) : State := { s with firm := { s.firm with taken := s.firm.taken.erase c } }

/-- A command that passed its checks, at a target that is no group (R346, R404): while it acts it is being executed. -/
def runOne (s : State) (c : CmdDef) (p : Packet) (t : Tgt) : State :=
  let k := pendOf c p
  match c.kind with
  | .S => let r := c.act (taking s k) p t; finalReply (untake r.1 k) k r.2.status.toNat r.2.detail r.2.result r.2.data 0
  | _ =>
    let s := sendReply (accepted s k) k 1 0 [] [] 0
    if p.fireAt ≠ 0 then addEpoch s k else let r := c.act s p t; settle r.1 k r.2

/-! ### Groups (R25-R28) -/

/-- The tiles of a tile or a cluster (R2, R406). -/
def tilesIn (t : Tgt) : List Nat :=
  if t.level = lTile then [t.index] else if t.level = lCluster then (List.range 4).map fun i => 4 * t.index + i else []

/-- A path of this module in its node form. -/
def homePath (s : State) (w : Word) : Word :=
  if pathLocal w then BitVec.ofNat 64 (s.fab.node.toNat * 2 ^ 48 + bitsN w.toNat 0 44) else w

/-- The modules of a slice, ascending (R26). -/
def sliceMembers (s : State) (n : Nat) : List Word :=
  match sliceNo s n with | some d => (sliceNodes s d).map fun n => BitVec.ofNat 64 (n * 2 ^ 48) | none => []

/-- The one member of a user group that is a slice: no other member can stand beside it, as it contains them (R29). -/
def sliceUnit (s : State) (p : Packet) : Option Word :=
  if pathLevel p.path ≠ lGroup then none
  else match rd [] s.firm.groups (pathIndex p.path) with
    | [w] => if pathLevel w = lSlice then some (homePath s w) else none
    | _ => none

/-- The modules or units at which a group command is checked and executed, with their paths and targets, in the order of their
ordinals (R26). A user group of a slice has that slice as its one member, ordinal 0 (R29): its modules are those of the slice, and
the slice's merged answer is the member's (log 38). -/
def membersOf (s : State) (t : Tgt) : List (Word × Tgt) :=
  if t.level = lCluster then (tilesIn t).map fun i => (unitPath s lTile i, ⟨lTile, i⟩)
  else if t.level = lSlice then (sliceMembers s t.index).map fun w => (w, ⟨lSlice, t.index⟩)
  else (rd [] s.firm.groups t.index).flatMap fun w =>
    if pathLevel w = lSlice then (sliceMembers s (pathIndex w)).map fun w => (w, ⟨lDie, 0⟩) else [(homePath s w, tgtOf w)]

/-- Is a member of a group on this module? -/
def memberHere (s : State) (w : Word) : Bool := pathHere s w

/-- A packet's bytes (R401). -/
def packetBytes (op : BitVec 16) (p : Packet) : List Byte :=
  let h := natLe 8 p.path.toNat ++ natLe 8 p.fireAt.toNat ++ natLe 4 p.tag.toNat ++ natLe 4 p.payload.length ++ natLe 2 op.toNat
    ++ natLe 2 p.flags.toNat
  h ++ natLe 4 (crc32c (h ++ p.payload)) ++ p.payload

/-- A packet goes to another module in a `COMMAND` message: kind 0 to be checked and run, kind 1 for a member to be executed,
kind 2 for a member to be checked (R27, R408). The kind stands in flags [15:14], which are zero (log 17). -/
def sendCommand (s : State) (node : Nat) (kind : Nat) (op : BitVec 16) (p : Packet) : State :=
  sendQ s (BitVec.ofNat 16 node) 0x01 0 p.tag (packetBytes op { p with flags := p.flags ||| BitVec.ofNat 16 (kind * 2 ^ 14) })

/-- The packet that a member of a group gets: a slice's members the whole command, those of a user group their own (R29). -/
def memberPacket (p : Packet) (w : Word) : Packet := if pathLevel p.path = lSlice then p else { p with path := w }

/-- The answer of a check. -/
def checkAnswer (f : Option (Nat × Word)) : Answer :=
  match f with | some x => { status := BitVec.ofNat 8 x.1, detail := x.2 } | none => { status := 0, detail := 0 }

/-- A member's check: its level and unit (R29, R407), its state and its parameters (R27). -/
def memberCheck (s : State) (c : CmdDef) (p : Packet) (t : Tgt) : Option (Nat × Word) :=
  if !(c.levels.contains t.level) then some (4, refusal 0 6)
  else if (absentUnit s t).isSome then some (6, 0)
  else checkAt s c p t

/-- The packet with which this module's own part of an asynchronous group command runs: its completion joins the others'. -/
def ownPart (s : State) (p : Packet) : Packet := { p with route := .fabric s.fab.node }

/-- A member on this module executes: the state and its answer (R27). An accepted one completes by its own rule. -/
def actMember (s : State) (c : CmdDef) (p : Packet) (t : Tgt) : State × Answer :=
  match c.kind with
  | .S => c.act s p t
  | _ =>
    let q := ownPart s p
    let r := c.act (accepted s (pendOf c q)) q t
    if r.2.status = 1 then r
    else
      let k := pendOf c q
      ({ r.1 with firm := { r.1.firm with accepted := r.1.firm.accepted.filter fun x => !(x == k) } }, r.2)

/-- The local members of a group execute, one after the other; each answer joins the gather of the command (R27). -/
def actLocal (s : State) (c : CmdDef) (p : Packet) : List (Nat × Word × Option Answer) → State
  | [] => s
  | m :: ms =>
    let s :=
      if memberHere s m.2.1 then
        let r := actMember s c p (if pathLevel p.path = lSlice then tgtOf p.path else tgtOf m.2.1)
        match r.1.firm.gathers.find? fun g => g.p.tag == p.tag && g.opcode == c.op && g.p.route == p.route with
        | some g => if r.2.status = 1 then r.1 else gatherAnswer r.1 g m.1 r.2
        | none => r.1
      else s
    actLocal s c p ms

/-- The remote members get the execute message (R28, R408). -/
def sendExecute (s : State) (c : CmdDef) (p : Packet) (ms : List (Nat × Word × Option Answer)) : State :=
  ms.foldl (fun s m => if memberHere s m.2.1 then s else sendCommand s (pathNode m.2.1) 1 c.op (memberPacket p m.2.1)) s

/-- Does a command complete at the anchor alone, so that its members give no answer (R372, R375)? -/
def anchorOnly (c : CmdDef) : Bool := c.op == 0x0700

/-- All members have passed: the command executes at them (R27, R28). -/
def runGroup (s : State) (c : CmdDef) (p : Packet) (ms : List (Nat × Word × Option Answer)) : State :=
  let k := pendOf c p
  let blank := ms.map fun m => (m.1, m.2.1, none)
  let g : Gather :=
    { opcode := c.op, p := p, forward := false, exec := true, replied := c.kind ≠ .S, answers := blank, unit := sliceUnit s p }
  let s := { s with firm := { s.firm with taken := s.firm.taken.filter fun x => !(x == k) } }
  if c.kind = .S then
    let s := { s with firm := { s.firm with taken := s.firm.taken ++ [k], gathers := s.firm.gathers ++ [g] } }
    actLocal (sendExecute s c p ms) c p ms
  else
    let s := sendReply (accepted s k) k 1 0 [] [] 0
    let s := if anchorOnly c then s else { s with firm := { s.firm with gathers := s.firm.gathers ++ [g] } }
    let s := sendExecute s c p ms
    -- a check that took past the epoch leaves this module's members without their moment (R20, R28, R346)
    if p.fireAt ≠ 0 then
      (if (fec s).toNat < p.fireAt.toNat then addEpoch s k
       else endEntry s { epoch := p.fireAt, opcode := c.op, p := p } 9 1)
    else if anchorOnly c then (c.act s p (tgtOf p.path)).1
    else actLocal s c p ms

/-- The member records of a validation: one of each member, or the one of a slice that is the member (R26, R27). -/
def checkRecords (s : State) (c : CmdDef) (p : Packet) (ms : List (Nat × Word × Option Answer)) (worst : Option Answer) :
    List RingEntry :=
  match sliceUnit s p with
  | some w => [memberEntry s c.op p.tag 0 w (worst.getD { status := 0, detail := 0 })]
  | none => ms.filterMap fun m => m.2.2.map (memberEntry s c.op p.tag m.1 m.2.1)

/-- All members have answered the check: a failure of the lowest ordinal decides (R27). -/
def endCheck (s : State) (c : CmdDef) (p : Packet) (ms : List (Nat × Word × Option Answer)) : State :=
  let k := pendOf c p
  let done_ := fun (s : State) => { s with firm := { s.firm with taken := s.firm.taken.filter fun x => !(x == k) } }
  match ms.find? fun m => m.2.2.any fun (a : Answer) => a.status ≠ 0 with
  | some m =>
    let st := match m.2.2 with | some a => a.status.toNat | none => 9
    let ordinal := if (sliceUnit s p).isSome then 0 else m.1
    let es := checkRecords s c p ms (some { status := BitVec.ofNat 8 st, detail := BitVec.ofNat 64 m.1 })
    let a : Answer := { status := BitVec.ofNat 8 st, detail := BitVec.ofNat 64 ordinal }
    replyWith (cmdRecord (done_ s) k st a.detail) k a 0 es
  | none =>
    if p.flags.getLsbD 0 then
      (if wantsMembers p then
        replyWith (cmdRecord (done_ s) k 0 0) k { status := 0, detail := 0 } 0 (checkRecords s c p ms none)
       else finalReply (done_ s) k 0 0 [] [] 0)
    else runGroup s c p ms

/-- A group command is checked at every member (R27): at once here, and by `COMMAND` messages elsewhere. -/
def startGroup (s : State) (c : CmdDef) (p : Packet) : State :=
  let all := membersOf s (tgtOf p.path)
  let ms := (List.range all.length).map fun i =>
    let m := nth (0, ⟨0, 0⟩) all i
    (i, m.1, if memberHere s m.1 then some (checkAnswer (memberCheck s c p m.2)) else none)
  let s := (all.filter fun m => memberHere s m.1).foldl (fun s m => tallyAims s c p m.2 (memberCheck s c p m.2)) s
  if ms.all fun m => m.2.2.isSome then endCheck s c p ms
  else
    let g : Gather :=
      { opcode := c.op, p := p, forward := false, exec := false, replied := false, answers := ms, unit := sliceUnit s p }
    let s := { s with firm := { s.firm with taken := s.firm.taken ++ [pendOf c p], gathers := s.firm.gathers ++ [g] } }
    ms.foldl (fun s m => if m.2.2.isSome then s else sendCommand s (pathNode m.2.1) 2 c.op (memberPacket p m.2.1)) s

/-! ### A packet (R407, R408) -/

/-- A packet for another module is forwarded (R408). -/
def forward (s : State) (c : CmdDef) (p : Packet) : State :=
  let g : Gather :=
    { opcode := c.op, p := p, forward := true, exec := false, replied := false,
      answers := [(0, BitVec.ofNat 64 (pathNode p.path * 2 ^ 48), none)] }
  let s := { s with firm := { s.firm with taken := s.firm.taken ++ [pendOf c p], gathers := s.firm.gathers ++ [g] } }
  sendCommand s (pathNode p.path) 0 c.op p

/-- Commands that act at the anchor and need no other member: the quench itself reaches the slice (R302, R438). -/
def anchorActs (c : CmdDef) : Bool := c.op == 0x0405 || c.op == 0x0406

/-- A packet whose CRC and opcode are good (R407): check 1, check 4 to check 11, and then its effect. -/
def command (c : CmdDef) (p : Packet) (s : State) : State :=
  let k := pendOf c p
  let t := tgtOf p.path
  let refuse := fun (s : State) (st : Nat) (d : Word) => finalReply s k st d [] [] 0
  if 4064 < p.payload.length || !c.len p.payload then refuse s 3 (refusal 20 3)
  else match addressFault s c p with
  | some d => refuse s 4 d
  | none =>
  if elsewhere s p then forward s c p
  else match absentUnit s t with
  | some u => refuse (countAbsent s u.1 u.2) 6 0
  | none =>
  match timeFault s c p with
  | some d => refuse s 4 d
  | none =>
  if isGroup t && !anchorActs c then startGroup s c p
  else match checkAt s c p t with
  | some f => refuse (tallyAims s c p t (some f)) f.1 f.2
  | none => if p.flags.getLsbD 0 then finalReply s k 0 0 [] [] 0 else runOne s c p t

/-- The device ranges that a packet reads or writes in its own step: those of `MEM_READ` and `MEM_WRITE` (R394, R412). -/
def cmdRanges (s : State) (c : CmdDef) (p : Packet) : List (Nat × Nat) × List (Nat × Nat) :=
  if elsewhere s p || p.flags.getLsbD 0 then ([], [])
  else if c.op = 0x0300 then ([(pn p 0 8, pn p 8 4)], [])
  else if c.op = 0x0301 then ([], memRange c.op p)
  else ([], [])

/-- The firmware takes a packet whose CRC and opcode are good (R407, R423): its device accesses wait for the snoops that they
need, and a drain that waited for nothing else ends. -/
def takePacket (c : CmdDef) (p : Packet) (s : State) : State :=
  let r := cmdRanges s c p
  snoopGate r.1 r.2 s (finishDrain (command c p s))

/-- What every command of R412 answers once the firmware runs (R423). -/
def runCommand (c : CmdDef) (p : Packet) (s : State) : Res :=
  done s (if s.firm.state != .boot && !s.firm.held then takePacket c p s else s)

end Sys2Proof.Machine
end

