-- ==== Sys2Proof/Machine/CmdDie.lean ====
section
/-! DEFINITION. Device, ledger, group, configuration, firmware and attestation commands (R6, R29, R412, R416, R418, R420-R422,
R430-R434). -/

namespace Sys2Proof.Machine

/-! ### Answers -/

/-- `OK` with results. -/
def okR (result : List Word) : Answer := { status := 0, detail := 0, result := result }
/-- `OK`. -/
def ok0 : Answer := okR []
/-- Still in progress: the completion follows. -/
def later : Answer := { status := 1, detail := 0 }
/-- A status with its detail. -/
def stat (status : Nat) (detail : Word) : Answer := { status := BitVec.ofNat 8 status, detail := detail }
/-- A payload of a fixed length. -/
def lenIs (n : Nat) (bs : List Byte) : Bool := bs.length == n
/-- A command without checks of its own. -/
def noCheck (_s : State) (_p : Packet) (_t : Tgt) : Option (Nat × Word) := none

/-- What a read command returns (R416): whole records from an index on, as many as fit in 4,064 bytes. -/
def page (rs : List (List Byte)) (size first : Nat) : Answer :=
  let got := (rs.drop first).take (4064 / size)
  let next := first + got.length
  { status := 0, detail := 0,
    result := [BitVec.ofNat 64 rs.length, if next < rs.length then BitVec.ofNat 64 next else 0xFFFFFFFF],
    data := got.flatten }

/-- The shape of most commands of the die: no checks of their own. -/
def simple (op : BitVec 16) (levels states : List Nat) (kind : CmdKind) (reads : Bool) (n : Nat)
    (act : State → Packet → Tgt → State × Answer) : CmdDef :=
  { op := op, levels := levels, states := states, kind := kind, reads := reads, len := lenIs n, check := noCheck, act := act }

/-! ### Device -/

/-- The result of `DEV_INFO`: word 2 holds the firmware version in [31:0] and the Slath version in [63:32], the read data
the Saffron version (R412; log 27). -/
def devInfoAct (s : State) (_p : Packet) (_t : Tgt) : State × Answer :=
  (s, { status := 0, detail := 0,
        result := [gradeWord s, s.serial, BitVec.ofNat 64 (s.firm.fwVersion.toNat + 2 ^ 32 * s.firm.slathVersion.toNat)],
        data := natLe 4 Config.saffronVersion.toNat })
/-- `DEV_INFO`. -/
def cmdDevInfo : CmdDef := simple 0x0100 [lDie] anyOf .S true 0 devInfoAct
/-- `DEV_INFO` (R412). -/
def execDevInfo (p : Packet) (s : State) : Res := runCommand cmdDevInfo p s

/-- The result of `DEV_STATUS`. -/
def devStatusAct (s : State) (_p : Packet) (_t : Tgt) : State × Answer := (s, okR [dieStatus s])
/-- `DEV_STATUS`. -/
def cmdDevStatus : CmdDef := simple 0x0101 [lDie, lSlice] anyOf .S true 0 devStatusAct
/-- `DEV_STATUS` (R412). -/
def execDevStatus (p : Packet) (s : State) : Res := runCommand cmdDevStatus p s

/-- `DEV_RESET` begins (R428, R430): its tag waits for the state that it leads to; an earlier reset that is still pending
gives way. -/
def devResetAct (s : State) (p : Packet) (_t : Tgt) : State × Answer :=
  let s := match s.firm.resetTag with | some c => completeCmd s c 9 5 [] | none => s
  (beginReset { s with firm := { s.firm with resetTag := some { opcode := 0x0102, p := p } } } (pn p 0 1), later)
/-- The modes of `DEV_RESET`. -/
def devResetCheck (_s : State) (p : Packet) (_t : Tgt) : Option (Nat × Word) := if 2 < pn p 0 1 then badAt 0 else none
/-- `DEV_RESET`. -/
def cmdDevReset : CmdDef := { simple 0x0102 [lDie] anyOf .A false 1 devResetAct with check := devResetCheck }
/-- `DEV_RESET` (R428, R430). -/
def execDevReset (p : Packet) (s : State) : Res := runCommand cmdDevReset p s

/-- `FAULT_CLEAR` (R412, R419). -/
def faultClearAct (s : State) (_p : Packet) (_t : Tgt) : State × Answer :=
  (setState { s with firm := { s.firm with ledger := [] } } .loaded, ok0)
/-- While the ledgers drain the fault is not over. -/
def faultClearCheck (s : State) (_p : Packet) (_t : Tgt) : Option (Nat × Word) :=
  if s.firm.draining.isSome then some (7, 0) else none
/-- `FAULT_CLEAR`. -/
def cmdFaultClear : CmdDef := { simple 0x0103 [lDie, lSlice] [9] .A false 0 faultClearAct with check := faultClearCheck }
/-- `FAULT_CLEAR` (R412). -/
def execFaultClear (p : Packet) (s : State) : Res := runCommand cmdFaultClear p s

/-- A record of the ledger report (R418). -/
def recordBytes (r : Record) : List Byte :=
  [r.kind, if r.done then 1 else 2, r.space, r.reason] ++ natLe 4 r.who.toNat ++ natLe 4 r.number.toNat ++ natLe 4 0
    ++ natLe 8 r.detail.toNat ++ natLe 8 r.fec.toNat
/-- `LEDGER_READ`. -/
def cmdLedgerRead : CmdDef :=
  simple 0x0104 [lDie] anyOf .S true 4 fun s p _ => (s, page (s.firm.ledger.map recordBytes) 32 (pn p 0 4))
/-- `LEDGER_READ` (R416, R418). -/
def execLedgerRead (p : Packet) (s : State) : Res := runCommand cmdLedgerRead p s

/-! ### User groups (R29) -/

/-- The unit paths of a payload from byte `a` on. -/
def pathsAt (p : Packet) (a : Nat) : List Word :=
  (List.range ((p.payload.length - a) / 8)).map fun i => BitVec.ofNat 64 (pn p (a + 8 * i) 8)

/-- The members that a definition leaves the group with: a creation replaces a group that is defined already (log 79). -/
def groupAfter (s : State) (p : Packet) : List Word :=
  (if pn p 1 1 = 1 then rd [] s.firm.groups (pn p 0 1) else []) ++ pathsAt p 8

/-- Is a path one that a group may hold: of any level but a group, on this module or in its slice (R29, R406)? -/
def memberOk (s : State) (w : Word) : Bool :=
  let t := tgtOf w
  let node := pathNode (homePath s w)
  [lDie, lCluster, lTile, lArray, lAxis, lHamper, lSlice].contains t.level && indexPossible t && bitsN w.toNat 44 3 = 0 &&
    (if pathLocal w then pathNode w = 0xFFFF else s.fab.placed && decide (node < machineSize s)) &&
    (pathLocal w || node = s.fab.node.toNat || inSlice s.fab.extent (ownSlice s) node) &&
    (t.level ≠ lSlice || (t.index = s.fab.own.toNat && node = anchorOf s (ownSlice s)))

/-- Does one member contain another, or is it the same (R29)? -/
def contains (s : State) (a b : Word) : Bool :=
  let x := tgtOf a
  let y := tgtOf b
  let same := pathNode (homePath s a) = pathNode (homePath s b)
  if x.level = lSlice then true
  else if !same then false
  else if x.level = lDie then y.level ≠ lSlice
  else if x.level = lCluster then x == y || (y.level = lTile && y.index / 4 = x.index) || (y.level = lArray && y.index / 16 = x.index)
  else if x.level = lTile then x == y || (y.level = lArray && y.index / 4 = x.index)
  else x == y

/-- Does a list hold two members of which one contains the other? -/
def overlapping (s : State) : List Word → Bool
  | [] => false
  | w :: ws => ws.any (fun v => contains s w v || contains s v w) || overlapping s ws

/-- The fused-off units that a definition names (R5, R29): those of this module, as a path of another module is stored and meets its
units when it is fanned out (R412). -/
def groupAbsents (s : State) (p : Packet) : List (UnitKind × Nat) :=
  (pathsAt p 8).filterMap fun w => if memberHere s (homePath s w) then absentUnit s (tgtOf w) else none
/-- The rules of R29. An append to a group that is not defined is refused (log 79). -/
def groupDefineCheck (s : State) (p : Packet) (_t : Tgt) : Option (Nat × Word) :=
  let ms := groupAfter s p
  if 63 < pn p 0 1 then badAt 0
  else if 1 < pn p 1 1 || (pn p 1 1 = 1 && (rd [] s.firm.groups (pn p 0 1)).isEmpty) then badAt 1
  else if pn p 2 6 ≠ 0 then badAt 2
  else if 4096 < ms.length || !(pathsAt p 8).all (memberOk s) || overlapping s ms then badAt 8
  else none
/-- A group is created or grows (R29). -/
def groupDefineAct (s : State) (p : Packet) (_t : Tgt) : State × Answer :=
  let ms := groupAfter s p
  ({ s with firm := { s.firm with groups := wr [] s.firm.groups (pn p 0 1) ms } }, okR [BitVec.ofNat 64 ms.length])
/-- `GROUP_DEFINE`: a definition lists at least one member (log 79). -/
def cmdGroupDefine : CmdDef :=
  { op := 0x0108, levels := [lDie], states := [3, 4, 6], kind := .S, reads := false,
    len := fun bs => decide (16 ≤ bs.length) && bs.length % 8 = 0, check := groupDefineCheck, act := groupDefineAct,
    absents := groupAbsents }
/-- `GROUP_DEFINE` (R29). -/
def execGroupDefine (p : Packet) (s : State) : Res := runCommand cmdGroupDefine p s

/-- Is the group of a payload's first byte one that is defined? -/
def groupNamed (s : State) (p : Packet) (_t : Tgt) : Option (Nat × Word) :=
  if 63 < pn p 0 1 || (rd [] s.firm.groups (pn p 0 1)).isEmpty then badAt 0 else none
/-- `GROUP_DELETE`. -/
def cmdGroupDelete : CmdDef :=
  { simple 0x0109 [lDie] [3, 4, 6] .S false 1
      (fun s p _ => ({ s with firm := { s.firm with groups := wr [] s.firm.groups (pn p 0 1) [] } }, ok0)) with check := groupNamed }
/-- `GROUP_DELETE` (R412). -/
def execGroupDelete (p : Packet) (s : State) : Res := runCommand cmdGroupDelete p s

/-- The group number and the reserved bytes of `GROUP_READ`. -/
def groupReadCheck (_s : State) (p : Packet) (_t : Tgt) : Option (Nat × Word) :=
  if 63 < pn p 0 1 then badAt 0 else if pn p 1 3 ≠ 0 then badAt 1 else none
/-- `GROUP_READ`. -/
def cmdGroupRead : CmdDef :=
  { simple 0x010A [lDie] anyOf .S true 8
      (fun s p _ => (s, page ((rd [] s.firm.groups (pn p 0 1)).map fun w => natLe 8 w.toNat) 8 (pn p 4 4))) with check := groupReadCheck }
/-- `GROUP_READ` (R412, R416). -/
def execGroupRead (p : Packet) (s : State) : Res := runCommand cmdGroupRead p s

/-! ### Configuration and firmware (R420-R422, R432, R433) -/

/-- The detail of an uncorrectable or poisoned line of host memory (R138). -/
def hostDetail (line : Nat) : Word := eccDetail 7 line

/-- A slot of a flash pair. -/
def flashAt (s : State) (opcode : BitVec 16) (slot : Nat) : FlashSlot :=
  if opcode = 0x0110 then (if slot = 0 then s.firm.slath0 else s.firm.slath1)
  else if slot = 0 then s.firm.fw0 else s.firm.fw1

/-- The lower-versioned slot of a pair; an empty one has version 0. -/
def lowerSlot (s : State) (opcode : BitVec 16) : Nat :=
  if imageVersion (flashAt s opcode 1).bytes < imageVersion (flashAt s opcode 0).bytes then 1 else 0

/-- The slot that a commit writes (R422): a retired one, else the one that is not live, else the lower version. -/
def slathTarget (s : State) : Nat :=
  if s.firm.slath0.retired then 0 else if s.firm.slath1.retired then 1
  else if s.firm.image = 0 then 1 else if s.firm.image = 1 then 0 else lowerSlot s 0x0110

/-- The slot that an update writes (R433). -/
def fwTarget (s : State) : Nat :=
  if s.firm.factory then lowerSlot s 0x0A02 else if s.firm.fwSlot then 0 else 1

/-- Is a version greater than those held in both slots? -/
def newerThanBoth (s : State) (opcode : BitVec 16) (bs : List Byte) : Bool :=
  decide (imageVersion (flashAt s opcode 0).bytes < imageVersion bs) && decide (imageVersion (flashAt s opcode 1).bytes < imageVersion bs)

/-- Why an image read from the host is refused: the status, 0 for none (R407, R422, R433). -/
def imageFault (s : State) (opcode : BitVec 16) (bs : List Byte) : Nat :=
  if opcode = 0x0110 then
    (if !(slathLayout bs && newerThanBoth s opcode bs) then 4 else if !slathSigned bs then 8 else 0)
  else if !fwLayout bs || decide (8 * 2 ^ 20 < numAt bs 12 4) || sha3 (fwBody bs) ≠ sub bs 16 64 || !newerThanBoth s opcode bs ||
      decide (numAt bs 8 4 < s.trust.toNat % 64) then 4
  else if !(fwKey s bs && fwSigned bs) then 8
  else 0

/-- An image that the host has given whole is checked, and its write begins; the slot's old content goes first (R422, R433). -/
def imageRead (s : State) (c : PendCmd) : State :=
  let a := pn c.p 0 8
  let n := pn c.p 8 4
  if s.firm.writing.isSome || hostPending s a n then s
  else match hostMark s a n with
  | some l => completeCmd s c 9 (hostDetail l) []
  | none =>
    let bs := hostRead s a n
    match imageFault s c.opcode bs with
    | 0 =>
      let k := if c.opcode = 0x0110 then slathTarget s else fwTarget s
      { s with firm := { s.firm with writing := some (c, k, bs) } }
    | st => completeCmd s c st (if st = 4 then refusal 32 3 else 0) []

/-- The image commands whose image may have come are looked at (R422, R433). -/
def imagesRead (s : State) : State :=
  (s.firm.accepted.filter fun c => c.opcode == 0x0110 || c.opcode == 0x0A02).foldl imageRead s

/-- The host range of an image command, at most `size` bytes. -/
def imageCheck (size : Nat) (_s : State) (p : Packet) (_t : Tgt) : Option (Nat × Word) :=
  if 2 ^ 52 < pn p 0 8 + pn p 8 4 then badAt 0 else if size < pn p 8 4 then badAt 8 else none

/-- The image is asked for; without a link it cannot be read (R397). -/
def imageAct (s : State) (p : Packet) (_t : Tgt) : State × Answer :=
  if s.vkx.state = 0 then (s, stat 9 0) else (imagesRead (askHost s (pn p 0 8) (pn p 8 4)), later)

/-- `CONFIG_COMMIT`. -/
def cmdConfigCommit : CmdDef := { simple 0x0110 [lDie] [3, 10] .A false 12 imageAct with check := imageCheck 0x20000 }
/-- `CONFIG_COMMIT` (R422). -/
def execConfigCommit (p : Packet) (s : State) : Res := runCommand cmdConfigCommit p s

/-- `FW_UPDATE`. -/
def cmdFwUpdate : CmdDef := { simple 0x0A02 [lDie] [3, 10] .A false 12 imageAct with check := imageCheck (8192 + 8 * 2 ^ 20) }
/-- `FW_UPDATE` (R433). -/
def execFwUpdate (p : Packet) (s : State) : Res := runCommand cmdFwUpdate p s

/-- `SPI_NOR_WRITE_COMPLETE` (R422, R433): the slot holds the image, header last, and the command completes. -/
def execSpiNorWriteComplete (s : State) : Res :=
  done s (match s.firm.writing with
    | none => s
    | some w =>
      let s := putFlash { s with firm := { s.firm with writing := none } } w.1.opcode w.2.1 { bytes := w.2.2 }
      let v := BitVec.ofNat 64 (imageVersion w.2.2)
      let k := BitVec.ofNat 64 w.2.1
      finishDrain (completeCmd s w.1 0 0 (if w.1.opcode = 0x0110 then [v, k] else [k, v])))

/-- The version that the next reset selects (R422). -/
def nextVersion (s : State) : Nat := match slathPick s with | some x => imageVersion x.2 | none => Config.saffronVersion.toNat
/-- `CONFIG_ROLLBACK` (R422): the live slot is retired. -/
def configRollbackAct (s : State) (_p : Packet) (_t : Tgt) : State × Answer :=
  let k := s.firm.image.toNat
  let s := putFlash s 0x0110 k { flashAt s 0x0110 k with retired := true }
  (s, okR [BitVec.ofNat 64 (nextVersion s)])
/-- With Saffron live there is nothing to retire (R422). -/
def configRollbackCheck (s : State) (_p : Packet) (_t : Tgt) : Option (Nat × Word) :=
  if 2 ≤ s.firm.image.toNat then some (4, refusal 24 3) else none
/-- `CONFIG_ROLLBACK`. -/
def cmdConfigRollback : CmdDef := { simple 0x0111 [lDie] [3, 10] .S false 0 configRollbackAct with check := configRollbackCheck }
/-- `CONFIG_ROLLBACK` (R422). -/
def execConfigRollback (p : Packet) (s : State) : Res := runCommand cmdConfigRollback p s

/-- The live values of the Slath fields as 8 B records (R412, R420, R421). -/
def configRecords (s : State) : List (List Byte) := (List.range 20).map fun i => natLe 8 ((i + 1) * 2 ^ 48 + slathVal s (i + 1))
/-- `CONFIG_READ`. -/
def cmdConfigRead : CmdDef := simple 0x0112 [lDie] anyOf .S true 0 fun s _ _ => (s, page (configRecords s) 8 0)
/-- `CONFIG_READ` (R412). -/
def execConfigRead (p : Packet) (s : State) : Res := runCommand cmdConfigRead p s

/-! ### Attestation and identity (R431, R434) -/

/-- The digest of the fuse block (R434; log 28). -/
def fuseDigest (s : State) : List Byte := sha3 ([s.grade.setWidth 8, s.trust] ++ Config.ownerKeyDigest)

/-- The first 384 bytes of an attestation report (R434). -/
def reportHead (s : State) (nonce : List Byte) : List Byte :=
  natLe 4 0x54544B43 ++ natLe 2 1 ++ natLe 2 0 ++ natLe 8 s.serial.toNat
    ++ [s.grade.setWidth 8, s.firm.image.setWidth 8, if s.firm.factory then 2 else if s.firm.fwSlot then 1 else 0,
        BitVec.ofNat 8 (stateCode s.firm.state)]
    ++ natLe 4 s.firm.fwVersion.toNat ++ natLe 4 s.firm.fwSec.toNat ++ natLe 4 s.firm.slathVersion.toNat
    ++ natLe 8 (fec s).toNat ++ nonce ++ natLe 64 s.firm.measure.toNat ++ natLe 64 s.firm.slathDigest.toNat
    ++ natLe 64 (match s.prog with | some g => g.digest.toNat | none => 0) ++ fuseDigest s
    ++ natLe 2 (if s.fab.placed then s.fab.node.toNat else 0) ++ [s.fab.own.setWidth 8, BitVec.ofNat 8 (bn s.fab.placed)]
    ++ List.replicate 20 0
/-- The whole report, signed with the device identity key. -/
def report (s : State) (nonce : List Byte) : List Byte :=
  let h := reportHead s nonce
  h ++ Config.identitySign (sha3 h)

/-- `ATTEST` (R434): the report goes to host memory, if the link is there (R397). -/
def attestAct (s : State) (p : Packet) (_t : Tgt) : State × Answer :=
  if s.vkx.state = 0 then (s, stat 9 0)
  else (hostWrite s (pn p 64 8) (report s (p.payload.take 64)), okR [5011])
/-- A range too short for the report. -/
def attestCheck (_s : State) (p : Packet) (_t : Tgt) : Option (Nat × Word) :=
  if 2 ^ 52 < pn p 64 8 + 5011 then badAt 64 else if pn p 72 4 < 5011 then badAt 72 else none
/-- `ATTEST`. -/
def cmdAttest : CmdDef := { simple 0x0A00 [lDie] anyOf .A false 76 attestAct with check := attestCheck }
/-- `ATTEST` (R434). -/
def execAttest (p : Packet) (s : State) : Res := runCommand cmdAttest p s

/-- `IDENTITY_READ`. -/
def cmdIdentityRead : CmdDef :=
  simple 0x0A01 [lDie] anyOf .S true 0 fun s _ _ => (s, { status := 0, detail := 0, data := Config.identityKey })
/-- `IDENTITY_READ` (R431). -/
def execIdentityRead (p : Packet) (s : State) : Res := runCommand cmdIdentityRead p s

/-! ### Absent accesses (R6) -/

/-- A record of an absent-access tally: kind, index and tally word (R6, R412; log 27). -/
def absentRecord (e : Nat × Tally) : List Byte :=
  natLe 4 (e.1 / 2 ^ 28) ++ natLe 4 (e.1 % 2 ^ 28) ++ natLe 8 (tallyWord e.2).toNat
/-- `ABSENT_READ`. -/
def cmdAbsentRead : CmdDef := simple 0x0900 [lDie] anyOf .S true 0 fun s _ _ => (s, page (s.firm.absent.map absentRecord) 16 0)
/-- `ABSENT_READ` (R6). -/
def execAbsentRead (p : Packet) (s : State) : Res := runCommand cmdAbsentRead p s

end Sys2Proof.Machine
end

