-- ==== Sys2Proof/Machine/Sequencer.lean ====
section
/-! DEFINITION. The sequencer and scalar instructions (R125, R126, R134, R135, R144, R128). -/

namespace Sys2Proof.Machine

/-- `NOP` (R134). -/
def execNop (i : Issue) (w : BitVec 246) (s : State) : Res :=
  done s (issueN s i 0x000 w (fun _ => reservedChecks w []) id)

/-- Has every stream of every tile of the program reached its end (R410)? -/
def allEnded (s : State) : Bool :=
  (List.range (progP s)).all fun p => allStreams.all fun st => (ctxS (ctxOf s p) st).run == .ended

/-- A stream has ended: when it was the last of the program the module returns to `LOADED`, and a pending arm fails
(R372, R410). -/
def noteEnd (s : State) : State :=
  if s.firm.state == .running && allEnded s then dropArm (setState s .loaded) else s

/-- `END` (R134, R142): the stream is at its end; a chain of its own that is still open halts the tile. -/
def execEndStream (i : Issue) (w : BitVec 246) (s : State) : Res :=
  done s (issueWord s i (BitVec.ofNat 10 0x001 ++ w) (fun _ => false) (fun _ => reservedChecks w []) fun s =>
    match (openChains s i.tile).find? fun e => e.2.stream == i.stream with
    | some (n, c) => chainHalt s i.tile n c
    | none => noteEnd (chainStop (modStrm s i.tile i.stream fun x => { x with run := .ended }) i.tile))

/-- The checks of a jump target (R126). -/
def jumpChecks (s : State) (x : StreamCtx) (t : Nat) : List Check :=
  [ ckAlign (decide (t % 32 ≠ 0)) 1 t,
    -- a hole of the LLM window is named in slot 0 (R231)
    ckRange (!codeAddr s t) (if llmBase ≤ t && t < llmBase + 256 * wayGroup then 0 else 1) t,
    ckRange (match x.loops with
      | [] => false
      | f :: _ => !(f.start.toNat ≤ t && t < f.stop.toNat)) 1 t ]

/-- `JMP` (R126, R134). -/
def execJmp (i : Issue) (w : BitVec 246) (s : State) : Res :=
  let t := fld w 191 144
  done s (issueWord s i (BitVec.ofNat 10 0x002 ++ w) (fun _ => false)
    (fun s => reservedChecks w [(191, 144)] ++ jumpChecks s (strm s i.tile i.stream) t)
    fun s => modStrm s i.tile i.stream fun x => { x with pc := BitVec.ofNat 48 t })

/-- `BNZ` (R126, R134). -/
def execBnz (i : Issue) (w : BitVec 246) (s : State) : Res :=
  let t := fld w 191 144
  let n := fld w 244 240
  done s (issueWord s i (BitVec.ofNat 10 0x003 ++ w) (fun _ => false)
    (fun s => reservedChecks w [(244, 240), (191, 144)] ++ jumpChecks s (strm s i.tile i.stream) t)
    fun s => modStrm s i.tile i.stream fun x =>
      if sReg x n ≠ 0 then { x with pc := BitVec.ofNat 48 t } else advance1 x)

/-- The repeat count of a `LOOP` (R125). -/
def loopCount (w : BitVec 246) (x : StreamCtx) : Nat :=
  if fbit w 244 then (sReg x (fld w 243 239)).toNat % 2 ^ 32 else fld w 191 160

/-- A stream after its `LOOP` (R125): a count or a body of zero skips the body. -/
def loopStep (w : BitVec 246) (x : StreamCtx) : StreamCtx :=
  let c := loopCount w x
  let l := fld w 234 224
  let start := x.pc + 32
  let stop := start + BitVec.ofNat 48 (32 * l)
  if c = 0 ∨ l = 0 then goTo x stop
  else { x with loops := { start := start, stop := stop, count := c, iter := 0,
                           step := BitVec.ofNat 4 (fld w 238 235) } :: x.loops, pc := start }

/-- The checks of a `LOOP` (R125, R134; log 11). -/
def loopChecks (w : BitVec 246) (x : StreamCtx) : List Check :=
  let c := loopCount w x
  let l := fld w 234 224
  [ ckRes (fbit w 244 && decide (fld w 191 160 ≠ 0)) 191,
    ckRange (match x.loops with
      | [] => false
      | f :: _ => decide (f.stop.toNat < x.pc.toNat + 32 * (l + 1))) 0 l,
    ckRange (decide (c ≠ 0 ∧ l ≠ 0 ∧ 4 ≤ x.loops.length)) 0 l ]

/-- `LOOP` (R125, R134). -/
def execLoop (i : Issue) (w : BitVec 246) (s : State) : Res :=
  done s (issueWord s i (BitVec.ofNat 10 0x004 ++ w) (fun _ => false)
    (fun s => reservedChecks w [(244, 244), (243, 239), (238, 235), (234, 224), (191, 160)]
      ++ loopChecks w (strm s i.tile i.stream))
    fun s => modStrm s i.tile i.stream (loopStep w))

/-- `SLI` (R134). -/
def execSli (i : Issue) (w : BitVec 246) (s : State) : Res :=
  done s (issueN s i 0x008 w (fun _ => reservedChecks w [(244, 240), (191, 128)]) fun s =>
    modStrm s i.tile i.stream fun x => setS x (fld w 244 240) (BitVec.ofNat 64 (fld w 191 128)))

/-- `ALI` (R134). -/
def execAli (i : Issue) (w : BitVec 246) (s : State) : Res :=
  done s (issueN s i 0x009 w (fun _ => reservedChecks w [(243, 240), (191, 144)]) fun s =>
    modStrm s i.tile i.stream fun x => setA x (fld w 243 240) (BitVec.ofNat 48 (fld w 191 144)))

/-- The scalar operations of `SOP` (R134). -/
def sopFn (op : Nat) (a b : Word) : Word :=
  match op with
  | 0x0 => a + b
  | 0x1 => a - b
  | 0x2 => a &&& b
  | 0x3 => a ||| b
  | 0x4 => a ^^^ b
  | 0x5 => a <<< (b.toNat % 64)
  | 0x6 => a >>> (b.toNat % 64)
  | 0x7 => a.sshiftRight (b.toNat % 64)
  | 0x8 => a * b
  | 0x9 => if a.slt b then a else b
  | 0xA => if a.slt b then b else a
  | 0xB => if a.slt b then 1 else 0
  | _ => if a = b then 1 else 0

/-- `SOP` (R134). -/
def execSop (i : Issue) (w : BitVec 246) (s : State) : Res :=
  done s (issueN s i 0x00A w
    (fun _ => reservedChecks w [(244, 240), (239, 235), (234, 230), (229, 226), (225, 225), (191, 128)]
      ++ [ckRes (decide (0xD ≤ fld w 229 226)) 229])
    fun s => modStrm s i.tile i.stream fun x =>
      setS x (fld w 244 240) (sopFn (fld w 229 226) (sReg x (fld w 239 235))
        (if fbit w 225 then BitVec.ofNat 64 (fld w 191 128) else sReg x (fld w 234 230))))

/-- `AADD` (R134). -/
def execAadd (i : Issue) (w : BitVec 246) (s : State) : Res :=
  done s (issueN s i 0x00B w
    (fun _ => reservedChecks w [(243, 240), (239, 236), (235, 231), (225, 225), (191, 144)])
    fun s => modStrm s i.tile i.stream fun x =>
      setA x (fld w 243 240) (aReg x (fld w 239 236) +
        (if fbit w 225 then BitVec.ofNat 48 (fld w 191 144) else (sReg x (fld w 235 231)).setWidth 48)))

/-- The scratchpad operand of `SLD` and `SST`: 8 bytes. -/
def scalarOperand (s : State) (i : Issue) (w : BitVec 246) (slot addr rel g : Nat) (producer : Bool) : Operand :=
  { slot := slot, ptile := ptileOf s i.tile, ranges := [(addr, 8)], producer := producer,
    named := effSeal (strm s i.tile i.stream) (fbit w rel) g }

/-- `SLD` (R134, R129 check 11). -/
def execSld (i : Issue) (w : BitVec 246) (s : State) : Res :=
  let a := fld w 191 170
  done s (issueN s i 0x00C w
    (fun s => reservedChecks w [(244, 240), (191, 170), (132, 132), (131, 128)]
      ++ [ckAlign (decide (a % 8 ≠ 0)) 1 a]
      ++ sealChecks s [scalarOperand s i w 1 a 132 (fld w 131 128) false]
      ++ [⟨11, (spError (tileAt s i.tile).ctx a 8).isSome, 0x0D, a⟩])
    fun s => modCtx s i.tile fun c =>
      ctxPut c i.stream (setS (ctxS c i.stream) (fld w 244 240) (BitVec.ofNat 64 (rdNat c.sp a 8))))

/-- `SST` (R134): the stamp is in the issue cycle (R149). -/
def execSst (i : Issue) (w : BitVec 246) (s : State) : Res :=
  let a := fld w 63 42
  done s (issueN s i 0x00D w
    (fun s => reservedChecks w [(244, 240), (63, 42), (4, 4), (3, 0)]
      ++ [ckAlign (decide (a % 8 ≠ 0)) 3 a]
      ++ sealChecks s [scalarOperand s i w 3 a 4 (fld w 3 0) true])
    fun s =>
      let g := effSeal (strm s i.tile i.stream) (fbit w 4) (fld w 3 0)
      let s := modCtx s i.tile fun c => spWrite c a (natLe 8 (sReg (ctxS c i.stream) (fld w 244 240)).toNat)
      stamp s (ptileOf s i.tile) (a / 4096) g)

/-- `NUTSET` (R135). -/
def execNutset (i : Issue) (w : BitVec 246) (s : State) : Res :=
  done s (issueN s i 0x010 w (fun _ => reservedChecks w [(191, 160), (127, 64)]) fun s =>
    modStrm s i.tile i.stream fun x =>
      { x with nutStep := BitVec.ofNat 32 (fld w 191 160), nutElem := BitVec.ofNat 64 (fld w 127 64) })

/-- `SEALSET` (R135): a producer of its pages but for the predecessor rule; a count of zero is legal (R16, R133). -/
def execSealset (i : Issue) (w : BitVec 246) (s : State) : Res :=
  let first := fld w 191 182
  let n := fld w 181 171
  let v := fld w 170 167
  let pages := (List.range n).map (· + first)
  done s (issueN s i 0x011 w
    (fun s => reservedChecks w [(191, 182), (181, 171), (170, 167)]
      ++ [ckRange (decide (1024 < first + n)) 1 (max first 1024)]
      ++ (pages.filter (· < 1024)).map (producerCheck s (ptileOf s i.tile) 1 v true))
    fun s => pages.foldl (fun s p => stamp s (ptileOf s i.tile) p v) s)

/-- The phases that a program tile's slot map holds (R143). -/
def phaseCount (s : State) (p : Nat) : Nat :=
  match s.prog with
  | some g => (rd [] g.slotMaps p).length
  | none => 0

/-- `SLOT` (R144): the stream moves to the phase and gives up every grant that the phase does not give it. -/
def execSlot (i : Issue) (w : BitVec 246) (s : State) : Res :=
  let ph := fld w 191 186
  done s (issueN s i 0x043 w
    (fun s => reservedChecks w [(191, 186)] ++ [ckRange (decide (phaseCount s (ptileOf s i.tile) ≤ ph)) 1 ph])
    fun s =>
      let e := phaseEntry s (ptileOf s i.tile) ph
      let s := releaseUnits s i.tile i.stream fun u => !(grantMask e u).testBit (sc i.stream)
      modStrm s i.tile i.stream fun x => { x with phase := BitVec.ofNat 6 ph })

/-- `ILLEGAL_OPCODE` (R128): the word halts the tile; with an assigned opcode it is not this command's word. -/
def execIllegalOpcode (i : Issue) (w : BitVec 256) (s : State) : Res :=
  done s (if opcodeAssigned (wordOpcode w) then s
    else issueWord s i w (fun _ => false) (fun _ => [⟨2, true, 0x01, wordOpcode w⟩]) id)

end Sys2Proof.Machine
end

