-- ==== Sys2Proof/Machine/TileEvents.lean ====
section
/-! DEFINITION. Events of a tile's sequencers: the watchdog (R157), context switches (R31-R33, R109) and instruction
fetch (R124, R236). -/

namespace Sys2Proof.Machine

/-- The detail of `WATCHDOG` (R155): a wait whose threshold is reached waits for its acquisition. -/
def watchdogDetail (s : State) (t : Nat) (w : Waiting) : Nat :=
  match w.kind with
  | .interlock => 3 * 2 ^ 30
  | .arrive => 2 ^ 30 + w.index.toNat * 2 ^ 22
  | .sync =>
    let k := w.scope.toNat
    let met := decide (w.threshold.toNat ≤ ctrVal s k (ctrTarget k (ptileOf s t)) w.index.toNat)
    (if met then 2 * 2 ^ 30 else 0) + k * 2 ^ 28 + w.index.toNat * 2 ^ 22

/-- `STREAM_WATCHDOG` (R157): the head has waited longer than the limit; a limit of 0 disables the watchdog, and it
counts in `RUNNING` only, while the stream's context is loaded. -/
def execStreamWatchdog (t : Fin 64) (st : Stream) (s : State) : Res :=
  let x := strm s t st
  let lim := (tileAt s t).watchdog.toNat
  done s (match x.wait with
    | none => s
    | some w =>
      if lim ≠ 0 && s.firm.state == .running && !s.firm.held && x.run == .active && (tileAt s t).loaded.isSome then
        let s := toCycle s (s.time.cycle + (lim + 1 - w.count))
        halt s t st x.pc 0x0F (watchdogDetail s t w)
      else s)

/-- The program tiles that a device tile carries (R109). -/
def carriedBy (s : State) (t : Nat) : List Nat := (tileAt s t).carried

/-- Does a program cluster use a 4 × 4 gang: some phase of its slot maps has xgang (R109, R143)? -/
def gangCluster (s : State) (p : Nat) : Bool :=
  match s.prog with
  | some g => (List.range 4).any fun k => (rd [] g.slotMaps (p / 4 * 4 + k)).any fun e => e.getLsbD 15
  | none => false

/-- The device tiles that switch together when a tile takes up program tile `p`: all four where the cluster that goes or the one that comes
uses a 4 × 4 gang (R109). -/
def switchGroup (s : State) (t p : Nat) : List Nat :=
  if gangCluster s (ptileOf s t) || gangCluster s p then clusterTiles t else [t]

/-- Can a program tile's context run, or in a gang cluster one of its four (R32, R109)? -/
def ctxRunnable (s : State) (group : List Nat) (t p : Nat) : Bool :=
  group.any fun g =>
    let q := p + g - t
    let c := ctxOf s q
    allStreams.any fun st => canRun s q (ctxS c st)

/-- The carried context to take up next, in ascending program tile order after the loaded one (R32). -/
def nextContext (s : State) (t : Nat) : Option Nat :=
  let cur := ptileOf s t
  let c := carriedBy s t
  let order := (c.filter (cur < ·)) ++ c.filter (· < cur)
  order.find? fun p => ctxRunnable s (switchGroup s t p) t p

/-- The holders of a unit's shared grant in a restored context (R143). -/
def heldBy (c : Context) (u : Nat) : Option Stream := allStreams.find? fun st => (ctxS c st).held.getLsbD u

/-- One tile sets its context aside and takes up program tile `p` (R30, R32, R33): instruction buffers are not kept,
shared grants are. The cycles that the move takes are a free value (log 14). -/
def switchTile (s : State) (t p : Nat) : State :=
  let x := tileAt s t
  let c := asideContext s p
  let s := takeAside s p
  let s := match x.loaded with | some old => setAside s old x.ctx | none => s
  let cost := (Config.freeValue s.free).toNat
  let arrays := (List.range 4).foldl (fun a n => upd {} a n fun u => { u with holder := heldBy c n, released := false, chain := none }) x.arrays
  let y : Tile := { x with loaded := some p, ctx := c, ibuf := [], switches := x.switches + 1, move := x.move + cost,
                           arrays := arrays, vec := { x.vec with holder := heldBy c 4, released := false } }
  putTile { s with free := s.free + 1 } t y

/-- May the tiles of a group switch (R31, R109)? A tile with no context loaded has none to hold it back. -/
def groupSwitchable (s : State) (t p : Nat) : Bool :=
  goesOn s && (switchGroup s t p).all fun g =>
    (tileAt s g).loaded.isNone || (switchable s g && (openChains s g).isEmpty)

/-- One tile of a group switches; where it carries no context of the cluster that comes, it is left with none loaded (R109). -/
def switchOne (s : State) (g p : Nat) : State :=
  if (carriedBy s g).contains p then switchTile s g p
  else match (tileAt s g).loaded with
    | some old => putTile (setAside s old (tileAt s g).ctx) g
        { tileAt s g with loaded := none, ctx := {}, ibuf := [], switches := (tileAt s g).switches + 1 }
    | none => s

/-- The switch of a group to the context that R32 picks. -/
def switchTo (s : State) (t : Nat) : State :=
  match nextContext s t with
  | some p => if groupSwitchable s t p then (switchGroup s t p).foldl (fun s g => switchOne s g (p + g - t)) s else s
  | none => s

/-- `CONTEXT_SWITCH` (R31, R32): the running context is set aside for the next one that can run. -/
def execContextSwitch (t : Fin 64) (s : State) : Res := done s (switchTo s t)

/-- `CONTEXT_TAKE_UP` (R32): an idling tile takes up a context that has become able to run. -/
def execContextTakeUp (t : Fin 64) (s : State) : Res := done s (switchTo s t)

/-- An instruction line is read (R236, R237, R245, R253): through its home slice or from the way-group, in P0; a marked one is told. -/
def fetchRead (s : State) (a : Nat) : State :=
  let k := if regionAt s a == .llm then (a - llmBase) / (16 * wayGroup) else homeSlice a
  let s := modSlice (touch 0 false s a 64) k fun x => { x with fetch := x.fetch + 1 }
  match devMark s a 64 with | some m => noteMark s m | none => s

/-- `FETCH_LINE_ARRIVAL` (R124, R236): a refilled line enters the stream's buffer of 1,024 lines, which drops its oldest
(log 15), and ends a bubble. A line already held is not fetched anew (R125). A line that the host has modified is snooped
first (R394). -/
def execFetchLineArrival (t : Fin 64) (st : Stream) (line : BitVec 42) (s : State) : Res :=
  let x := tileAt s t
  let a := line.toNat * 64
  done s (if x.loaded.isSome && codeAddr s a && !(x.ibuf.any fun l => l.stream == st && l.line == line) then
    snoopGate [(a, 64)] [] s <|
    let l : FetchLine := { stream := st, line := line, data := BitVec.ofNat 512 (leNat (devRead s a 64)),
                           bad := (devMark s a 64).isSome }
    let mine := x.ibuf.filter fun l => l.stream == st
    let rest := if mine.length < 1024 then x.ibuf else (match mine.head? with | some h => x.ibuf.erase h | none => x.ibuf)
    let s := putTile (fetchRead s a) t { x with ibuf := rest ++ [l] }
    modStrm s t st fun y => if y.pc.extractLsb' 6 42 = line then { y with bubble := false } else y
  else s)

end Sys2Proof.Machine
end

