-- ==== Sys2Proof/Machine/Program.lean ====
section
/-! DEFINITION. Loading, starting, pausing and unloading programs (R11-R15, R32, R33, R143, R197, R199, R212, R229, R241, R256,
R261, R315, R368, R377, R410, R412-R414, R439, R457). -/

namespace Sys2Proof.Machine

/-! ### The image (R413) -/

/-- A section descriptor: its own place in the image, type, offset, length and load address. -/
structure Sec where
  desc : Nat
  type : Nat
  off  : Nat
  len  : Nat
  load : Nat
  deriving DecidableEq, Repr

/-- A refusal of the loader: status and detail. -/
abbrev LoadFault := Option (Nat × Word)

/-- The detail of R457. -/
def loadDetail (sec cause off : Nat) : Word := BitVec.ofNat 64 (sec % 256 * 2 ^ 56 + cause * 2 ^ 48 + off % 2 ^ 48)

/-- `BAD_PARAM` if something is wrong with a section (R457). -/
def wrong (bad : Bool) (sec cause off : Nat) : LoadFault := if bad then some (4, loadDetail sec cause off) else none

/-- The first of a list of refusals. -/
def firstOf (l : List LoadFault) : LoadFault := l.findSome? id

/-- The first byte of `[a, b)` of an image that is not zero. -/
def firstSet (bs : List Byte) (a b : Nat) : Option Nat := ((List.range (b - a)).map (· + a)).find? fun i => nth 0 bs i ≠ 0

/-- Program tiles of an image. -/
def imgP (bs : List Byte) : Nat := numAt bs 6 2
/-- Sections of an image. -/
def imgCount (bs : List Byte) : Nat := numAt bs 12 4

/-- The section table. -/
def sections (bs : List Byte) : List Sec :=
  (List.range (imgCount bs)).map fun i =>
    let d := 256 + 32 * i
    { desc := d, type := numAt bs d 2, off := numAt bs (d + 8) 8, len := numAt bs (d + 16) 8, load := numAt bs (d + 24) 8 }

/-- The section of a type, if the image has one. -/
def secOf (bs : List Byte) (type : Nat) : Option Sec := (sections bs).find? fun x => x.type = type

/-- Step 3 of R457: magic, format and reserved bytes; a W extent needs the axis (R15). -/
def headerFault (s : State) (bs : List Byte) : LoadFault :=
  firstOf [
    wrong (decide (bs.length < 256) || numAt bs 0 4 ≠ 0x4D474245) 0 3 0,
    wrong (numAt bs 4 2 ≠ 1) 0 3 4,
    (if 1 < numAt bs 11 1 ∧ axesOn s < 4 then some (6, 0) else none),
    (match firstSet bs 16 256 with | some i => wrong true 0 2 i | none => none)]

/-- What is wrong with one descriptor (R413). -/
def descFault (bs : List Byte) (x : Sec) : LoadFault :=
  firstOf [
    wrong (x.type = 0 || decide (9 < x.type)) x.type 3 x.desc,
    wrong (numAt bs (x.desc + 2) 6 ≠ 0) x.type 2 (x.desc + 2),
    wrong (decide (bs.length < x.off + x.len)) x.type 3 (x.desc + 8)]

/-- A type other than 0x01 that comes twice (R413). -/
def repeated : List Sec → LoadFault
  | [] => none
  | x :: t =>
    if x.type = 1 then repeated t
    else match t.find? fun y => y.type = x.type with
      | some y => wrong true y.type 9 y.desc
      | none => repeated t

/-- Step 4 of R457: the section table. -/
def tableFault (bs : List Byte) : LoadFault :=
  if bs.length < 256 + 32 * imgCount bs then wrong true 0 3 12
  else firstOf ((sections bs).map (descFault bs) ++ [repeated (sections bs)] ++
    [2, 3, 6].map fun k => wrong (secOf bs k).isNone k 9 12)

/-! ### The sections (R457 step 5) -/

/-- Where the parts of a section begin that have a count of `w` bytes and entries of `k` bytes each. -/
def partsFrom (bs : List Byte) (w k : Nat) : Nat → Nat → List Nat
  | 0, _ => []
  | n + 1, pos => pos :: partsFrom bs w k n (pos + w + k * numAt bs pos w)

/-- The end of the last part. -/
def partsEnd (bs : List Byte) (w k start : Nat) (ps : List Nat) : Nat :=
  match ps.getLast? with | some p => p + w + k * numAt bs p w | none => start

/-- The entries of a slot map that begins at a place. -/
def mapAt (bs : List Byte) (pos : Nat) : List (BitVec 16) :=
  (List.range (numAt bs pos 1)).map fun i => BitVec.ofNat 16 (numAt bs (pos + 1 + 2 * i) 2)

/-- Does an entry break the xgang rule on a tile other than tile 0 of its cluster (R143)? -/
def xgangBad (p : Nat) (e : BitVec 16) : Bool := p % 4 ≠ 0 && e.getLsbD 15 && bitsN e.toNat 0 12 ≠ 0

/-- The slot maps (R143). -/
def mapsFault (bs : List Byte) (x : Sec) : LoadFault :=
  let ps := partsFrom bs 1 2 (imgP bs) x.off
  firstOf ((List.range ps.length).map (fun p =>
      let pos := nth 0 ps p
      let n := numAt bs pos 1
      if 64 < n ∨ x.off + x.len < pos + 1 + 2 * n then wrong true 3 3 pos
      else match (List.range n).find? fun i => xgangBad p (nth 0 (mapAt bs pos) i) with
        | some i => wrong true 3 3 (pos + 1 + 2 * i)
        | none => none)
    ++ [wrong (partsEnd bs 1 2 x.off ps ≠ x.off + x.len) 3 3 x.desc])

/-- The layer table (R198, R199). -/
def layersFault (bs : List Byte) (x : Sec) : LoadFault :=
  let ps := partsFrom bs 2 16 (imgP bs) x.off
  let upTo := fun p => (ps.take (p + 1)).foldl (fun n q => n + numAt bs q 2) 0
  firstOf ((List.range ps.length).map (fun p =>
      let pos := nth 0 ps p
      let n := numAt bs pos 2
      if 256 < n ∨ 4096 < upTo p ∨ x.off + x.len < pos + 2 + 16 * n then wrong true 4 3 pos
      else firstOf ((List.range n).map fun i =>
        let a := pos + 2 + 16 * i
        let w0 := numAt bs a 8
        firstOf [wrong (bitsN w0 16 5 ≠ 0) 4 2 (a + 2), wrong (bitsN (numAt bs (a + 8) 8) 0 4 ≠ 0) 4 2 (a + 8),
                 wrong (!recValuesOk w0) 4 3 a]))
    ++ [wrong (partsEnd bs 2 16 x.off ps ≠ x.off + x.len) 4 3 x.desc])

/-- The keep map (R212). -/
def keepFault (bs : List Byte) (x : Sec) : LoadFault :=
  let n := numAt bs (x.off + 10) 2
  let slots := numAt bs (x.off + 8) 2
  firstOf ([wrong (decide (x.len < 12)) 5 3 x.desc, wrong (numAt bs x.off 8 % 4096 ≠ 0) 5 3 x.off,
      wrong (slots = 0 || decide (512 < slots)) 5 3 (x.off + 8), wrong (decide (64 < n)) 5 3 (x.off + 10),
      wrong (x.len ≠ 12 + 16 * n) 5 3 x.desc]
    ++ (List.range n).map fun i => wrong (numAt bs (x.off + 14 + 16 * i) 6 ≠ 0) 5 2 (x.off + 14 + 16 * i))

/-- The mask bytes of a barrier tree. -/
def maskBytes (p : Nat) : Nat := (3 * p + 7) / 8

/-- The declaration of the tree that begins at a place (R315). -/
def treeAt (bs : List Byte) (pos : Nat) : TreeDecl :=
  let m := numAt bs (pos + 1) (maskBytes (imgP bs))
  { step := numAt bs pos 1 = 1, mask := (List.range (imgP bs)).map fun p => BitVec.ofNat 3 (bitsN m (3 * p) 3) }

/-- Where the barrier trees begin. -/
def treePos (bs : List Byte) (x : Sec) : List Nat :=
  (List.range (numAt bs x.off 2)).map fun i => x.off + 2 + (1 + maskBytes (imgP bs)) * i

/-- The barrier trees (R315). -/
def treesFault (bs : List Byte) (x : Sec) : LoadFault :=
  let n := numAt bs x.off 2
  let ps := treePos bs x
  let steps := fun i => ((ps.take (i + 1)).filter fun p => (treeAt bs p).step).length
  firstOf ([wrong (decide (x.len < 2) || n = 0 || decide (16 < n)) 6 3 x.off,
      wrong (x.len ≠ 2 + (1 + maskBytes (imgP bs)) * n) 6 3 x.desc]
    ++ (List.range n).map fun i =>
      let p := nth 0 ps i
      firstOf [wrong (decide (1 < numAt bs p 1)) 6 3 p, wrong (decide (1 < steps i)) 6 3 p,
               wrong (expected (treeAt bs p) = 0) 6 3 (p + 1)])

/-- The regions of 16 B in a section: base and length. -/
def regionsAt (bs : List Byte) (off n : Nat) : List (Nat × Nat) :=
  (List.range n).map fun i => (numAt bs (off + 16 * i) 8, numAt bs (off + 16 * i + 8) 8)

/-- Regions in a checkpoint list. -/
def ckptCount (x : Sec) : Nat := (x.len - 32) / 16

/-- The checkpoint list (R368). -/
def ckptFault (bs : List Byte) (x : Sec) : LoadFault :=
  let n := ckptCount x
  firstOf ([wrong (x.len ≠ 16 * n + 32) 7 3 x.desc, wrong (decide (256 < n)) 7 3 x.off]
    ++ (List.range n).map fun i => wrong (numAt bs (x.off + 16 * i) 8 % 4096 ≠ 0) 7 3 (x.off + 16 * i))

/-- The way-group masks of an image: of section type `type` at its last 32 bytes; none where it is absent (R413). -/
def masksAt (bs : List Byte) (type : Nat) : List (BitVec 16) :=
  match secOf bs type with
  | some x => masksOf (sub bs (x.off + x.len - 32) 32)
  | none => List.replicate 16 0

/-- Would masks leave a slice without a way-group in cache mode, or take one that is out of service (R229, R241)? -/
def maskBad (s : State) (k : Nat) (m : BitVec 16) : Bool :=
  let d := (rd {} s.mem.slices k).disabled
  m &&& d ≠ 0 || (m ||| d) = 0xFFFF

/-- The scratchpad masks (R229, R241). -/
def scratchFault (s : State) (bs : List Byte) (x : Sec) : LoadFault :=
  firstOf (wrong (x.len ≠ 32) 8 3 x.desc ::
    (List.range 16).map fun k => wrong (maskBad s k (nth 0 (masksAt bs 8) k)) 8 3 (x.off + 2 * k))

/-- Step 5 of R457: the sections in ascending type. -/
def contentFault (s : State) (bs : List Byte) : LoadFault :=
  let at_ := fun (type : Nat) (f : Sec → LoadFault) => match secOf bs type with | some x => f x | none => none
  firstOf [at_ 2 fun x => wrong (x.len ≠ 24 * imgP bs) 2 3 x.desc, at_ 3 (mapsFault bs), at_ 4 (layersFault bs), at_ 5 (keepFault bs),
    at_ 6 (treesFault bs), at_ 7 (ckptFault bs), at_ 8 (scratchFault s bs), at_ 9 fun x => wrong (x.len % 16 ≠ 0) 9 3 x.desc]

/-! ### Rules that join sections (R457 step 6) -/

/-- A declared range of an image: its section type, where it stands in the image, base and length. -/
structure Declared where
  type : Nat
  pos  : Nat
  base : Nat
  len  : Nat
  deriving DecidableEq, Repr

/-- The keep map entries. -/
def keepEntries (bs : List Byte) (x : Sec) : List KeepEntry :=
  (List.range (numAt bs (x.off + 10) 2)).map fun i =>
    { layer := BitVec.ofNat 16 (numAt bs (x.off + 12 + 16 * i) 2), size := BitVec.ofNat 64 (numAt bs (x.off + 20 + 16 * i) 8) }

/-- The keep area's bytes: slots times pitch (R212). -/
def keepBytes (bs : List Byte) (x : Sec) : Nat :=
  numAt bs (x.off + 8) 2 * (keepEntries bs x).foldl (fun n e => n + page4k e.size.toNat) 0

/-- The code and data sections in table order. -/
def codeSecs (bs : List Byte) : List Sec := (sections bs).filter fun x => x.type = 1

/-- The declared ranges of types 0x05, 0x07 and 0x09 (R457). -/
def areas (bs : List Byte) : List Declared :=
  let list := fun (type : Nat) (n : Sec → Nat) => match secOf bs type with
    | some x => (List.range (n x)).map fun i =>
        let r := nth (0, 0) (regionsAt bs x.off (n x)) i
        ({ type := type, pos := x.off + 16 * i, base := r.1, len := r.2 } : Declared)
    | none => []
  (match secOf bs 5 with
    | some x => [({ type := 5, pos := x.off, base := numAt bs x.off 8, len := keepBytes bs x } : Declared)]
    | none => []) ++ list 7 ckptCount ++ list 9 fun x => x.len / 16

/-- All declared ranges (R457). -/
def declared (bs : List Byte) : List Declared :=
  ((codeSecs bs).filter fun x => x.load + x.len ≤ hbmSize).map
    (fun x => ({ type := 1, pos := x.desc, base := x.load, len := x.len } : Declared)) ++ areas bs

/-- Does a range of bytes meet another? -/
def overlaps (a n b m : Nat) : Bool := a < b + m && b < a + n && n ≠ 0 && m ≠ 0

/-- Does a range lie in HBM, or in the far tier's window? -/
def inMemory (a n : Nat) : Bool := a + n ≤ hbmSize || (farBase ≤ a && a + n ≤ farBase + 2 ^ 42) || n = 0

/-- Does a load range lie in way-groups that masks put in scratchpad mode? -/
def inMasks (masks : List (BitVec 16)) (a n : Nat) : Bool :=
  llmBase ≤ a && a + n ≤ llmBase + 256 * wayGroup &&
    (List.range (n / wayGroup + 2)).all fun k =>
      let b := min (a + k * wayGroup) (a + n - 1)
      let g := (b - llmBase) / wayGroup
      (nth 0 masks (g / 16)).getLsbD (g % 16)

/-- The base of the save area for a count of program tiles (R33). -/
def saveBaseFor (s : State) (p : Nat) : Nat := hbmSize - (p - tilesOn s) * saveSlot

/-- Way-groups to be saved that the image leaves in cache mode (R368). -/
def ckptMaskFault (bs : List Byte) : LoadFault :=
  match secOf bs 7 with
  | none => none
  | some x => firstOf ((List.range 16).map fun k =>
      wrong (nth 0 (masksAt bs 7) k &&& ~~~(nth 0 (masksAt bs 8) k) ≠ 0) 7 3 (x.off + 16 * ckptCount x + 2 * k))

/-- Step 6 of R457: counts, placement, save area, staging area, retired granules, far-tier capacity. -/
def joinFault (s : State) (bs : List Byte) : LoadFault :=
  let p := imgP bs
  let base := saveBaseFor s p
  let ds := declared bs
  let each := fun (f : Declared → Bool) => ds.map fun d => wrong (f d) d.type 10 d.pos
  -- a tile with an unrepairable row holds no context (R241; log 86)
  if p = 0 ∨ 8 * tilesOn s < p ∨ (List.range (min p (tilesOn s))).any fun t => (tileAt s t).unusable then wrong true 0 3 6
  else firstOf (
    (codeSecs bs).map (fun x =>
      wrong (x.len ≠ 0 && !(decide (x.load + x.len ≤ hbmSize)) && !inMasks (masksAt bs 8) x.load x.len) 1 10 x.desc)
    ++ (areas bs).map (fun d => wrong (!inMemory d.base d.len) d.type 10 d.pos) ++ [ckptMaskFault bs]
    ++ each (fun d => overlaps d.base d.len base (hbmSize - base))
    ++ each (fun d => overlaps d.base d.len (base - 0x10000000) 0x10000000)
    ++ each (fun d => d.len ≠ 0 && !(retiredIn s d.base d.len).isEmpty)
    ++ [wrong (!(retiredIn s base (hbmSize - base)).isEmpty) 0 10 6]
    ++ (areas bs).map fun d =>
        wrong (farBase ≤ d.base && d.len ≠ 0 && decide (farBase + mappedCap s * 2 ^ 28 < d.base + d.len)) d.type 10 d.pos)

/-! ### The payload and the whole check (R413, R457) -/

/-- Image address and length of a `PROG_LOAD`. -/
def loadAddr (p : Packet) : Nat := pn p 0 8 % 2 ^ 63
/-- Its length. -/
def loadLen (p : Packet) : Nat := pn p 8 8

/-- Step 1 of R457: reserved bytes, and an address that is no host memory and not in HBM. -/
def payloadFault (p : Packet) : LoadFault :=
  firstOf [
    wrong (if isHost (pn p 0 8) then decide (2 ^ 52 < loadAddr p + loadLen p) else decide (hbmSize < loadAddr p + loadLen p)) 0xFF 3 0,
    wrong (pn p 88 8 ≠ 0) 0xFF 2 88]

/-- Steps 2 to 6 of R457. -/
def imageRefusal (s : State) (p : Packet) (bs : List Byte) : LoadFault :=
  firstOf [wrong (sha3 bs ≠ sub p.payload 24 64) 0xFF 1 0, headerFault s bs, tableFault bs, contentFault s bs, joinFault s bs]

/-! ### Loading -/

/-- The layer records of a program tile: their count, and words 0 and 1 of each (R198, R199). -/
def layerTable (bs : List Byte) (p : Nat) : List LayerRec :=
  match secOf bs 4 with
  | none => []
  | some x =>
    let pos := nth 0 (partsFrom bs 2 16 (imgP bs) x.off) p
    (List.range (numAt bs pos 2)).map fun i => setRecWords {} (numAt bs (pos + 2 + 16 * i) 8) (numAt bs (pos + 10 + 16 * i) 8)

/-- The program that an image declares. -/
def progOf (bs : List Byte) (seed : Word) : Prog :=
  let p := imgP bs
  let keep := secOf bs 5
  { p := p,
    slotMaps := (match secOf bs 3 with
      | some x => (List.range p).foldl (fun t k => wr [] t k (mapAt bs (nth 0 (partsFrom bs 1 2 p x.off) k))) []
      | none => []),
    recCount := (List.range p).foldl (fun t k => wr 0 t k (layerTable bs k).length) [],
    keepBase := (match keep with | some x => BitVec.ofNat 48 (numAt bs x.off 8) | none => 0),
    keepSlots := (match keep with | some x => numAt bs (x.off + 8) 2 | none => 0),
    keep := (match keep with | some x => keepEntries bs x | none => []),
    trees := (match secOf bs 6 with | some x => (treePos bs x).map (treeAt bs) | none => []),
    ckpt := (match secOf bs 7 with | some x => regionsAt bs x.off (ckptCount x) | none => []),
    ckptLlm := masksAt bs 7,
    seed := seed, digest := sha3Word bs }

/-- The context of a program tile as it is loaded: entry addresses, layer records, all else zero (R51, R122, R124, R143, R146,
R197, R310). -/
def freshContext (bs : List Byte) (p : Nat) : Context :=
  let e := fun k => match secOf bs 2 with | some x => BitVec.ofNat 48 (numAt bs (x.off + 24 * p + 8 * k) 8) | none => 0
  let rs := layerTable bs p
  { f := { pc := e 0 }, b := { pc := e 1 }, u := { pc := e 2 },
    clove := { records := (List.range rs.length).foldl (fun t i => wr {} t i (nth {} rs i)) [] } }

/-- A device tile after a program load (R13, R32, R65, R109, R160, R162, R189, R190, R219, R224): what it carries, and its
counters at zero; its scratchpad bytes stay. -/
def loadTile (bs : List Byte) (e p t : Nat) (x : Tile) : Tile :=
  let x := clearTile x
  let ps := (List.range ((p + e - 1 - t) / e)).map fun k => t + k * e
  { x with
    carried := ps, loaded := ps.head?,
    ctx := if t < p then { freshContext bs t with sp := x.ctx.sp, spUe := x.ctx.spUe } else x.ctx,
    halt := {}, issued := [], waited := [], bubbles := [], switches := 0, move := 0, idle := 0, active := 0,
    cvt := [], ieee := [], conflict := [], ovfLost := {}, vec := { ecc := x.vec.ecc } }

/-- Counters that reset at program load (R220, R245, R264, R308, R309, R329, R352, R388). -/
def clearCounters (s : State) : State :=
  { s with
    closed := 0, ovfLog := [], ovfOver := 0, ovfSat := false, normStep := [], cluster := [], dieSync := [], samples := [],
    trees := [],
    mem := { s.mem with
      bytesP := [], slices := s.mem.slices.map fun (e : Nat × Slice) => (e.1, { e.2 with hits := 0, misses := 0, writebacks := 0, fetch := 0 }) },
    fab := { s.fab with
      injected := 0, ejected := 0, deflected := 0, ejBusy := 0, golden := 0, heldCnt := 0, dup := 0, bounced := 0,
      ports := s.fab.ports.map fun (e : Nat × Port) => (e.1, { e.2 with cwCorr := 0, replays := 0, qSent := 0 }) },
    ces := s.ces.map fun (e : Nat × Engine) =>
      (e.1, { e.2 with items := 0, tx := 0, rx := 0, flagged := 0, chans := e.2.chans.map fun (c : Nat × Chan) => (c.1, { c.2 with next := 0 }) }),
    hamper := { s.hamper with bytesW := 0, bytesR := 0 } }

/-- Sections copied to their load addresses, until one meets a marked line that it covers only in part (R252, R457). -/
def copySecs (bs : List Byte) : List Sec → State → State × Option Word
  | [], s => (s, none)
  | x :: t, s =>
    let r := devWrite s x.load (sub bs x.off x.len)
    match r.2 with
    | some m => (noteMark r.1 m, some (eccDetail (sourceOf (regionAt s x.load)) m))
    | none => copySecs bs t (touch hostClass true r.1 x.load x.len)

/-- The result of a load (R12, R33, R377): P in bits [15:0] of word 0, E in [31:16] and the largest context count in [47:32], places that the
spec does not give (DESIGN CHOICE, log 94). -/
def loadResult (s : State) : List Word :=
  let p := progP s
  let e := tilesOn s
  [BitVec.ofNat 64 (p + e * 2 ^ 16 + (p + e - 1) / e * 2 ^ 32), dieCtxSave s, dieHamperStage s]

/-- A checked image is loaded, and the module enters `LOADED` (R410): the second part is the answer. -/
def loadImage (s : State) (p : Packet) (bs : List Byte) : State × Answer :=
  let hbm := (codeSecs bs).filter fun x => x.load + x.len ≤ hbmSize
  let llm := (codeSecs bs).filter fun x => hbmSize < x.load + x.len
  let r := copySecs bs hbm s
  match r.2 with
  | some d => (r.1, stat 9 d)
  | none =>
    let r := copySecs bs llm (applyMasks r.1 (masksAt bs 8))
    match r.2 with
    | some d => (r.1, stat 9 d)
    | none =>
      let n := imgP bs
      let e := tilesOn s
      let s := clearCounters r.1
      let s := { s with
        prog := some (progOf bs (BitVec.ofNat 64 (pn p 16 8))),
        tiles := (List.range e).foldl (fun t k => upd {} t k (loadTile bs e n k)) s.tiles,
        saved := [], slots := [], firm := { s.firm with ledger := [] } }
      let s := ((List.range n).filter fun k => e ≤ k).foldl (fun s k => setAside s k (freshContext bs k)) s
      let s := setState (setNextGen s) .loaded
      (s, okR (loadResult s))

/-- Order state, dead list and its overflow go with a load addressed to a slice (R439). -/
def clearOrder (s : State) : State :=
  let own := ownSlice s
  { s with fab := { s.fab with
      order := s.fab.order.filter fun (e : Nat × Order) => !inSlice s.fab.extent own e.1,
      quench := { s.fab.quench with dead := [], overflow := false, lastDead := none } } }

/-- `PROG_LOAD` begins: the image is read over the link or from HBM (R413); without a link it cannot be read (R397). -/
def progLoadAct (s : State) (p : Packet) (t : Tgt) : State × Answer :=
  let s := if t.level = lSlice then clearOrder s else s
  match payloadFault p with
  | some f => (s, stat f.1 f.2)
  | none =>
    if !isHost (pn p 0 8) then (s, later)
    else if s.vkx.state = 0 then (s, stat 9 0)
    else (askHost s (loadAddr p) (loadLen p), later)
/-- `PROG_LOAD`. -/
def cmdProgLoad : CmdDef := simple 0x0200 [lDie, lSlice] [3] .A false 96 progLoadAct
/-- `PROG_LOAD` (R413, R414, R439). -/
def execProgLoad (p : Packet) (s : State) : Res := runCommand cmdProgLoad p s

/-- The bytes of an image, or the detail of R138 for a line that cannot be read (R396). -/
def imageBytes (s : State) (p : Packet) : List Byte × Option Word :=
  let a := loadAddr p
  let n := loadLen p
  if isHost (pn p 0 8) then (hostRead s a n, (hostMark s a n).map hostDetail)
  else (devRead s a n, (devMark s a n).map (eccDetail 5))

/-- The device ranges that a load reads and writes, snooped first (R394). -/
def loadReads (p : Packet) : List (Nat × Nat) := if isHost (pn p 0 8) then [] else [(loadAddr p, loadLen p)]
/-- The ranges of HBM that it writes. -/
def loadWrites (bs : List Byte) : List (Nat × Nat) :=
  ((codeSecs bs).filter fun x => x.load + x.len ≤ hbmSize).map fun x => (x.load, x.len)

/-- The end of a load of a command. -/
def endLoad (s : State) (c : PendCmd) : State :=
  let b := imageBytes s c.p
  let s := touchReads hostClass s (loadReads c.p)
  match b.2 with
  | some d =>
    let s := if isHost (pn c.p 0 8) then s
      else match devMark s (loadAddr c.p) (loadLen c.p) with | some m => noteMark s m | none => s
    completeCmd s c 9 d []
  | none =>
    match imageRefusal s c.p b.1 with
    | some f => completeCmd s c f.1 f.2 []
    | none =>
      snoopGate (loadReads c.p) (loadWrites b.1) s (
        let r := loadImage s c.p b.1
        settle r.1 c r.2)

/-- `PROG_LOAD_DONE` (R413, R457): the image is here, it is checked and loaded. -/
def execProgLoadDone (s : State) : Res :=
  done s (match acceptedOf s 0x0200 with
    | none => s
    | some c =>
      if isHost (pn c.p 0 8) && hostPending s (loadAddr c.p) (loadLen c.p) then s
      else if s.firm.state ≠ .idle then finishDrain (completeCmd s c 9 5 [])
      else finishDrain (endLoad s c))

/-! ### Starting and stopping (R410, R412) -/

/-- The three streams of a context, changed. -/
def eachStream (f : StreamCtx → StreamCtx) (c : Context) : Context := { c with f := f c.f, b := f c.b, u := f c.u }

/-- The streams of every context of the program, changed. -/
def mapStreams (s : State) (f : StreamCtx → StreamCtx) : State :=
  (List.range (progP s)).foldl (fun s p => modCtxOf s p (eachStream f)) s

/-- The streams of a device tile's contexts, changed. -/
def mapTileStreams (s : State) (t : Nat) (f : StreamCtx → StreamCtx) : State :=
  (carriedBy s t).foldl (fun s p => modCtxOf s p (eachStream f)) s

/-- A stream that `PROG_START` starts (R159). -/
def startStream (x : StreamCtx) : StreamCtx := if x.run == .notStarted then { x with run := .active } else x

/-- `PROG_START`: a program of which every stream is at its end is `LOADED` again at once (R410). -/
def progStartAct (s : State) (_p : Packet) (_t : Tgt) : State × Answer := (noteEnd (setState (mapStreams s startStream) .running), ok0)
/-- `PROG_START`. -/
def cmdProgStart : CmdDef := simple 0x0201 [lDie, lSlice] [4] .E false 0 progStartAct
/-- `PROG_START` (R412). -/
def execProgStart (p : Packet) (s : State) : Res := runCommand cmdProgStart p s

/-- Does a level stop single tiles? -/
def tileLevel (t : Tgt) : Bool := t.level = lTile || t.level = lCluster
/-- A tile that carries no context fails a program command (R411). -/
def contextCheck (s : State) (_p : Packet) (t : Tgt) : Option (Nat × Word) :=
  if (tilesIn t).any fun i => (tileAt s i).loaded.isNone then some (wrongState s) else none

/-- `PROG_PAUSE` (R412): at the die every tile stops, and the pause is over once the items in flight complete; below it a tile's
streams stop before their next issue. -/
def progPauseAct (s : State) (_p : Packet) (t : Tgt) : State × Answer :=
  if !(tilesIn t).isEmpty then ((tilesIn t).foldl (fun s i => mapTileStreams s i fun x => { x with paused := true }) s, ok0)
  else ({ s with firm := { s.firm with pausing := true } }, later)
/-- `PROG_PAUSE`. -/
def cmdProgPause : CmdDef :=
  { simple 0x0202 [lDie, lCluster, lTile, lSlice, lGroup] [5] .E false 0 progPauseAct with check := contextCheck }
/-- `PROG_PAUSE` (R412). -/
def execProgPause (p : Packet) (s : State) : Res := runCommand cmdProgPause p s

/-- The pauses of the die that have acted and not completed. -/
def openPauses (s : State) : List PendCmd :=
  s.firm.accepted.filter fun c => c.opcode == 0x0202 && !(s.time.epochQ.any fun e => e.opcode == c.opcode && e.p == c.p)

/-- `PAUSE_DRAIN_DONE` (R412): the module enters `PAUSED`; one that a fault has stopped fails its pauses (R419). -/
def execPauseDrainDone (s : State) : Res :=
  done s (
    if s.firm.state == .running then
      (if s.firm.pausing && !itemsInFlight s then
        let s := setState { s with firm := { s.firm with pausing := false } } .paused
        (openPauses s).foldl (fun s c => completeCmd s c 0 0 []) s
      else s)
    else if s.firm.state == .faulted then finishDrain ((openPauses s).foldl (fun s c => completeCmd s c 9 5 []) s)
    else s)

/-- Is a device tile stopped by a pause of its own? -/
def stoppedTile (s : State) (t : Nat) : Bool :=
  (carriedBy s t).any fun p => allStreams.any fun st => (ctxS (ctxOf s p) st).paused

/-- In `RUNNING` only stopped tiles resume (R412). -/
def progResumeCheck (s : State) (p : Packet) (t : Tgt) : Option (Nat × Word) :=
  match contextCheck s p t with
  | some f => some f
  | none =>
    if s.firm.state == .paused then none
    else if !(tilesIn t).isEmpty then (if (tilesIn t).all (stoppedTile s) then none else some (wrongState s))
    else if (List.range (tilesOn s)).any (stoppedTile s) then none else some (wrongState s)

/-- `PROG_RESUME` (R410, R412): at the die all tiles go on; a tile alone in `PAUSED` takes the module to `RUNNING`, where the
others stay stopped. -/
def progResumeAct (s : State) (_p : Packet) (t : Tgt) : State × Answer :=
  let go := fun (x : StreamCtx) => { x with paused := false }
  let s' :=
    if !(tilesIn t).isEmpty then
      let s := if s.firm.state == .paused then mapStreams s fun x => { x with paused := true } else s
      (tilesIn t).foldl (fun s i => mapTileStreams s i go) s
    else mapStreams s go
  (noteEnd (setState s' .running), ok0)
/-- `PROG_RESUME`. -/
def cmdProgResume : CmdDef :=
  { simple 0x0203 [lDie, lCluster, lTile, lSlice, lGroup] [5, 6] .E false 0 progResumeAct with check := progResumeCheck }
/-- `PROG_RESUME` (R412). -/
def execProgResume (p : Packet) (s : State) : Res := runCommand cmdProgResume p s

/-- `PROG_UNLOAD` (R412, R419): in `IDLE` no effect; else the ledgers drain and the program goes. -/
def progUnloadAct (s : State) (_p : Packet) (_t : Tgt) : State × Answer :=
  if s.firm.state == .idle then (s, ok0)
  else (finishDrain { s with firm := { s.firm with draining := some .idle } }, later)
/-- `PROG_UNLOAD`. -/
def cmdProgUnload : CmdDef := { simple 0x0204 [lDie, lSlice] [3, 4, 6, 9] .A false 0 progUnloadAct with check := faultClearCheck }
/-- `PROG_UNLOAD` (R412). -/
def execProgUnload (p : Packet) (s : State) : Res := runCommand cmdProgUnload p s

/-- `PROG_STATUS` (R412). -/
def progStatusAct (s : State) (_p : Packet) (t : Tgt) : State × Answer :=
  if t.level = lTile then
    let h := (tileAt s t.index).halt
    (s, okR [seqStatus s t.index, haltInfo h, h.addr.setWidth 64])
  else
    let e := tilesOn s
    (s, okR [BitVec.ofNat 64 (progP s), BitVec.ofNat 64 e, BitVec.ofNat 64 ((progP s + e - 1) / e)])
/-- `PROG_STATUS`. -/
def cmdProgStatus : CmdDef := simple 0x0205 [lDie, lTile] anyOf .S true 0 progStatusAct
/-- `PROG_STATUS` (R412). -/
def execProgStatus (p : Packet) (s : State) : Res := runCommand cmdProgStatus p s

/-- The values of `SYNC_WRITE`: a program tile of the program, a scope, and a counter of it (R310). A die counter needs no
tile. -/
def syncWriteCheck (s : State) (p : Packet) (_t : Tgt) : Option (Nat × Word) :=
  if 2 < pn p 2 1 then badAt 2
  else if pn p 2 1 ≠ 2 ∧ progP s ≤ pn p 0 2 then badAt 0
  else if (if pn p 2 1 = 1 then 32 else 64) ≤ pn p 3 1 then badAt 3
  else none
/-- `SYNC_WRITE`. -/
def cmdSyncWrite : CmdDef :=
  { simple 0x0206 [lDie] [4, 6] .S false 6
      (fun s p _ => (ctrSet s (pn p 2 1) (ctrTarget (pn p 2 1) (pn p 0 2)) (pn p 3 1) (pn p 4 2), ok0)) with check := syncWriteCheck }
/-- `SYNC_WRITE` (R350, R412). -/
def execSyncWrite (p : Packet) (s : State) : Res := runCommand cmdSyncWrite p s

/-- Is a tile at a breakpoint? -/
def atBreak (s : State) (t : Nat) : Bool := allStreams.any fun st => (strm s t st).run == .atBreak
/-- `DEBUG_RESUME` needs a tile at a breakpoint (R412). -/
def debugCheck (s : State) (_p : Packet) (t : Tgt) : Option (Nat × Word) := if atBreak s t.index then none else some (wrongState s)
/-- The streams that the breakpoint stopped go on (R157). -/
def debugAct (s : State) (_p : Packet) (t : Tgt) : State × Answer :=
  let go := fun (x : StreamCtx) => if x.run == .atBreak then { x with run := .active } else x
  (modCtx s t.index (eachStream go), ok0)
/-- `DEBUG_RESUME`. -/
def cmdDebugResume : CmdDef := { simple 0x0207 [lTile] [5, 6] .S false 0 debugAct with check := debugCheck }
/-- `DEBUG_RESUME` (R157, R412). -/
def execDebugResume (p : Packet) (s : State) : Res := runCommand cmdDebugResume p s

end Sys2Proof.Machine
end

