-- ==== Sys2Proof/Machine/Memory.lean ====
section
/-! DEFINITION. The commands of memory, numerics and diagnostics (R198, R199, R205, R213, R229, R230, R240-R242, R256, R263,
R349, R412, R416). -/

namespace Sys2Proof.Machine

/-! ### `MEM_READ` and `MEM_WRITE` (R153, R259, R396, R412) -/

/-- The lines of a range, as address and length. -/
def spansOf (a n : Nat) : List (Nat × Nat) :=
  (linePieces (n / 64 + 2) a (List.replicate n 0)).map fun x => (x.1, x.2.length)

/-- A register access of any length but 8 (R259). -/
def oddReg (s : State) (a n : Nat) : Bool := regionAt s a == .reg && decide (n ≠ 8)

/-- The detail of a line that cannot be read (R138). -/
def markAt (s : State) (a n : Nat) : Word :=
  match devMark s a n with | some m => eccDetail (sourceOf (regionAt s a)) m | none => 0

/-- Lines read in order up to the first that does not answer `OK`: the resp code, the detail of an error, and the bytes. -/
def readSpans : State → List (Nat × Nat) → List Byte → State × Nat × Word × List Byte
  | s, [], bs => (s, 0, 0, bs)
  | s, x :: xs, bs =>
    let r := readAt s x.1 x.2
    if r.2.1 = 0 then readSpans r.1 xs (bs ++ r.2.2) else (r.1, r.2.1, markAt s x.1 x.2, [])

/-- The answer for a resp code (R396, R412): an uncorrectable or poisoned line is a die fault (R436). -/
def respAnswer (s : State) (resp : Nat) (d : Word) (data : List Byte) : State × Answer :=
  match resp with
  | 0 => (s, { status := 0, detail := 0, data := data })
  | 1 => (s, stat 6 0)
  | 2 => (s, stat 4 (refusal 32 3))
  | _ => (dieFault s 0x05, stat 9 d)

/-- What refuses an access before it is made: a hole or an unmapped address, and for a check alone an absent unit. -/
def respFault (p : Packet) (codes : List Nat) : Option (Nat × Word) :=
  if codes.any fun c => c = 2 then badAt 0
  else if p.flags.getLsbD 0 && codes.any fun c => c = 1 then some (6, 0)
  else none

/-- The range of `MEM_READ`. -/
def memReadCheck (s : State) (p : Packet) (_t : Tgt) : Option (Nat × Word) :=
  let a := pn p 0 8
  let n := pn p 8 4
  if n = 0 ∨ 4064 < n then badAt 8
  else if oddReg s a n then badAt 0
  else respFault p ((spansOf a n).map fun x => (readAt s x.1 x.2).2.1)
/-- `MEM_READ` reads. -/
def memReadAct (s : State) (p : Packet) (_t : Tgt) : State × Answer :=
  let r := readSpans s (spansOf (pn p 0 8) (pn p 8 4)) []
  respAnswer r.1 r.2.1 r.2.2.1 r.2.2.2
/-- `MEM_READ`. -/
def cmdMemRead : CmdDef := { simple 0x0300 [lDie] anyOf .S true 12 memReadAct with check := memReadCheck }
/-- `MEM_READ` (R412). -/
def execMemRead (p : Packet) (s : State) : Res := runCommand cmdMemRead p s

/-- The bytes that `MEM_WRITE` brings, by line. -/
def memPieces (p : Packet) : List (Nat × List Byte) :=
  let bs := p.payload.drop 8
  linePieces (bs.length / 64 + 2) (pn p 0 8) bs
/-- The range of `MEM_WRITE`; no data are a legal no-op (R16). -/
def memWriteCheck (s : State) (p : Packet) (_t : Tgt) : Option (Nat × Word) :=
  if oddReg s (pn p 0 8) (p.payload.length - 8) && decide (8 < p.payload.length) then badAt 0
  else respFault p ((memPieces p).map fun x => (writeAt s x.1 x.2).2)
/-- `MEM_WRITE` writes all its bytes, or none (R396). -/
def memWriteAct (s : State) (p : Packet) (_t : Tgt) : State × Answer :=
  match (memPieces p).find? fun x => (writeAt s x.1 x.2).2 ≠ 0 with
  | some x =>
    let d := match writeMark s x.1 x.2 with | some m => eccDetail (sourceOf (regionAt s x.1)) m | none => 0
    let r := writeAt s x.1 x.2
    respAnswer r.1 r.2 d []
  | none => ((memPieces p).foldl (fun s x => (writeAt s x.1 x.2).1) s, ok0)
/-- `MEM_WRITE`. -/
def cmdMemWrite : CmdDef :=
  { op := 0x0301, levels := [lDie], states := anyOf, kind := .S, reads := false, len := fun bs => decide (8 ≤ bs.length),
    check := memWriteCheck, act := memWriteAct }
/-- `MEM_WRITE` (R412). -/
def execMemWrite (p : Packet) (s : State) : Res := runCommand cmdMemWrite p s

/-! ### `MEM_COPY` (R397, R412) -/

/-- An address of a copy without its host mark. -/
def rawAddr (a : Nat) : Nat := a % 2 ^ 63

/-- The regions that a device range crosses. -/
def regionsOf (s : State) (a n : Nat) : List Region :=
  if n = 0 then [] else (List.range (n / spSize + 2)).map fun k => regionAt s (min (a + k * spSize) (a + n - 1))

/-- Does a range of a copy name bytes that exist? A register is a range of its own (R259). -/
def rangeOk (s : State) (a n : Nat) (write : Bool) : Bool :=
  if isHost a then decide (rawAddr a + n ≤ 2 ^ 52)
  else decide (a + n ≤ 2 ^ 48) && (regionsOf s a n).all fun r => match r with
    | .hole => false
    | .reg => decide (n = 8 ∧ a % 8 = 0) && regAt s (a - regBase) != .none
    | .sp t => !(write && runsHere s (.sp t))
    | _ => true

/-- The ranges of `MEM_COPY`. -/
def memCopyCheck (s : State) (p : Packet) (_t : Tgt) : Option (Nat × Word) :=
  if !rangeOk s (pn p 0 8) (pn p 16 8) false then badAt 0
  else if !rangeOk s (pn p 8 8) (pn p 16 8) true then badAt 8
  else none

/-- The fused-off tiles whose windows a device range crosses (R5). -/
def absentTiles (s : State) (a n : Nat) : List Nat :=
  if isHost a then [] else (regionsOf s a n).filterMap fun r => match r with
    | .sp t => if tilesOn s ≤ t then some t else none
    | _ => none

/-- Is either end of a copy in host memory? -/
def copyHost (p : Packet) : Bool := isHost (pn p 0 8) || isHost (pn p 8 8)

/-- The fused-off unit of a register range of a copy (R5, R259). -/
def absentReg (s : State) (a n : Nat) : List (UnitKind × Nat) :=
  if n = 0 || isHost a || regionAt s a != .reg then []
  else match regAt s (a - regBase) with | .absent k i => [(k, i)] | _ => []

/-- The fused-off units that the ranges of a copy name (R5). -/
def copyAbsents (s : State) (p : Packet) : List (UnitKind × Nat) :=
  let n := pn p 16 8
  ((absentTiles s (pn p 0 8) n ++ absentTiles s (pn p 8 8) n).map fun t => (.tile, t)) ++ absentReg s (pn p 0 8) n ++ absentReg s (pn p 8 8) n

/-- `MEM_COPY` begins: a host source is asked for; without a link it fails (R397). -/
def memCopyAct (s : State) (p : Packet) (_t : Tgt) : State × Answer :=
  if copyHost p && s.vkx.state = 0 then (s, stat 9 0)
  else (if isHost (pn p 0 8) then askHost s (rawAddr (pn p 0 8)) (pn p 16 8) else s, later)
/-- `MEM_COPY`. -/
def cmdMemCopy : CmdDef :=
  { simple 0x0302 [lDie] [3, 4, 5, 6, 9] .A false 24 memCopyAct with check := memCopyCheck, absents := copyAbsents }
/-- `MEM_COPY` (R412). -/
def execMemCopy (p : Packet) (s : State) : Res := runCommand cmdMemCopy p s

/-- The source bytes of a copy. -/
def copyBytes (s : State) (a n : Nat) : List Byte :=
  if isHost a then hostRead s (rawAddr a) n
  else if regionAt s a == .reg then (readAt s a n).2.2
  else (spansOf a n).flatMap fun x => devRead s x.1 x.2

/-- The bytes of a copy are written, line by line: the first marked unit that was left as it is comes with the state (R138). -/
def copyTo (s : State) (a : Nat) (bs : List Byte) : State × Option Nat :=
  if isHost a then (hostWrite s (rawAddr a) bs, none)
  else if regionAt s a == .reg then ((writeAt s a bs).1, none)
  else (linePieces (bs.length / 64 + 2) a bs).foldl (fun r x =>
    let w := devWrite r.1 x.1 x.2
    (w.1, match r.2 with | some m => some m | none => w.2)) (s, none)

/-- The first line of a device source that cannot be read: its place and the detail. -/
def copyMark (s : State) (a n : Nat) : Option (Nat × Word) :=
  if isHost a || regionAt s a == .reg then none
  else (spansOf a n).findSome? fun x => (devMark s x.1 x.2).map fun m => (m, eccDetail (sourceOf (regionAt s m)) m)

/-- Can a byte of a copy's source not be read (R138, R396)? -/
def copyBad (s : State) (src k : Nat) : Bool :=
  if isHost src then (hostMark s (rawAddr src + k) 1).isSome else (devMark s (src + k) 1).isSome

/-- A copy that failed on its source (R138): which destination bytes it had written is free (log 4); none whose source read failed
is. -/
def copyPart (s : State) (c : PendCmd) : State :=
  let src := pn c.p 0 8
  let dst := pn c.p 8 8
  let new := copyBytes s src (pn c.p 16 8)
  let old := copyBytes s dst (pn c.p 16 8)
  let mix := (List.range new.length).map fun k => if freeBit s k && !copyBad s src k then nth 0 new k else nth 0 old k
  copyTo { s with free := s.free + new.length } dst mix |>.1

/-- Does a device range of a copy touch a far-tier link that is down (R263)? -/
def copyDown (s : State) (a n : Nat) : Bool := !isHost a && (spansOf a n).any fun x => farDown s x.1 x.2

/-- The device ranges of a copy: its source or its destination. -/
def copyRange (a n : Nat) : List (Nat × Nat) := if isHost a then [] else [(a, n)]

/-- The end of a copy whose source has come. -/
def copyEnd (s : State) (c : PendCmd) : State :=
  let src := pn c.p 0 8
  let dst := pn c.p 8 8
  let n := pn c.p 16 8
  if copyDown s src n || copyDown s dst n then completeCmd s c 9 0 []
  else if !rangeOk s dst n true then completeCmd s c 4 (refusal 40 3) []
  else match (if isHost src then hostMark s (rawAddr src) n else none), copyMark s src n with
  | some l, _ => dieFault (completeCmd (copyPart s c) c 9 (hostDetail l) []) 0x05
  | none, some m =>
    dieFault (completeCmd (noteMark (copyPart s c) m.1) c 9 m.2 []) 0x05
  | none, none =>
    let race := fun (k : Nat) => decide (src ≠ dst) && decide (dst ≤ src + k) && decide (src + k < dst + n)
    let bs := freeMix s race (copyBytes s src n)
    let s := if (List.range n).any race then { s with free := s.free + n } else s
    let w := copyTo s dst bs
    match w.2 with
    | some m => dieFault (completeCmd (noteMark w.1 m) c 9 (eccDetail (sourceOf (regionAt s m)) m) []) 0x05
    | none => completeCmd w.1 c 0 0 []

/-- `MEM_COPY_DONE` (R412): the copy waits for its host lines, for a link in training and for the snoops that it needs. -/
def execMemCopyDone (tag : BitVec 32) (s : State) : Res :=
  done s (match acceptedTag s 0x0302 tag with
    | none => s
    | some c =>
      let src := pn c.p 0 8
      let dst := pn c.p 8 8
      let n := pn c.p 16 8
      if (isHost src && hostPending s (rawAddr src) n) || (copyHost c.p && s.vkx.state = 1) then s
      else
        snoopGate (copyRange src n) (copyRange dst n) s
          (finishDrain (touchWrites hostClass (copyEnd (touchReads hostClass s (copyRange src n)) c) (copyRange dst n))))

/-! ### `LLM_MODE` and `CXL_RETRAIN` (R229, R230, R263) -/

/-- The masks of every slice: each keeps a way-group in cache mode (R229). -/
def llmModeCheck (s : State) (p : Packet) (_t : Tgt) : Option (Nat × Word) :=
  match (List.range 16).find? fun k => maskBad s k (nth 0 (masksOf p.payload) k) with
  | some k => badAt (2 * k)
  | none => none
/-- `LLM_MODE`. -/
def cmdLlmMode : CmdDef := { simple 0x0303 [lDie] [3, 4] .A false 32 (fun s _ _ => (s, later)) with check := llmModeCheck }
/-- `LLM_MODE` (R229, R230): it completes with `LLM_MODE_CHANGE_DONE`. -/
def execLlmMode (p : Packet) (s : State) : Res := runCommand cmdLlmMode p s

/-- The link mask of `CXL_RETRAIN`. -/
def cxlRetrainCheck (_s : State) (p : Packet) (_t : Tgt) : Option (Nat × Word) := if 15 < pn p 0 1 then badAt 0 else none
/-- `CXL_RETRAIN`. -/
def cmdCxlRetrain : CmdDef := { simple 0x0304 [lDie] [3, 4, 6] .A false 1 (fun s _ _ => (s, later)) with check := cxlRetrainCheck }
/-- `CXL_RETRAIN` (R263): it completes with `CXL_RETRAIN_COMPLETE`. -/
def execCxlRetrain (p : Packet) (s : State) : Res := runCommand cmdCxlRetrain p s

/-- A link that has been trained anew: up with what it reports, or down. -/
def retrainLink (up : List CxlDevice) (s : State) (k : Nat) : State :=
  match up.find? fun d => d.ok && decide (d.link.val = k) with
  | some d =>
    let s := setCxl s d
    if k < cxlLinks s then { s with mem := { s.mem with cxlDown := s.mem.cxlDown &&& ~~~(1#4 <<< k) } } else s
  | none =>
    if (rd {} s.mem.cxl k).present && decide (k < cxlLinks s) && !s.mem.cxlDown.getLsbD k then cxlLinkDown s k else s

/-- `CXL_RETRAIN_COMPLETE` (R263): access to what the devices hold is restored; a link that does not train is down. -/
def execCxlRetrainComplete (up : List CxlDevice) (s : State) : Res :=
  done s (match acceptedOf s 0x0304 with
    | none => s
    | some c =>
      let s := ((List.range 4).filter fun k => (pn c.p 0 1).testBit k).foldl (retrainLink up) s
      finishDrain (completeCmd s c 0 0 [cxlStatus s]))

/-! ### Numerics (R198, R199, R213) -/

/-- A program tile of the loaded program. -/
def isPtile (s : State) (p : Nat) : Bool := decide (p < progP s)
/-- The layer records declared for a program tile. -/
def recTotal (s : State) (p : Nat) : Nat := match s.prog with | some g => rd 0 g.recCount p | none => 0

/-- The program tile and the count of `CLOVE_READ`: a count past the last record is refused (R16). -/
def cloveReadCheck (s : State) (p : Packet) (_t : Tgt) : Option (Nat × Word) :=
  let total := recTotal s (pn p 0 2)
  let first := pn p 2 1
  let n := pn p 3 1
  if !isPtile s (pn p 0 2) then badAt 0
  else if n = 0 ∨ 63 < n ∨ (first < total ∧ total < first + n) then badAt 3
  else none
/-- The records from `first` on. -/
def cloveReadAct (s : State) (p : Packet) (_t : Tgt) : State × Answer :=
  let total := recTotal s (pn p 0 2)
  let first := pn p 2 1
  let n := if first < total then pn p 3 1 else 0
  let cl := (ctxOf s (pn p 0 2)).clove
  let next := first + n
  (s, { status := 0, detail := 0,
        result := [BitVec.ofNat 64 total, if next < total then BitVec.ofNat 64 next else 0xFFFFFFFF],
        data := (List.range n).flatMap fun i => recBytes (rd {} cl.records (first + i)) })
/-- `CLOVE_READ`. -/
def cmdCloveRead : CmdDef := { simple 0x0800 [lDie] [4, 5, 6, 7, 9] .S true 4 cloveReadAct with check := cloveReadCheck }
/-- `CLOVE_READ` (R198, R416). -/
def execCloveRead (p : Packet) (s : State) : Res := runCommand cmdCloveRead p s

/-- The checks of words 0 and 1 (R198, R199). -/
def cloveWriteCheck (s : State) (p : Packet) (_t : Tgt) : Option (Nat × Word) :=
  if !isPtile s (pn p 0 2) then badAt 0
  else if recTotal s (pn p 0 2) ≤ pn p 2 1 then badAt 2
  else if pn p 3 5 ≠ 0 then badAt 3
  else if bitsN (pn p 8 8) 16 5 ≠ 0 then badAt 10
  else if bitsN (pn p 16 8) 0 4 ≠ 0 then badAt 16
  else if !recValuesOk (pn p 8 8) then badAt 8
  else none
/-- Words 0 and 1 of a record are written (R199). -/
def cloveWriteAct (s : State) (p : Packet) (_t : Tgt) : State × Answer :=
  (modCtxOf s (pn p 0 2) fun c =>
    { c with clove := { c.clove with records := upd {} c.clove.records (pn p 2 1) fun r => setRecWords r (pn p 8 8) (pn p 16 8) } }, ok0)
/-- `CLOVE_WRITE`. -/
def cmdCloveWrite : CmdDef := { simple 0x0801 [lDie] [4, 6, 9] .S false 24 cloveWriteAct with check := cloveWriteCheck }
/-- `CLOVE_WRITE` (R199). -/
def execCloveWrite (p : Packet) (s : State) : Res := runCommand cmdCloveWrite p s

/-- The 32 bytes of a sample table entry (R213). -/
def sampleBytes (x : Sample) : List Byte :=
  natLe 8 x.cursor.toNat ++ natLe 8 x.kept.toNat ++ natLe 8 (x.tag.toNat * 2 ^ 48 + x.state.toNat * 2 ^ 32) ++ natLe 8 0
/-- `SAMPLE_READ`. -/
def cmdSampleRead : CmdDef :=
  simple 0x0802 [lDie] [4, 5, 6, 7, 9] .S true 2 fun s p _ =>
    (s, page ((List.range 512).map fun i => sampleBytes (rd {} s.samples i)) 32 (pn p 0 2))
/-- `SAMPLE_READ` (R213, R416). -/
def execSampleRead (p : Packet) (s : State) : Res := runCommand cmdSampleRead p s

/-! ### Diagnostics (R205, R240-R242, R256) -/

/-- The states in which each mode of `MARCH_RUN` may run (R240), and its mode. -/
def marchRunCheck (s : State) (p : Packet) (_t : Tgt) : Option (Nat × Word) :=
  let mode := pn p 10 1
  if mode = 1 && s.firm.state != .idle then some (wrongState s)
  else if mode ≠ 1 ∧ mode ≠ 2 then badAt 10
  else none
/-- The fused-off tiles that the mask names (R5). -/
def marchAbsents (s : State) (p : Packet) : List (UnitKind × Nat) :=
  ((List.range 64).filter fun t => (pn p 0 8).testBit t && decide (tilesOn s ≤ t)).map fun t => (.tile, t)
/-- The marches begin at every unit that the masks name (R240). -/
def marchRunAct (s : State) (p : Packet) (_t : Tgt) : State × Answer :=
  match allUnits.filter (marchNames p.payload) with
  | [] => (s, okR (marchResult s p.payload))
  | us => (us.foldl (fun s u => marchBegin s u (BitVec.ofNat 2 (pn p 10 1))) s, later)
/-- `MARCH_RUN`. -/
def cmdMarchRun : CmdDef := { simple 0x0901 [lDie] [3, 4, 6] .A false 11 marchRunAct with check := marchRunCheck, absents := marchAbsents }
/-- `MARCH_RUN` (R240): it completes with the `MARCH_COMPLETE` of its last unit. -/
def execMarchRun (p : Packet) (s : State) : Res := runCommand cmdMarchRun p s

/-- The 16 bytes of a repair log entry (R242). -/
def repairBytes (e : RepairEntry) : List Byte :=
  natLe 8 (e.kind.toNat * 2 ^ 60 + e.unit.toNat * 2 ^ 52 + e.bank.toNat * 2 ^ 47 + e.row.toNat * 2 ^ 34 + e.spare.toNat * 2 ^ 29
    + e.test.toNat * 2 ^ 26 + e.result.toNat * 2 ^ 24) ++ natLe 8 e.fec.toNat
/-- `REPAIR_LOG_READ`. -/
def cmdRepairLogRead : CmdDef :=
  simple 0x0902 [lDie] anyOf .S true 4 fun s p _ => (s, page (s.mem.repair.map repairBytes) 16 (pn p 0 4))
/-- `REPAIR_LOG_READ` (R242, R416). -/
def execRepairLogRead (p : Packet) (s : State) : Res := runCommand cmdRepairLogRead p s

/-- `RETIRED_READ`. -/
def cmdRetiredRead : CmdDef :=
  simple 0x0903 [lDie] anyOf .S true 4 fun s p _ => (s, page (s.mem.retired.map fun g => natLe 8 (256 * g)) 8 (pn p 0 4))
/-- `RETIRED_READ` (R256, R416). -/
def execRetiredRead (p : Packet) (s : State) : Res := runCommand cmdRetiredRead p s

/-- The 16 bytes of a die log entry (R205). -/
def ovfBytes (e : OvfEntry) : List Byte :=
  natLe 8 (e.layer.toNat * 2 ^ 48 + sc e.stream * 2 ^ 46 + e.source.toNat * 2 ^ 43 + bn e.applied * 2 ^ 42 + e.seq.toNat)
    ++ natLe 8 (e.step.toNat * 2 ^ 32 + e.block.toNat)
/-- `OVF_LOG_READ`. -/
def cmdOvfLogRead : CmdDef :=
  simple 0x0904 [lDie] anyOf .S true 4 fun s p _ => (s, page (s.ovfLog.map ovfBytes) 16 (pn p 0 4))
/-- `OVF_LOG_READ` (R205, R206, R416). -/
def execOvfLogRead (p : Packet) (s : State) : Res := runCommand cmdOvfLogRead p s

/-- The fence of a physical array is taken away (R116). -/
def arrayUnfenceAct (s : State) (_p : Packet) (t : Tgt) : State × Answer :=
  (modTile s (t.index / 4) fun x =>
    let f := x.fenced &&& ~~~(1#4 <<< (t.index % 4))
    { x with fenced := f, fencedMode := x.fencedMode && f != 0 }, ok0)
/-- `ARRAY_UNFENCE`. -/
def cmdArrayUnfence : CmdDef := simple 0x0906 [lArray] [3, 4, 6] .S false 0 arrayUnfenceAct
/-- `ARRAY_UNFENCE` (R116, R412). -/
def execArrayUnfence (p : Packet) (s : State) : Res := runCommand cmdArrayUnfence p s

/-! ### Snapshots (R349) -/

/-- Offsets that stand in a row. -/
def row (base step n : Nat) : List Nat := (List.range n).map fun i => base + step * i

/-- The counters and tallies of a tile block (R64, R119, R162, R190, R219, R224, R227, R350). -/
def snapTile : List Nat :=
  row 0x040 8 3 ++ row 0x060 8 3 ++ row 0x080 8 3 ++ row 0x0A0 8 4 ++ row 0x200 8 3
    ++ (List.range 4).flatMap (fun n => [0x340 + 32 * n, 0x348 + 32 * n, 0x358 + 32 * n])
    ++ [0x428, 0x430, 0x438, 0x508] ++ row 0x600 8 4 ++ [0x620, 0x628, 0x630] ++ row 0x700 8 16

/-- The offsets of the registers that a snapshot captures, ascending by block (R349). -/
def snapOffsets (s : State) : List Nat :=
  [0x058, 0x108]
    ++ (List.range 16).flatMap (fun k => row (0x800008 + 0x1000 * k) 8 6)
    ++ (List.range 8).flatMap (fun k => (0x900000 + 0x1000 * k + 8) :: (0x900000 + 0x1000 * k + 0x10) :: row (0x900020 + 0x1000 * k) 8 2)
    ++ row 0x908008 8 4 ++ row 0x910008 8 2 ++ row 0x920040 8 9
    ++ (List.range (portsOn s)).flatMap (fun p => row (0x930028 + 0x1000 * p) 8 4)
    ++ (List.range (axesOn s)).flatMap (fun a => row (0x940040 + 0x1000 * a) 8 5)
    ++ [0x950000] ++ row 0x960000 8 1024 ++ row 0x964000 8 16 ++ row 0x980020 8 2 ++ row 0x990018 8 4
    ++ (List.range (tilesOn s)).flatMap (fun t => snapTile.map (· + (0x1000000 + 0x10000 * t)))

/-- The values of the captured registers now. -/
def snapRegs (s : State) : Table Word :=
  (snapOffsets s).foldl (fun m o => match regAt s o with | .value w => wr 0 m o w | _ => m) []

/-- The buffer that a capture goes to (R349): the one that awaits it, a free one, else the one with the oldest epoch, of those
that hold a capture before those that wait. -/
def snapBuffer (s : State) (id : BitVec 16) (epoch : Word) : Nat :=
  let at_ := fun i => rd {} s.time.snaps i
  let age := fun i => (if (at_ i).waits then 2 ^ 64 else 0) + (at_ i).epoch.toNat
  match (List.range 4).find? fun i => (at_ i).waits && (at_ i).id == id && (at_ i).epoch == epoch with
  | some i => i
  | none =>
    match (List.range 4).find? fun i => at_ i == {} with
    | some i => i
    | none => [1, 2, 3].foldl (fun b i => if age i < age b then i else b) 0

/-- The capture (R349). -/
def snapshotAct (s : State) (p : Packet) (_t : Tgt) : State × Answer :=
  let id := BitVec.ofNat 16 (pn p 0 2)
  let x : Snapshot := { id := id, epoch := if p.fireAt = 0 then fec s else p.fireAt, done := true, regs := snapRegs s }
  ({ s with time := { s.time with snaps := wr {} s.time.snaps (snapBuffer s id p.fireAt) x } }, ok0)
/-- `SNAPSHOT_AT`. -/
def cmdSnapshotAt : CmdDef := simple 0x0602 [lDie, lSlice] [3, 4, 5, 6, 7, 8, 9] .E false 2 snapshotAct
/-- `SNAPSHOT_AT` (R349). -/
def execSnapshotAt (p : Packet) (s : State) : Res := runCommand cmdSnapshotAt p s

/-- The newest capture with an ID. -/
def snapOf (s : State) (id : Nat) : Option Snapshot :=
  (s.time.snaps.map Prod.snd).foldl (fun m x =>
    if x.done && decide (x.id.toNat = id) && m.all (fun (y : Snapshot) => decide (y.epoch.toNat ≤ x.epoch.toNat)) then some x else m) none

/-- The end of the block of registers that an offset lies in (R258). -/
def blockEnd (o : Nat) : Nat :=
  if 0x1000000 ≤ o then (o / 0x10000 + 1) * 0x10000 else if 0x960000 ≤ o ∧ o < 0x962000 then 0x962000 else (o / 0x1000 + 1) * 0x1000

/-- The ID and the block of `SNAPSHOT_READ`. -/
def snapshotReadCheck (s : State) (p : Packet) (_t : Tgt) : Option (Nat × Word) :=
  let o := pn p 4 4
  if (snapOf s (pn p 0 2)).isNone then badAt 0
  else if pn p 2 2 ≠ 0 then badAt 2
  else if o % 8 ≠ 0 || (regAt s o == .none && !(snapOffsets s).any fun x => decide (o ≤ x ∧ x < blockEnd o)) then badAt 4
  else none
/-- The captured values of a block from an offset on, ascending, with their number (R416). -/
def snapshotReadAct (s : State) (p : Packet) (_t : Tgt) : State × Answer :=
  let o := pn p 4 4
  match regAt s o, snapOf s (pn p 0 2) with
  | .absent k i, _ => (countAbsent s k i, stat 6 0)
  | _, none => (s, ok0)
  | _, some x =>
    (s, page (((snapOffsets s).filter fun y => decide (o ≤ y ∧ y < blockEnd o)).map fun y => natLe 8 (rd 0 x.regs y).toNat) 8 0)
/-- `SNAPSHOT_READ`. -/
def cmdSnapshotRead : CmdDef := { simple 0x0905 [lDie] anyOf .S true 8 snapshotReadAct with check := snapshotReadCheck }
/-- `SNAPSHOT_READ` (R349, R412). -/
def execSnapshotRead (p : Packet) (s : State) : Res := runCommand cmdSnapshotRead p s

end Sys2Proof.Machine
end

