-- ==== Sys2Proof/Machine/FabCmd.lean ====
section
/-! DEFINITION. The commands of the fabric, the collective engines and time (R279, R280, R297, R300-R302, R304, R324, R325,
R341, R347, R412, R415, R438). -/

namespace Sys2Proof.Machine

/-! ### `SLICE_SET` (R279, R280, R415) -/

/-- The payload of `SLICE_SET` holds as many entries as it counts (R415). -/
def sliceLen (bs : List Byte) : Bool := decide (8 ≤ bs.length) && bs.length == 8 + 12 * (nth 0 bs 0).toNat

/-- Entry `j` of a `SLICE_SET`. -/
def declAt (p : Packet) (j : Nat) : SliceDecl :=
  let o := 8 + 12 * j
  { number := BitVec.ofNat 6 (pn p o 1), start := (List.range 4).map fun a => pn p (o + 2 + a) 1,
    ext := (List.range 4).map fun a => pn p (o + 6 + a) 1 }

/-- The layout of a `SLICE_SET`. -/
def declsOf (p : Packet) : List SliceDecl := (List.range (pn p 0 1)).map (declAt p)

/-- The modules on an axis of the machine. -/
def axisLen (s : State) (a : Nat) : Nat := max 1 (extOn s.fab.extent a)

/-- What is wrong with an entry by itself: a number, a reserved byte, a start or an extent (R415). -/
def declFault (s : State) (p : Packet) (j : Nat) : Option (Nat × Word) :=
  let o := 8 + 12 * j
  let d := declAt p j
  if pn p o 1 = 0 ∨ 63 < pn p o 1 then badAt o
  else if pn p (o + 1) 1 ≠ 0 then badAt (o + 1)
  else match (List.range 4).find? fun a => axisLen s a ≤ nth 0 d.start a with
  | some a => badAt (o + 2 + a)
  | none => match (List.range 4).find? fun a => nth 0 d.ext a = 0 ∨ axisLen s a < nth 0 d.ext a with
    | some a => badAt (o + 6 + a)
    | none => if pn p (o + 10) 2 ≠ 0 then badAt (o + 10) else none

/-- Do two slices share a module? -/
def sliceOverlap (s : State) (x y : SliceDecl) : Bool :=
  (List.range 4).all fun a =>
    let n := axisLen s a
    (List.range n).any fun c => (c + n - nth 0 x.start a) % n < nth 1 x.ext a && (c + n - nth 0 y.start a) % n < nth 1 y.ext a

/-- Does an entry repeat a number or meet a slice before it? -/
def declClash (s : State) (p : Packet) (j : Nat) : Bool :=
  (List.range j).any fun i => (declAt p i).number == (declAt p j).number || sliceOverlap s (declAt p i) (declAt p j)

/-- Does a link of this module inside a slice keep no strand that can carry its packets (R280)? -/
def layoutBreaks (s : State) (ds : List SliceDecl) : Bool :=
  (List.range (portsOn s)).any fun p =>
    (linkSlice { s with fab := { s.fab with slices := ds } } p).isSome &&
      !(portUp s p && (strandsOf p).any fun k => !eFailed (strandAt s k).entry)

/-- The rules of R415. -/
def sliceSetCheck (s : State) (p : Packet) (_t : Tgt) : Option (Nat × Word) :=
  let js := List.range (pn p 0 1)
  if 63 < pn p 0 1 then badAt 0
  else if pn p 1 7 ≠ 0 then badAt 1
  else match js.findSome? (declFault s p) with
  | some f => some f
  | none => match js.find? (declClash s p) with
    | some j => badAt (8 + 12 * j)
    | none => if layoutBreaks s (declsOf p) then badAt 8 else none

/-- A strand takes the entry of the layout (R279), whatever change of it was under way; copies that a changed one still held go on
elsewhere. -/
def layoutStrand (s : State) (k : Nat) : State :=
  let x := strandAt s k
  let e := layoutEntry s k
  if x.entry = e then modStrand s k fun x => { x with differ := 0, change := none }
  else
    let s := { s with fab := { s.fab with reroute := s.fab.reroute ++ x.replay.map (·.c) } }
    modStrand s k fun x => { x with entry := e, differ := 0, change := none, replay := [] }

/-- A layout takes effect (R279, R302): the order state and the dead list are cleared; a module in another slice than before
starts with that slice's quench state. -/
def sliceSetAct (s : State) (p : Packet) (_t : Tgt) : State × Answer :=
  let ds := declsOf p
  let own := match ds.find? fun d => inSlice s.fab.extent d s.fab.node.toNat with | some d => d.number | none => 0
  let q : Quench := if own = s.fab.own then { s.fab.quench with dead := [], lastDead := none, overflow := false } else {}
  let s := { s with fab := { s.fab with slices := ds, own := own, order := [], quench := q } }
  ((List.range (4 * portsOn s)).foldl layoutStrand s, ok0)
/-- `SLICE_SET`. -/
def cmdSliceSet : CmdDef :=
  { op := 0x0400, levels := [lDie], states := [3], kind := .E, reads := false, len := sliceLen, check := sliceSetCheck,
    act := sliceSetAct }
/-- `SLICE_SET` (R279, R415). -/
def execSliceSet (p : Packet) (s : State) : Res := runCommand cmdSliceSet p s

/-! ### Circuits and transit (R297, R300, R301) -/

/-- The payload of a path command holds as many hops as it counts (R297). -/
def pathLen (bs : List Byte) : Bool := decide (8 ≤ bs.length) && bs.length == 8 + (nth 0 bs 1).toNat

/-- The hops of a path command. -/
def hopsOf (p : Packet) : List Byte := p.payload.drop 8

/-- What is wrong with a path by itself (R296, R297). -/
def pathFault (p : Packet) : Option (Nat × Word) :=
  let h := pn p 1 1
  if pn p 0 1 = 0 ∨ 63 < pn p 0 1 then badAt 0
  else if h = 0 ∨ 64 < h then badAt 1
  else if pn p 4 4 ≠ 0 then badAt 4
  else match (List.range h).find? fun i => 32 ≤ pn p (8 + i) 1 with
  | some i => badAt (8 + i)
  | none => if !hopsInOrder (hopsOf p) then badAt 8 else none

/-- The absent port that the first hop of a path names (R5). -/
def hopAbsents (s : State) (p : Packet) : List (UnitKind × Nat) :=
  let k := hopStrand (nth 0 (hopsOf p) 0) / 4
  if unitOn s .port k then [] else [(.port, k)]

/-- `CIRCUIT_OPEN` sends its setup, or fails on the first hop (R297). -/
def circuitOpenAct (s : State) (p : Packet) (_t : Tgt) : State × Answer :=
  let r := openCircuit s (BitVec.ofNat 6 (pn p 0 1)) (BitVec.ofNat 16 (pn p 2 2)) (hopsOf p) p.tag false
  if r.2 ≠ 0 then (s, stat 4 (hopDetail 0 r.2)) else (r.1, later)
/-- `CIRCUIT_OPEN`. -/
def cmdCircuitOpen : CmdDef :=
  { op := 0x0401, levels := [lDie], states := [3, 4, 5, 6], kind := .A, reads := false, len := pathLen,
    check := fun _ p _ => pathFault p, act := circuitOpenAct, absents := hopAbsents }
/-- `CIRCUIT_OPEN` (R297). -/
def execCircuitOpen (p : Packet) (s : State) : Res := runCommand cmdCircuitOpen p s

/-- The handle of a word. -/
def handleIn (w : Nat) : Handle := { node := BitVec.ofNat 16 (w % 2 ^ 16), strand := BitVec.ofNat 5 (w / 2 ^ 16) }

/-- An open circuit that host software opened from this module. -/
def hostCircuit (s : State) (w : Nat) : Option Circuit :=
  if w < 2 ^ 21 then (circuitAt s (handleIn w)).filter fun c => c.source && c.isOpen && !c.mirror else none

/-- Is an item bound to a circuit (R300): on it, or on a channel that it serves? -/
def circuitBusy (s : State) (c : Circuit) : Bool :=
  !c.items.isEmpty || (List.range 32).any fun i =>
    let x := chanAt s (i / 8) (i % 8)
    (x.plus.contains c.handle || x.minus.contains c.handle) && !x.items.isEmpty

/-- The handle of `CIRCUIT_CLOSE`. -/
def circuitCloseCheck (s : State) (p : Packet) (_t : Tgt) : Option (Nat × Word) :=
  match hostCircuit s (pn p 0 4) with
  | none => badAt 0
  | some c => if circuitBusy s c then some (wrongState s) else none
/-- The release goes along the path (R300). -/
def circuitCloseAct (s : State) (p : Packet) (_t : Tgt) : State × Answer :=
  match hostCircuit s (pn p 0 4) with
  | none => (s, stat 4 (refusal 32 3))
  | some c => (dropCircuit (releasePath s c) c.handle, later)
/-- `CIRCUIT_CLOSE`. -/
def cmdCircuitClose : CmdDef :=
  { simple 0x0402 [lDie] [3, 4, 5, 6] .A false 4 circuitCloseAct with check := circuitCloseCheck }
/-- `CIRCUIT_CLOSE` (R300). -/
def execCircuitClose (p : Packet) (s : State) : Res := runCommand cmdCircuitClose p s

/-- The payload of a transit command (R301). -/
def transitFault (s : State) (p : Packet) : Option (Nat × Word) :=
  match pathFault p with
  | some f => some f
  | none => if (sliceNo s (pn p 0 1)).isNone then badAt 0 else if pn p 2 2 ≠ s.fab.node.toNat then badAt 2 else none

/-- `TRANSIT_GRANT`: the first strand changes here, and the grant goes along the list (R301). -/
def transitGrantAct (s : State) (p : Packet) (_t : Tgt) : State × Answer :=
  let m := transitPath s p (BitVec.ofNat 6 (pn p 0 1))
  let r := transitHop s none m
  if r.2 ≠ 0 then (s, stat 4 (hopDetail 0 r.2)) else (r.1, later)
/-- `TRANSIT_GRANT`. -/
def cmdTransitGrant : CmdDef :=
  { op := 0x0403, levels := [lDie], states := [3, 4, 5, 6], kind := .A, reads := false, len := pathLen,
    check := fun s p _ => transitFault s p, act := transitGrantAct, absents := hopAbsents }
/-- `TRANSIT_GRANT` (R301). -/
def execTransitGrant (p : Packet) (s : State) : Res := runCommand cmdTransitGrant p s

/-- A revoke is refused while a circuit uses the strand (R301). -/
def transitRevokeCheck (s : State) (p : Packet) (_t : Tgt) : Option (Nat × Word) :=
  match transitFault s p with
  | some f => some f
  | none => if strandUsed s (hopStrand (nth 0 (hopsOf p) 0)) then some (wrongState s) else none
/-- `TRANSIT_REVOKE`: the first strand goes back to the layout's mode (R301; log 21). -/
def transitRevokeAct (s : State) (p : Packet) (_t : Tgt) : State × Answer :=
  let m := transitPath s p 0
  let r := transitHop s none m
  if r.2 ≠ 0 then (s, stat 5 (wrongState s).2) else (r.1, later)
/-- `TRANSIT_REVOKE`. -/
def cmdTransitRevoke : CmdDef :=
  { op := 0x0404, levels := [lDie], states := [3, 4, 5, 6], kind := .A, reads := false, len := pathLen,
    check := transitRevokeCheck, act := transitRevokeAct, absents := hopAbsents }
/-- `TRANSIT_REVOKE` (R301). -/
def execTransitRevoke (p : Packet) (s : State) : Res := runCommand cmdTransitRevoke p s

/-! ### Quench (R302, R438) -/

/-- The reasons that the command takes (R438). -/
def quenchCheck (_s : State) (p : Packet) (_t : Tgt) : Option (Nat × Word) := if 1 < pn p 0 1 then badAt 0 else none
/-- The anchor quenches its slice. -/
def quenchAct (s : State) (p : Packet) (_t : Tgt) : State × Answer :=
  let s := quenchFault (sendQuench s (pn p 0 1) none) (pn p 0 1)
  (s, okR [s.fab.quench.number.setWidth 64])
/-- `QUENCH`. -/
def cmdQuench : CmdDef := { simple 0x0405 [lSlice] [4, 5, 6, 7, 8, 9] .S false 1 quenchAct with check := quenchCheck }
/-- `QUENCH` (R302, R438). -/
def execQuench (p : Packet) (s : State) : Res := runCommand cmdQuench p s

/-- The anchor lifts the quench; there may be none. -/
def unquenchAct (s : State) (_p : Packet) (_t : Tgt) : State × Answer :=
  (if s.fab.quench.on then liftQuench s none else s, ok0)
/-- `UNQUENCH`. -/
def cmdUnquench : CmdDef := simple 0x0406 [lSlice] [4, 5, 6, 7, 8, 9] .S false 0 unquenchAct
/-- `UNQUENCH` (R302). -/
def execUnquench (p : Packet) (s : State) : Res := runCommand cmdUnquench p s

/-! ### `PORT_RETRAIN` (R304) -/

/-- The ports that a mask names. -/
def maskPorts (p : Packet) : List Nat := (List.range 8).filter fun i => (pn p 0 1).testBit i

/-- A strand is dropped for a retraining: its copies and containers go on elsewhere, its circuits break (R304). -/
def dropStrand (s : State) (k : Nat) : State :=
  let x := strandAt s k
  let s := { s with fab := { s.fab with reroute := s.fab.reroute ++ x.replay.map (·.c) ++ x.inbuf } }
  let s := modStrand s k fun x => { x with replay := [], inbuf := [], change := none }
  let s := match x.out with | some r => breakCircuit s r k | none => s
  match x.inn with | some r => breakCircuit s r k | none => s

/-- A port goes into training (R309). -/
def beginTrain (s : State) (p : Nat) : State :=
  (strandsOf p).foldl dropStrand (modPort s p fun x => { x with state := 2 })

/-- The fused-off ports of a mask (R5). -/
def portAbsents (s : State) (p : Packet) : List (UnitKind × Nat) :=
  ((maskPorts p).filter fun i => decide (portsOn s ≤ i)).map fun i => (.port, i)
/-- The ports of a mask begin to train. -/
def portRetrainAct (s : State) (p : Packet) (_t : Tgt) : State × Answer :=
  if (maskPorts p).isEmpty then (s, ok0) else ((maskPorts p).foldl beginTrain s, later)
/-- `PORT_RETRAIN`. -/
def cmdPortRetrain : CmdDef := { simple 0x0407 [lDie] [3, 4] .A false 1 portRetrainAct with absents := portAbsents }
/-- `PORT_RETRAIN` (R304). -/
def execPortRetrain (p : Packet) (s : State) : Res := runCommand cmdPortRetrain p s

/-- A port as its training leaves it: its strands take the layout's entries (R279); lost ones raise events, and a link of the
slice without a packet strand faults the slice (R280). -/
def endTrain (r : List PortTrain) (s : State) (p : Nat) : State :=
  let none_ : PortTrain := { port := Fin.ofNat 8 p, trained := false, failed := 0xF, txSpare := 0x1F, rxSpare := 0x1F }
  let s := trainPort s ((r.find? fun x => decide (x.port.val = p)).getD none_)
  let s := drainWait (drainWait s (Fin.ofNat 8 p) 0) (Fin.ofNat 8 p) 1
  let s := (strandsOf p).foldl (fun s k => modStrand s k fun x => { x with entry := layoutEntry s k }) s
  let s := if !portUp s p then linkEvent s (4 * p) 0
    else ((strandsOf p).filter fun k => eFailed (strandAt s k).entry).foldl (fun s k => linkEvent s k 0) s
  if linkSlice s p == some (ownSlice s) && !(portUp s p && (strandsOf p).any (servesPackets s s.fab.own)) then
    quenchFault (sendQuench s 3 none) 3
  else s

/-- The states of the first three ports of a mask: a completion has three result words (R403; log 29). -/
def portResult (s : State) (p : Packet) : List Word := ((maskPorts p).take 3).map (portStatus s)

/-- `PORT_RETRAIN_COMPLETE` (R304). -/
def execPortRetrainComplete (r : List PortTrain) (s : State) : Res :=
  done s (match acceptedOf s 0x0407 with
    | none => s
    | some c =>
      let s := (maskPorts c.p).foldl (endTrain r) s
      finishDrain (completeCmd s c 0 0 (portResult s c.p)))

/-! ### `CE_BIND` (R324, R325, R415) -/

/-- The payload of `CE_BIND` holds as many handles as it counts. -/
def bindLen (bs : List Byte) : Bool := decide (8 ≤ bs.length) && bs.length == 8 + 4 * ((nth 0 bs 1).toNat + (nth 0 bs 2).toNat)

/-- The members of the ring on an axis, and this module's number among them (R324). -/
def ringSize (s : State) (ax : Nat) : Nat := nth 1 (ownSlice s).ext ax
/-- This module's number on the ring. -/
def ringPos (s : State) (ax : Nat) : Nat := relCoord s.fab.extent (ownSlice s) s.fab.node.toNat ax
/-- The node of a member of the ring. -/
def ringNode (s : State) (ax q : Nat) : Nat :=
  nodeOf s.fab.extent fun a =>
    if a = ax then (nth 0 (ownSlice s).start a + q) % axisLen s a else coordOn s.fab.coords a

/-- Is a handle word one of an open circuit of the slice to a member of the ring (R415)? -/
def bindable (s : State) (ax q w : Nat) : Bool :=
  (hostCircuit s w).any fun (c : Circuit) => c.handle.node == s.fab.node && c.slice == s.fab.own && decide (c.dst.toNat = ringNode s ax q)

/-- The handle words of a bind, + first. -/
def bindWord (p : Packet) (j : Nat) : Nat := pn p (8 + 4 * j) 4

/-- The rules of R324, R325 and R415. -/
def ceBindCheck (s : State) (p : Packet) (t : Tgt) : Option (Nat × Word) :=
  let n := ringSize s t.index
  let q := ringPos s t.index
  let np := pn p 1 1
  let nm := pn p 2 1
  let okCount := fun (k : Nat) => if n = 1 then k = 0 else 1 ≤ k ∧ k ≤ 3
  if 7 < pn p 0 1 then badAt 0
  else if !decide (okCount np) then badAt 1
  else if !decide (okCount nm) then badAt 2
  else if pn p 3 5 ≠ 0 then badAt 3
  else match (List.range (np + nm)).find? fun j =>
      !bindable s t.index (if j < np then (q + 1) % n else (q + n - 1) % n) (bindWord p j) with
    | some j => badAt (8 + 4 * j)
    | none => if !(chanAt s t.index (pn p 0 1)).items.isEmpty then some (7, 0) else none

/-- A channel is bound (R324); its item numbers go on (R329). -/
def ceBindAct (s : State) (p : Packet) (t : Tgt) : State × Answer :=
  let np := pn p 1 1
  let hs := fun (a b : Nat) => (List.range b).map fun j => handleIn (bindWord p (a + j))
  (modChan s t.index (pn p 0 1) fun c =>
    { c with bound := true, n := ringSize s t.index, pos := ringPos s t.index, plus := hs 0 np, minus := hs np (pn p 2 1) }, ok0)
/-- `CE_BIND`. -/
def cmdCeBind : CmdDef :=
  { op := 0x0500, levels := [lAxis], states := [4, 6], kind := .S, reads := false, len := bindLen, check := ceBindCheck,
    act := ceBindAct }
/-- `CE_BIND` (R324, R415). -/
def execCeBind (p : Packet) (s : State) : Res := runCommand cmdCeBind p s

/-- The channel of `CE_UNBIND`. -/
def ceUnbindCheck (s : State) (p : Packet) (t : Tgt) : Option (Nat × Word) :=
  if 7 < pn p 0 1 then badAt 0 else if !(chanAt s t.index (pn p 0 1)).items.isEmpty then some (7, 0) else none
/-- A channel is free of its circuits. -/
def ceUnbindAct (s : State) (p : Packet) (t : Tgt) : State × Answer :=
  (modChan s t.index (pn p 0 1) fun c => { next := c.next }, ok0)
/-- `CE_UNBIND`. -/
def cmdCeUnbind : CmdDef := { simple 0x0501 [lAxis] [4, 6] .S false 1 ceUnbindAct with check := ceUnbindCheck }
/-- `CE_UNBIND` (R412, R415). -/
def execCeUnbind (p : Packet) (s : State) : Res := runCommand cmdCeUnbind p s

/-! ### Time (R341, R347, R348) -/

/-- The whole seconds that the 64-bit counter can hold. -/
def timeSetCheck (_s : State) (p : Packet) (_t : Tgt) : Option (Nat × Word) :=
  if 2 ^ 64 < (pn p 0 8 + 1) * 10 ^ 9 then badAt 0 else none
/-- The whole-second count is given (R341): the counter keeps its part of a second. -/
def timeSetAct (s : State) (p : Packet) (_t : Tgt) : State × Answer :=
  let v : Nat := 16 * (pn p 0 8 * 10 ^ 9 + s.time.fec.toNat % 10 ^ 9) + s.time.fecFrac.toNat
  let s := stepTo s v
  (rootMaster { s with time := { s.time with given := true } }, ok0)
/-- `TIME_SET`. -/
def cmdTimeSet : CmdDef := { simple 0x0600 [lDie] [2, 3] .S false 8 timeSetAct with check := timeSetCheck }
/-- `TIME_SET` (R341). -/
def execTimeSet (p : Packet) (s : State) : Res := runCommand cmdTimeSet p s

/-- The entries of a tag leave the epoch queue (R347). -/
def timeCancelAct (s : State) (p : Packet) (_t : Tgt) : State × Answer :=
  let tag := BitVec.ofNat 32 (pn p 0 4)
  let es := s.time.epochQ.filter fun e => e.p.tag = tag
  let s := { s with time := { s.time with epochQ := s.time.epochQ.filter fun e => e.p.tag ≠ tag } }
  (es.foldl (fun s e => endEntry s e 9 2) s, okR [BitVec.ofNat 64 es.length])
/-- `TIME_CANCEL`. -/
def cmdTimeCancel : CmdDef := simple 0x0601 [lDie, lSlice] anyOf .S false 4 timeCancelAct
/-- `TIME_CANCEL` (R347). -/
def execTimeCancel (p : Packet) (s : State) : Res := runCommand cmdTimeCancel p s

end Sys2Proof.Machine
end

