-- ==== Sys2Proof/Machine/HamperCmd.lean ====
section
/-! DEFINITION. The commands of the Hamper (R366, R371-R376, R381, R383, R384, R412, R415). -/

namespace Sys2Proof.Machine

/-! ### Arming (R372) -/

/-- The bytes of a generation of the loaded program. -/
def ownGenBytes (s : State) : Nat := match s.prog with | some p => (planExtents p).foldl (fun n x => n + x.len) 0 | none => 0

/-- The bytes that the deletions of R371 would free when a new generation became `COMPLETE`. -/
def deletable (s : State) : Nat :=
  let n := nextGenNo (highestGen s)
  let s' := modHamper s fun h => { h with gens := insKey n.toNat { state := .complete } h.gens }
  ((automaticDeletes s').filter fun m => m ≠ n).foldl (fun t m =>
    t + (match genAt s m with | some g => genBytes g | none => 0) + (match mirrorAt s m with | some g => genBytes g | none => 0)) 0

/-- Free user capacity in bytes, three to a cell block of TLC (R388; log 19). -/
def freeUser (s : State) : Nat := freeBlocks s * 0xC00000

/-- A refusal that no payload byte causes names the opcode. -/
def badHere : Option (Nat × Word) := some (4, refusal 24 3)

/-- The conditions of R372, with R415. -/
def armCheck (s : State) (p : Packet) (_t : Tgt) : Option (Nat × Word) :=
  let rule := BitVec.ofNat 8 (pn p 0 1)
  let mirror := (pn p 1 1).testBit 0
  let need := ownGenBytes s + (if mirror && (mirrorSource s rule).isSome then ownGenBytes s else 0)
  if s.hamper.state = 4 then some (wrongState s)
  else if !(s.prog.any fun (g : Prog) => g.trees.any fun d => d.step) then badHere
  else if s.hamper.arm.isSome then badHere
  else if !buddyAllowed s rule || (mirror && rule = 0xFF) then badAt 0
  else if 3 < pn p 1 1 then badAt 1
  else if pn p 2 6 ≠ 0 then badAt 2
  else if freeUser s + deletable s < need then badHere
  else none

/-- The arm is pending (R372): it completes with its generation (R375). -/
def armAct (s : State) (p : Packet) (_t : Tgt) : State × Answer :=
  let a : Arm := { tag := p.tag, route := p.route, epoch := p.fireAt, buddy := BitVec.ofNat 8 (pn p 0 1),
                   mirror := (pn p 1 1).testBit 0, exported := (pn p 1 1).testBit 1, gen := none }
  (modHamper s fun h => { h with arm := some a }, later)
/-- `HAMPER_ARM`. -/
def cmdHamperArm : CmdDef := { simple 0x0700 [lSlice] [4, 5, 6] .E false 8 armAct with check := armCheck }
/-- `HAMPER_ARM` (R372, R415). -/
def execHamperArm (p : Packet) (s : State) : Res := runCommand cmdHamperArm p s

/-- A disarm needs a pending arm (R372). -/
def disarmCheck (s : State) (_p : Packet) (_t : Tgt) : Option (Nat × Word) :=
  if s.hamper.arm.isNone then some (wrongState s) else none
/-- `HAMPER_DISARM`. -/
def cmdHamperDisarm : CmdDef :=
  { simple 0x0701 [lSlice] [4, 5, 6, 7] .S false 0 (fun s _ _ => (dropArm s, ok0)) with check := disarmCheck }
/-- `HAMPER_DISARM` (R372). -/
def execHamperDisarm (p : Packet) (s : State) : Res := runCommand cmdHamperDisarm p s

/-! ### Restore (R381, R382) -/

/-- A generation number of a payload. -/
def genIn (p : Packet) : BitVec 32 := BitVec.ofNat 32 (pn p 0 4)

/-- Does a local generation fit the loaded program and the module's place (R381)? -/
def genFits (s : State) (g : Gen) : Bool :=
  let d := ownSlice s
  s.prog.any fun (p : Prog) => p.digest == g.image && p.seed == g.seed &&
    decide (g.coords = (List.range 4).map fun a => relCoord s.fab.extent d s.fab.node.toNat a)

/-- The cases of R381. What the buddy of a module without a local copy holds is free (log 4). -/
def restoreCheck (s : State) (p : Packet) (_t : Tgt) : Option (Nat × Word) :=
  if restoreLocal s (genIn p) then
    (if (genAt s (genIn p)).any fun (g : Gen) => genFits s g then none else badAt 0)
  else if pn p 0 4 ≠ 0 && freeBit s 0 then none
  else badAt 0
/-- The module enters `RESTORE` (R382). -/
def restoreAct (s : State) (p : Packet) (_t : Tgt) : State × Answer :=
  let j : HJob := { gen := genIn p, next := 0, tag := p.tag, route := p.route, base := 0, host := false, since := s.time.cycle,
                    paused := false, failed := none }
  (setState (modHamper s fun h =>
    { h with restore := some j, state := if h.state = 4 then 4 else 3, background := false }) .restore, later)
/-- `HAMPER_RESTORE`. -/
def cmdHamperRestore : CmdDef := { simple 0x0702 [lSlice] [4] .A false 4 restoreAct with check := restoreCheck }
/-- `HAMPER_RESTORE` (R381, R382). -/
def execHamperRestore (p : Packet) (s : State) : Res := runCommand cmdHamperRestore p s

/-! ### Export (R383) -/

/-- The bytes that an export writes. -/
def exportBytes (g : Gen) : Nat := exportOffset g ((dataExtents g).length + 1)

/-- The generation and the range of an export (R383). -/
def exportCheck (s : State) (p : Packet) (_t : Tgt) : Option (Nat × Word) :=
  let a := pn p 8 8
  let n := pn p 16 8
  if s.hamper.state = 0 then some (wrongState s)
  else match (genAt s (genIn p)).filter fun g => isComplete g.state with
  | none => badAt 0
  | some g =>
    if 1 < pn p 4 1 then badAt 4
    else if pn p 5 3 ≠ 0 then badAt 5
    else if n < exportBytes g then badAt 16
    else if pn p 4 1 = 0 then (if 2 ^ 52 < a + n then badAt 8 else none)
    else if !(decide (a + n ≤ 2 ^ 48) && inRegion s a n .far) then badAt 8
    else none
/-- The export begins; one to host memory needs the link (R397). -/
def exportAct (s : State) (p : Packet) (_t : Tgt) : State × Answer :=
  let j : HJob := { gen := genIn p, next := 0, tag := p.tag, route := p.route, base := pn p 8 8, host := pn p 4 1 = 0,
                    since := s.time.cycle, paused := false, failed := none }
  if j.host && s.vkx.state = 0 then (s, stat 9 5)
  else (modHamper s fun h => { h with copyOut := some j, background := false }, later)
/-- `HAMPER_EXPORT`. -/
def cmdHamperExport : CmdDef :=
  { simple 0x0703 [lHamper] [2, 3, 4, 5, 6, 7, 9] .A false 24 exportAct with check := exportCheck }
/-- `HAMPER_EXPORT` (R383). -/
def execHamperExport (p : Packet) (s : State) : Res := runCommand cmdHamperExport p s

/-! ### Mirrors and generations (R376, R384) -/

/-- A generation whose mirror may be sent again: held, with a buddy, and not mirrored (R376). -/
def mirrorRetryCheck (s : State) (p : Packet) (_t : Tgt) : Option (Nat × Word) :=
  match genAt s (genIn p) with
  | none => badAt 0
  | some g =>
    if !(g.mirror && (buddyOf s g.buddy).isSome && (g.state == .complete || g.state == .local_)) then badAt 0
    else if genBusy s (genIn p) then some (7, 0)
    else none
/-- The copy is sent again, after the mirror or the write that is under way. -/
def mirrorRetryAct (s : State) (p : Packet) (_t : Tgt) : State × Answer :=
  match genAt s (genIn p) with
  | none => (s, stat 4 (refusal 32 3))
  | some g =>
    if s.hamper.mirrorTx.isSome || s.hamper.write.isSome then (modGen s (genIn p) fun g => { g with sent := false }, later)
    else (mirrorBegin s (genIn p) g, later)
/-- `MIRROR_RETRY`. -/
def cmdMirrorRetry : CmdDef :=
  { simple 0x0704 [lHamper, lSlice] [4, 5, 6] .A false 4 mirrorRetryAct with check := mirrorRetryCheck }
/-- `MIRROR_RETRY` (R376). -/
def execMirrorRetry (p : Packet) (s : State) : Res := runCommand cmdMirrorRetry p s

/-- Does the module hold a generation or a mirror copy? -/
def genHeld (s : State) (p : Packet) (_t : Tgt) : Option (Nat × Word) :=
  if (genAt s (genIn p)).isSome || (mirrorAt s (genIn p)).isSome then none else badAt 0
/-- The pin mark of a generation and of its mirror copy is set. -/
def pinAct (on : Bool) (s : State) (p : Packet) (_t : Tgt) : State × Answer :=
  let f := fun (g : Gen) => { g with pinned := on }
  (modMirror (modGen s (genIn p) f) (genIn p) f, ok0)
/-- `GEN_PIN`. -/
def cmdGenPin : CmdDef :=
  { simple 0x0705 [lHamper, lSlice] [3, 4, 5, 6, 7, 8, 9] .S false 4 (pinAct true) with check := genHeld }
/-- `GEN_PIN` (R384). -/
def execGenPin (p : Packet) (s : State) : Res := runCommand cmdGenPin p s
/-- `GEN_UNPIN`. -/
def cmdGenUnpin : CmdDef :=
  { simple 0x0706 [lHamper, lSlice] [3, 4, 5, 6, 7, 8, 9] .S false 4 (pinAct false) with check := genHeld }
/-- `GEN_UNPIN` (R384). -/
def execGenUnpin (p : Packet) (s : State) : Res := runCommand cmdGenUnpin p s

/-- The newest `COMPLETE` generation is never deleted, and one in use is not deleted now (R384). -/
def genDeleteCheck (s : State) (p : Packet) (t : Tgt) : Option (Nat × Word) :=
  match genHeld s p t with
  | some f => some f
  | none =>
    if genIn p = newest s isComplete then badAt 0
    else if genBusy s (genIn p) || s.hamper.write.any fun (j : HJob) => j.gen == genIn p then some (7, 0)
    else none
/-- `GEN_DELETE`. -/
def cmdGenDelete : CmdDef :=
  { simple 0x0707 [lHamper, lSlice] [3, 4, 5, 6, 9] .S false 4 (fun s p _ => (deleteGen s (genIn p), ok0)) with check := genDeleteCheck }
/-- `GEN_DELETE` (R384). -/
def execGenDelete (p : Packet) (s : State) : Res := runCommand cmdGenDelete p s

/-- An entry of the generation list: number, state code in the order of R370, bytes and pin mark (R384, R412; log 30). One that
is exported is pinned until the export ends (R383). -/
def listEntry (s : State) (e : Nat × Gen) : List Byte :=
  let out := s.hamper.copyOut.any fun (j : HJob) => decide (j.gen.toNat = e.1)
  natLe 4 e.1 ++ natLe 4 (genCode e.2.state) ++ natLe 8 (genBytes e.2) ++ natLe 8 (bn (e.2.pinned || out)) ++ natLe 8 0
/-- The generations and mirror copies, while the Hamper serves reads (R435). -/
def genList (s : State) : List (Nat × Gen) := if s.hamper.state = 0 then [] else s.hamper.gens ++ s.hamper.mirrors
/-- `GEN_LIST`. -/
def cmdGenList : CmdDef :=
  simple 0x0708 [lHamper] anyOf .S true 4 fun s p _ => (s, page ((genList s).map (listEntry s)) 32 (pn p 0 4))
/-- `GEN_LIST` (R384, R416). -/
def execGenList (p : Packet) (s : State) : Res := runCommand cmdGenList p s

end Sys2Proof.Machine
end

