-- ==== Sys2Proof/Machine/Sync.lean ====
section
/-! DEFINITION. Sync counters (R136, R145, R310-R314): `WAIT`, `SIGNAL` and their arrivals. -/

namespace Sys2Proof.Machine

/-- The requested units of a `WAIT`: arrays 0-3 and 4 for the vector unit (R136). -/
def acquireMask (w : BitVec 246) : Nat := fld w 217 214 + 16 * bn (fbit w 213)

/-- The units of a mask. -/
def unitsIn (m : Nat) : List Nat := (List.range 5).filter fun u => m.testBit u

/-- The cycles between a satisfied wait and the stream's next issue (R312). -/
def waitLatency (scope : Nat) : Nat := if scope = 0 then 4 else if scope = 1 then 8 else 32

/-- Can a wait complete: threshold reached and every named unit free (R145, R311)? A threshold of 0 waits for
nothing. -/
def waitReady (s : State) (t : Nat) (w : Waiting) : Bool :=
  let k := w.scope.toNat
  decide (w.threshold.toNat ≤ ctrVal s k (ctrTarget k (ptileOf s t)) w.index.toNat) &&
    (unitsIn w.acquire.toNat).all (unitFree s t)

/-- Do two waits name a common unit (R145)? -/
def sharesUnit (w v : Waiting) : Bool := (w.acquire &&& v.acquire) ≠ 0

/-- Does another stream of the tile that comes before this one in the order F, B, U become able to complete on a common unit, so that it
takes the unit (R145)? -/
def earlierTakes (s : State) (t : Nat) (st : Stream) (w : Waiting) : Bool :=
  allStreams.any fun q => sc q < sc st && (strm s t q).run == .active && !(strm s t q).paused &&
    match (strm s t q).wait with
    | some v => v.kind == .sync && sharesUnit w v && waitReady s t v
    | none => false

/-- A wait completes: the counter loses the threshold and the stream holds the named units, in one cycle (R145, R311). -/
def waitDone (s : State) (t : Nat) (st : Stream) (w : Waiting) : State :=
  let k := w.scope.toNat
  let tgt := ctrTarget k (ptileOf s t)
  let s := ctrSet s k tgt w.index.toNat (ctrVal s k tgt w.index.toNat - w.threshold.toNat)
  let s := (unitsIn w.acquire.toNat).foldl (fun s u => setHolder s t u (some st) false) s
  modStrm s t st fun x =>
    { advance1 x with wait := none, held := x.held ||| w.acquire,
                      lastIssue := some (s.time.cycle + waitLatency k - 4) }

/-- The checks of a `WAIT` (R136, R145). -/
def waitChecks (s : State) (i : Issue) (w : BitVec 246) : List Check :=
  let scope := fld w 241 240
  reservedChecks w [(241, 240), (239, 234), (233, 218), (217, 214), (213, 213), (212, 212)] ++
  [ ckRes (decide (scope = 3)) 241,
    ckRange (decide (scope = 1 ∧ 31 < fld w 239 234)) 0 (fld w 239 234) ] ++
  (unitsIn (acquireMask w)).map fun u =>
    let m := maskOf s i.tile i.stream u
    let h := match holderOf s i.tile u with | some x => sc x | none => 3
    ckConf (!(m.testBit (sc i.stream) && sharedMask m)) 9 u h 0

/-- `WAIT` (R136, R145, R311): it releases its shared grants if it says so, and completes at once or waits. -/
def execWait (i : Issue) (w : BitVec 246) (s : State) : Res :=
  done s (issueWord s i (BitVec.ofNat 10 0x040 ++ w) (fun _ => false) (fun s => waitChecks s i w) fun s =>
    let t := i.tile.val
    let s := if fbit w 212 then releaseUnits s t i.stream fun u => (strm s t i.stream).held.getLsbD u else s
    let x : Waiting := { kind := .sync, scope := BitVec.ofNat 2 (fld w 241 240), index := BitVec.ofNat 6 (fld w 239 234),
                         threshold := BitVec.ofNat 16 (fld w 233 218), acquire := BitVec.ofNat 5 (acquireMask w),
                         count := 0 }
    if waitReady s t x && !earlierTakes s t i.stream x then waitDone s t i.stream x
    else chainStop (modStrm s t i.stream fun y => { y with wait := some x }) t)

/-- `WAIT_SATISFIED` (R145, R311). -/
def execWaitSatisfied (t : Fin 64) (st : Stream) (s : State) : Res :=
  let x := strm s t st
  done s (match x.wait with
    | some w =>
      if w.kind == .sync && goesOn s && x.run == .active && !x.paused &&
          (tileAt s t).loaded.isSome && waitReady s t w && !earlierTakes s t st w then waitDone s t st w
      else s
    | none => s)

/-- The counter that a `SIGNAL` names: scope as the counters have it, and the target. -/
def signalTarget (s : State) (i : Issue) (w : BitVec 246) : Nat × Nat :=
  let scope := fld w 241 240
  if scope = 3 then (0, fld w 191 183) else (scope, ctrTarget scope (ptileOf s i.tile))

/-- The latency of a signal (R312). -/
def signalLatency (scope : Nat) : Nat := if scope = 0 then 0 else if scope = 1 then 8 else 32

/-- The checks of a `SIGNAL` (R136). -/
def signalChecks (s : State) (i : Issue) (w : BitVec 246) : List Check :=
  let scope := fld w 241 240
  let inc := fld w 233 218
  let tgt := signalTarget s i w
  reservedChecks w [(241, 240), (239, 234), (233, 218), (191, 183)] ++
  [ ckRange (decide (scope = 1 ∧ 31 < fld w 239 234)) 0 (fld w 239 234),
    ckRange (decide (scope = 3 ∧ progP s ≤ fld w 191 183)) 1 (fld w 191 183),
    ⟨10, decide (scope = 0) && ctrOver s 0 tgt.2 (fld w 239 234) inc, 0x09, syncDetail 0 (fld w 239 234)⟩ ]

/-- `SIGNAL` (R136, R312): a counter of the own tile takes the increment at once, another after its latency. -/
def execSignal (i : Issue) (w : BitVec 246) (s : State) : Res :=
  let scope := fld w 241 240
  let idx := fld w 239 234
  let inc := fld w 233 218
  done s (issueN s i 0x041 w (fun s => signalChecks s i w) fun s =>
    let tgt := signalTarget s i w
    if inc = 0 then s
    else if scope = 0 then ctrAdd s 0 tgt.2 idx inc
    else modTile s i.tile fun x => { x with signals := x.signals ++
      [{ due := s.time.cycle + signalLatency scope, scope := BitVec.ofNat 2 scope, target := tgt.2,
         index := BitVec.ofNat 6 idx, inc := BitVec.ofNat 16 inc, stream := i.stream,
         addr := (strm s i.tile i.stream).pc }] })

/-- The signal of a stream whose latency ends first (R136, R312). -/
def nextSignal (s : State) (t : Nat) (st : Stream) : Option SignalFlight :=
  (tileAt s t).signals.foldl (fun m g => if g.stream == st then
      (match m with | some h => if g.due < h.due then some g else m | none => some g) else m) none

/-- `SIGNAL_ARRIVAL` (R312-R314): the stream's signal whose latency ends first takes effect at its counter, or its tile
halts. Time moves to the end of its latency. -/
def execSignalArrival (t : Fin 64) (st : Stream) (s : State) : Res :=
  done s (match nextSignal s t st with
    | none => s
    | some g =>
      let s := toCycle s g.due
      let s := modTile s t fun x => { x with signals := x.signals.erase g }
      let k := if g.scope = 3 then 0 else g.scope.toNat
      if ctrOver s k g.target g.index.toNat g.inc.toNat then
        halt s t st g.addr 0x09 (syncDetail g.scope.toNat g.index.toNat)
      else ctrAdd s k g.target g.index.toNat g.inc.toNat)

end Sys2Proof.Machine
end

