-- ==== Sys2Proof/Machine/Vector.lean ====
section
/-! DEFINITION. Vector instructions: the memory, conversion and fixed-point rows (R173-R179). -/

namespace Sys2Proof.Machine

/-- `VLD` (R174). -/
def execVld (i : Issue) (w : BitVec 246) (s : State) : Res :=
  vecInstr { op := 0x100, fmts := laneF, va := false, vl := false, mem := some (1, false) } i w s

/-- `VST` (R174). -/
def execVst (i : Issue) (w : BitVec 246) (s : State) : Res :=
  vecInstr { op := 0x101, fmts := laneF, vd := false, vl := false, mem := some (2, true) } i w s

/-- `VCVTL` (R176). -/
def execVcvtl (i : Issue) (w : BitVec 246) (s : State) : Res :=
  vecInstr { op := 0x102, fmts := fpF, va := false, vl := false, rnd := true, mem := some (1, false) } i w s

/-- `VCVTS` (R176). -/
def execVcvts (i : Issue) (w : BitVec 246) (s : State) : Res :=
  vecInstr { op := 0x103, fmts := fpF, vd := false, vl := false, rnd := true, imm := [(192, 192)], mem := some (2, true) } i w s

/-- `VCVT` (R176). -/
def execVcvt (i : Issue) (w : BitVec 246) (s : State) : Res :=
  vecInstr { op := 0x104, fmts := fpF, rnd := true, imm := [(195, 192)] } i w s

/-- `VADD` (R173, R177). -/
def execVadd (i : Issue) (w : BitVec 246) (s : State) : Res :=
  vecInstr { op := 0x110, fmts := intF, vb := true } i w s

/-- `VSUB` (R173, R177). -/
def execVsub (i : Issue) (w : BitVec 246) (s : State) : Res :=
  vecInstr { op := 0x111, fmts := intF, vb := true } i w s

/-- `VADDS` (R177). -/
def execVadds (i : Issue) (w : BitVec 246) (s : State) : Res :=
  vecInstr { op := 0x112, fmts := intF, vb := true, uns := true } i w s

/-- `VSUBS` (R177). -/
def execVsubs (i : Issue) (w : BitVec 246) (s : State) : Res :=
  vecInstr { op := 0x113, fmts := intF, vb := true, uns := true } i w s

/-- `VMUL` (R173, R177). -/
def execVmul (i : Issue) (w : BitVec 246) (s : State) : Res :=
  vecInstr { op := 0x114, fmts := intF, vb := true } i w s

/-- `VMULH` (R177). -/
def execVmulh (i : Issue) (w : BitVec 246) (s : State) : Res :=
  vecInstr { op := 0x115, fmts := intF, vb := true, uns := true, rnd := true, imm := [(198, 192)] } i w s

/-- `VSRS` (R177). -/
def execVsrs (i : Issue) (w : BitVec 246) (s : State) : Res :=
  vecInstr { op := 0x116, fmts := intF, uns := true, rnd := true, imm := [(198, 192)] } i w s

/-- `VSRN` (R177). -/
def execVsrn (i : Issue) (w : BitVec 246) (s : State) : Res :=
  vecInstr { op := 0x117, fmts := [7, 8, 9], uns := true, rnd := true, imm := [(198, 192)] } i w s

/-- `VSHLS` (R177). -/
def execVshls (i : Issue) (w : BitVec 246) (s : State) : Res :=
  vecInstr { op := 0x118, fmts := intF, uns := true, imm := [(198, 192)] } i w s

/-- `VWID` (R177). -/
def execVwid (i : Issue) (w : BitVec 246) (s : State) : Res :=
  vecInstr { op := 0x119, fmts := [6, 7, 8], uns := true } i w s

/-- `VMIN` (R173). -/
def execVmin (i : Issue) (w : BitVec 246) (s : State) : Res :=
  vecInstr { op := 0x11A, fmts := intF, vb := true, uns := true } i w s

/-- `VMAX` (R173). -/
def execVmax (i : Issue) (w : BitVec 246) (s : State) : Res :=
  vecInstr { op := 0x11B, fmts := intF, vb := true, uns := true } i w s

/-- `VAND` (R173). -/
def execVand (i : Issue) (w : BitVec 246) (s : State) : Res :=
  vecInstr { op := 0x11C, fmts := intF, vb := true } i w s

/-- `VOR` (R173). -/
def execVor (i : Issue) (w : BitVec 246) (s : State) : Res :=
  vecInstr { op := 0x11D, fmts := intF, vb := true } i w s

/-- `VXOR` (R173). -/
def execVxor (i : Issue) (w : BitVec 246) (s : State) : Res :=
  vecInstr { op := 0x11E, fmts := intF, vb := true } i w s

/-- `VCMPLT` (R173). -/
def execVcmplt (i : Issue) (w : BitVec 246) (s : State) : Res :=
  vecInstr { op := 0x11F, fmts := intF, vb := true, uns := true } i w s

/-- `VCMPEQ` (R173). -/
def execVcmpeq (i : Issue) (w : BitVec 246) (s : State) : Res :=
  vecInstr { op := 0x120, fmts := intF, vb := true } i w s

/-- `VSEL` (R165, R173). -/
def execVsel (i : Issue) (w : BitVec 246) (s : State) : Res :=
  vecInstr { op := 0x121, fmts := laneF, vb := true, vc := true } i w s

/-- `VBCAST` (R165, R173). -/
def execVbcast (i : Issue) (w : BitVec 246) (s : State) : Res :=
  vecInstr { op := 0x122, fmts := laneF, va := false, slots := [(133, 128), (127, 64)] } i w s

/-- `VMOV` (R165, R173). -/
def execVmov (i : Issue) (w : BitVec 246) (s : State) : Res :=
  vecInstr { op := 0x123, fmts := laneF } i w s

/-- `VABSS` (R177). -/
def execVabss (i : Issue) (w : BitVec 246) (s : State) : Res :=
  vecInstr { op := 0x124, fmts := intF } i w s

/-- `VNEGS` (R177). -/
def execVnegs (i : Issue) (w : BitVec 246) (s : State) : Res :=
  vecInstr { op := 0x125, fmts := intF } i w s

end Sys2Proof.Machine
end

