-- ==== Sys2Proof/Machine/VectorFloat.lean ====
section
/-! DEFINITION. Vector instructions: the floating-point, reduction and panel rows (R180-R188), and the unit's starts and completions (R168, R169). -/

namespace Sys2Proof.Machine

/-- `VFADD` (R180-R182). -/
def execVfadd (i : Issue) (w : BitVec 246) (s : State) : Res :=
  vecInstr { op := 0x140, fmts := fpF, vb := true, rnd := true } i w s

/-- `VFSUB` (R180-R182). -/
def execVfsub (i : Issue) (w : BitVec 246) (s : State) : Res :=
  vecInstr { op := 0x141, fmts := fpF, vb := true, rnd := true } i w s

/-- `VFMUL` (R180-R182). -/
def execVfmul (i : Issue) (w : BitVec 246) (s : State) : Res :=
  vecInstr { op := 0x142, fmts := fpF, vb := true, rnd := true } i w s

/-- `VFMA` (R180-R182). -/
def execVfma (i : Issue) (w : BitVec 246) (s : State) : Res :=
  vecInstr { op := 0x143, fmts := fpF, vb := true, vc := true, rnd := true } i w s

/-- `VFNMA` (R180-R182). -/
def execVfnma (i : Issue) (w : BitVec 246) (s : State) : Res :=
  vecInstr { op := 0x144, fmts := fpF, vb := true, vc := true, rnd := true } i w s

/-- `VFDIV` (R180, R181). -/
def execVfdiv (i : Issue) (w : BitVec 246) (s : State) : Res :=
  vecInstr { op := 0x145, fmts := fp3F, vb := true, rnd := true } i w s

/-- `VFSQRT` (R180, R181). -/
def execVfsqrt (i : Issue) (w : BitVec 246) (s : State) : Res :=
  vecInstr { op := 0x146, fmts := fp3F, rnd := true } i w s

/-- `VFMIN` (R181). -/
def execVfmin (i : Issue) (w : BitVec 246) (s : State) : Res :=
  vecInstr { op := 0x147, fmts := fp3F, vb := true } i w s

/-- `VFMAX` (R181). -/
def execVfmax (i : Issue) (w : BitVec 246) (s : State) : Res :=
  vecInstr { op := 0x148, fmts := fp3F, vb := true } i w s

/-- `VFSCALE` (R182). -/
def execVfscale (i : Issue) (w : BitVec 246) (s : State) : Res :=
  vecInstr { op := 0x149, fmts := fpF, rnd := true, slots := [(141, 128)] } i w s

/-- `VRSUM` (R183). -/
def execVrsum (i : Issue) (w : BitVec 246) (s : State) : Res :=
  vecInstr { op := 0x160, fmts := laneF, uns := true, slots := [(139, 128)] } i w s

/-- `VRSSQ` (R183). -/
def execVrssq (i : Issue) (w : BitVec 246) (s : State) : Res :=
  vecInstr { op := 0x161, fmts := laneF, uns := true, slots := [(139, 128)] } i w s

/-- `VRDOT` (R183). -/
def execVrdot (i : Issue) (w : BitVec 246) (s : State) : Res :=
  vecInstr { op := 0x162, fmts := laneF, vb := true, uns := true, slots := [(139, 128)] } i w s

/-- `VRAMAX` (R185). -/
def execVramax (i : Issue) (w : BitVec 246) (s : State) : Res :=
  vecInstr { op := 0x163, fmts := (intF ++ fp3F), uns := true } i w s

/-- `VPEXP` (R186). -/
def execVpexp (i : Issue) (w : BitVec 246) (s : State) : Res :=
  vecInstr { op := 0x170, fmts := [4, 5] } i w s

/-- `VPSLICE` (R187). -/
def execVpslice (i : Issue) (w : BitVec 246) (s : State) : Res :=
  vecInstr { op := 0x171, fmts := [4, 5], vb := true, imm := [(198, 192)] } i w s

/-- `VPHDR` (R188). -/
def execVphdr (i : Issue) (w : BitVec 246) (s : State) : Res :=
  vecInstr { op := 0x172, fmts := [4, 5], va := false, vb := true, vl := false, slots := [(133, 128), (80, 64)] } i w s

end Sys2Proof.Machine
end

