-- ==== Sys2Proof/Machine/Window.lean ====
section
/-! DEFINITION. The three routes of a command packet: the command window, `COMMAND` messages and MCTP (R399-R403, R408); the
answers of members (R27), and the epoch queue (R346-R348). -/

namespace Sys2Proof.Machine

/-! ### Opcodes (R412) -/

/-- The commands of R412. -/
def allCmds : List CmdDef :=
  [cmdDevInfo, cmdDevStatus, cmdDevReset, cmdFaultClear, cmdLedgerRead, cmdGroupDefine, cmdGroupDelete, cmdGroupRead,
   cmdConfigCommit, cmdConfigRollback, cmdConfigRead, cmdProgLoad, cmdProgStart, cmdProgPause, cmdProgResume, cmdProgUnload,
   cmdProgStatus, cmdSyncWrite, cmdDebugResume, cmdMemRead, cmdMemWrite, cmdMemCopy, cmdLlmMode, cmdCxlRetrain, cmdSliceSet,
   cmdCircuitOpen, cmdCircuitClose, cmdTransitGrant, cmdTransitRevoke, cmdQuench, cmdUnquench, cmdPortRetrain, cmdCeBind,
   cmdCeUnbind, cmdTimeSet, cmdTimeCancel, cmdSnapshotAt, cmdHamperArm, cmdHamperDisarm, cmdHamperRestore, cmdHamperExport,
   cmdMirrorRetry, cmdGenPin, cmdGenUnpin, cmdGenDelete, cmdGenList, cmdCloveRead, cmdCloveWrite, cmdSampleRead,
   cmdAbsentRead, cmdMarchRun, cmdRepairLogRead, cmdRetiredRead, cmdOvfLogRead, cmdSnapshotRead, cmdArrayUnfence, cmdAttest,
   cmdIdentityRead, cmdFwUpdate]

/-- The command of an opcode, if it is assigned. -/
def cmdOf (op : BitVec 16) : Option CmdDef := allCmds.find? fun c => c.op == op

/-- Does the firmware run (R423)? -/
def fwRuns (s : State) : Bool := s.firm.state != .boot && !s.firm.held

/-- A packet whose length and CRC are good: check 3 of R407 and those after it. -/
def takeAny (op : BitVec 16) (p : Packet) (s : State) : State :=
  match cmdOf op with
  | some c => takePacket c p s
  | none => finalReply s { opcode := op, p := p } 2 (refusal 24 3) [] [] 0

/-- The payload length that a header gives (R401). -/
def headLen (h : List Byte) : Nat := leNat (sub h 20 4)

/-- A packet as bytes, by its route (R401, R407): checks 1 to 3. -/
def takeBytes (r : Route) (h payload : List Byte) (s : State) : State :=
  let n := fun (a k : Nat) => leNat (sub h a k)
  let p : Packet := { route := r, path := BitVec.ofNat 64 (n 0 8), fireAt := BitVec.ofNat 64 (n 8 8),
                      tag := BitVec.ofNat 32 (n 16 4), flags := BitVec.ofNat 16 (n 26 2), payload := payload }
  let op := BitVec.ofNat 16 (n 24 2)
  let k : PendCmd := { opcode := op, p := p }
  if 4064 < headLen h then finalReply s k 3 (refusal 20 3) [] [] 0
  else if payload.length < headLen h || crc32c (h.take 28 ++ payload) ≠ n 28 4 then finalReply s k 4 (refusal 28 1) [] [] 0
  else takeAny op p s

/-! ### Host memory as it is read (R394, R396) -/

/-- A window line arrives in the host-line cache: the payload of a slot that the host has handed over is asked for, and the
ring head is what the host has written (R394, R400, R403). -/
def takeLine (s : State) (a : Nat) : State :=
  let v := s.vkx
  let s := { s with vkx := { v with lines := v.lines.filter (fun x => x.1 ≠ a / 64) ++ [(a / 64, 1)] } }
  if a = winAt s 0x41040 then { s with vkx := { s.vkx with head := BitVec.ofNat 64 (leNat (hostRead s a 8)) } }
  else
    let h := hostRead s a 32
    if winAt s 0 ≤ a ∧ a < winAt s 0x40000 ∧ leNat (sub h 24 8) ≠ 0 ∧ 32 < headLen h then askHost s (a + 64) (min (headLen h) 4064 - 32)
    else s

/-- `DATA` (R393, R394, R396): a line of host memory arrives; one with an error or poison fails the items that read it. -/
def execData (m : HostRsp) (d : BitVec 512) (s : State) : Res :=
  done s (overLink s (match s.vkx.asked.find? fun x => x.1 = m.txid && x.2.2.toNat < 4 with
    | none => s
    | some x =>
      let a := x.2.1 / 64 * 64
      let bad := m.resp ≠ 0 ∨ m.poison
      let clean := s.mem.hostBad.filter fun l => l ≠ a
      let s := { s with
        vkx := { s.vkx with asked := s.vkx.asked.filter fun y => y.1 ≠ m.txid },
        mem := { s.mem with hostBad := if bad then insNat a clean else clean,
                            host := if bad then s.mem.host else wrBytes s.mem.host a (natLe 64 d.toNat) } }
      let s := if x.2.2 = 2 ∧ !bad then takeLine s a else s
      imagesRead (pumpAsk (askLimit + 1) s)))

/-! ### The window (R399, R400, R403) -/

/-- Is a reply to slot `k` still being formed or written, or unread? -/
def slotBusy (s : State) (k : Fin 64) : Bool :=
  s.vkx.replies.any (fun x => x.1 == k) || s.vkx.replyQ.any (fun x => x.1 == k) || s.firm.taken.any (fun c => c.p.route == .slot k) ||
    s.vkx.posts.any fun p => match p.what with | .reply j _ => j == k | .entry _ => false

/-- `COMMAND_SLOT_TAKE` (R400, R407): the slot is copied and its packet checked. A packet that came with an error fails as the
item that read it (R396). -/
def execCommandSlotTake (k : Fin 64) (s : State) : Res :=
  let a := winAt s (0x1000 * k.val)
  let h := hostRead s a 32
  let n := min (headLen h) 4064
  done s (
    if !fwRuns s || !anyState s || !linkUp s || !s.vkx.en || queueFull s || slotBusy s k || hostPending s a (32 + n) ||
        (hostMark s a 64).isSome || leNat (sub h 24 8) = 0 then s
    else match hostMark s a (32 + n) with
      | some l =>
        let p : Packet := { route := .slot k, path := 0, fireAt := 0, tag := BitVec.ofNat 32 (leNat (sub h 16 4)), flags := 0, payload := [] }
        finalReply s { opcode := BitVec.ofNat 16 (leNat (sub h 24 2)), p := p } 9 (hostDetail l) [] [] 0
      | none => takeBytes (.slot k) h (hostRead s (a + 32) n) s)

/-- The next entry for the ring, and the state without it (R403): the oldest, completions and member records before an event
of the same instant (log 24). A count of lost events precedes the next event. -/
def nextEntry (s : State) : Option (RingEntry × State) :=
  let v := s.vkx
  let event := match v.events with
    | [] => none
    | e :: es =>
      if v.lostSince = 0 then some (e, { s with vkx := { v with events := es } })
      else
        let l : RingEntry := { kind := 3, status := 1, code := 0, tag := 0, detail := unitPath s 0 0, fec := fec s,
                               body := BitVec.ofNat 256 (v.lostSince % 2 ^ 32) }
        some (l, { s with vkx := { v with lostSince := 0 } })
  match v.comps with
  | [] => event
  | c :: cs =>
    let first := some (c, { s with vkx := { v with comps := cs } })
    match v.events with
    | [] => first
    | e :: _ => if c.fec.toNat ≤ e.fec.toNat then first else event

/-- Is a ring entry being written? -/
def entryOut (s : State) : Bool := s.vkx.posts.any fun p => match p.what with | .entry _ => true | .reply _ _ => false

/-- `RING_ENTRY_WRITE` (R395, R403): an entry is written while the ring has room; the tail follows its `CMP`. -/
def execRingEntryWrite (s : State) : Res :=
  done s (
    let v := s.vkx
    let size := 2 ^ v.order.toNat
    if !linkUp s || !v.en || entryOut s || decide (size ≤ (v.tail - v.head).toNat) then s
    else match nextEntry s with
      | none => s
      | some (e, s') =>
        let w := writeHost s' (winAt s' (0x42000 + 64 * (v.tail.toNat % size))) (entryBytes e ++ natLe 8 v.tail.toNat)
        { w.1 with vkx := { w.1.vkx with posts := w.1.vkx.posts ++ [{ need := w.2, what := .entry e }] } })

/-- `RING_HEAD_ADVANCE` (R399, R403): the module sees the host's write of the ring head. -/
def execRingHeadAdvance (head : BitVec 64) (s : State) : Res :=
  done s (hostWrite { s with vkx := { s.vkx with head := head } } (winAt s 0x41040) (natLe 8 head.toNat))

/-- `STATUS_COPY` (R399, R404). -/
def execStatusCopy (s : State) : Res :=
  done s (if linkUp s && s.vkx.en then (writeHost s (winAt s 0x41000) (natLe 8 (dieStatus s).toNat)).1 else s)

/-- `REPLY_VALID_WORD_CLEAR` (R399, R400): the reply slot is free again. -/
def execReplyValidWordClear (k : Fin 64) (s : State) : Res :=
  done s (hostWrite { s with vkx := { s.vkx with replies := s.vkx.replies.filter fun x => x.1 ≠ k } }
    (winAt s (0x40000 + 0x40 * k.val + 56)) (natLe 8 0))

/-! ### MCTP (R408) -/

/-- `MCTP_MESSAGE` (R408): eight commands at most are outstanding. A message without a header is no command, and one that holds less than
the payload that its header gives fails its CRC (log 5). -/
def execMctpMessage (ep : BitVec 8) (bytes : List Byte) (s : State) : Res :=
  done s (
    if !fwRuns s || bytes.length < 32 then s
    else
      let s := { s with firm := { s.firm with endpoint := ep } }
      if 8 ≤ s.firm.mctpOpen then
        let tag := BitVec.ofNat 32 (leNat (sub bytes 16 4))
        let op := BitVec.ofNat 16 (leNat (sub bytes 24 2))
        let p : Packet := { route := .mctp ep, path := 0, fireAt := 0, tag := tag, flags := 0, payload := [] }
        emit (cmdRecord s { opcode := op, p := p } 7 0)
          (.mctp ep { tag := tag, status := 7, opcode := op, detail := 0, fec := fec s, members := 0, result := [], data := [] })
      else takeBytes (.mctp ep) (bytes.take 32) (sub bytes 32 (headLen bytes)) { s with firm := { s.firm with mctpOpen := s.firm.mctpOpen + 1 } })

/-! ### Messages between modules (R27, R28, R277, R370, R408) -/

/-- A member is checked for the module that took the group command (R27). -/
def validateHere (op : BitVec 16) (p : Packet) (s : State) : State :=
  let k : PendCmd := { opcode := op, p := p }
  match cmdOf op with
  | some c =>
    let f := memberCheck s c p (tgtOf p.path)
    let a := checkAnswer f
    sendReply (tallyAims s c p (tgtOf p.path) f) k a.status.toNat a.detail [] [] 0
  | none => sendReply s k 2 (refusal 24 3) [] [] 0

/-- A member executes a command that all members have passed (R27, R28): at its epoch, or at once; not after its epoch. -/
def executeHere (op : BitVec 16) (p : Packet) (s : State) : State :=
  let k : PendCmd := { opcode := op, p := p }
  match cmdOf op with
  | none => s
  | some c =>
    let quiet := anchorOnly c
    if p.fireAt ≠ 0 ∧ p.fireAt.toNat ≤ (fec s).toNat then finalReply s k 9 1 [] [] 0
    else if c.kind = .S then
      let r := c.act (taking s k) p (tgtOf p.path)
      finalReply (untake r.1 k) k r.2.status.toNat r.2.detail r.2.result r.2.data 0
    else
      let s := if quiet then s else sendReply (accepted s k) k 1 0 [] [] 0
      if p.fireAt ≠ 0 then addEpoch s k
      else
        let r := c.act s p (tgtOf p.path)
        if quiet then r.1 else settle r.1 k r.2

/-- The route by which the answer to a message of a module goes back. -/
def fromNode (src : BitVec 16) (p : Packet) : Packet := { p with route := .fabric src }

/-- `COMMAND_MSG` (R27, R28, R370, R408). -/
def execCommandMsg (via : QVia) (src : BitVec 16) (m : CommandMsg) (s : State) : Res :=
  done s (
    let s := consumeQ s via
    if !fwRuns s then s
    else match m with
      | .packet op p => takeAny op (fromNode src p) s
      | .validate op p => validateHere op (fromNode src p) s
      | .execute op p => finishDrain (executeHere op (fromNode src p) s)
      | .report g st n => takeReport s src g st.toNat n.toNat
      | .genState g st => setGenState s g (genOfCode st.toNat))

/-- Has a member given its last answer? -/
def lastGiven (a : Nat × Word × Option Answer) : Bool := a.2.2.any fun (x : Answer) => x.status ≠ 1

/-- The gather that a reply of a module belongs to: by tag, ordinal and node (R408). -/
def gatherOf (s : State) (src : BitVec 16) (r : MemberReply) : Option Gather :=
  s.firm.gathers.find? fun g => g.p.tag == r.tag &&
    g.answers.any fun a => (g.forward || a.1 = r.ordinal) && pathNode a.2.1 = src.toNat && !lastGiven a

/-- The answers of a check: it is over when all members have given theirs (R27). -/
def checkAnswers (s : State) (g : Gather) : State :=
  if !allAnswered g then putGather s g
  else
    let s := { s with firm := { s.firm with
      gathers := s.firm.gathers.filter fun x => !(x.p.tag == g.p.tag && x.opcode == g.opcode && x.p.route == g.p.route) } }
    match cmdOf g.opcode with
    | some c => endCheck s c g.p g.answers
    | none => s

/-- `REPLY_MSG` (R27, R408): a member's answer, or a member record that goes on under the original tag. -/
def execReplyMsg (via : QVia) (src : BitVec 16) (r : MemberReply) (s : State) : Res :=
  done s (
    let s := consumeQ s via
    if !fwRuns s then s
    else match gatherOf s src r with
      | none => s
      | some g =>
        let a : Answer := { status := r.status, detail := r.detail, result := r.result, data := r.data }
        match r.member with
        | some w =>
          if g.forward then
            let e := memberEntry s g.opcode g.p.tag r.ordinal w a
            match g.p.route with
            | .mctp _ => putGather s { g with late := g.late ++ [e] }
            | _ => putGather (outEntry s g.p.route e) { g with records := g.records + 1 }
          else s
        | none =>
          finishDrain (if g.forward then gatherAnswer s g 0 a
            else if g.exec then gatherAnswer s g r.ordinal a
            else checkAnswers s (setAnswer g r.ordinal a)))

/-- `MEMBER_REPLY_TIMEOUT` (R27, R408): members of other modules that have given no reply are recorded `FAILED`. This module's own
members need none: they answer when they complete. -/
def execMemberReplyTimeout (tag : BitVec 32) (s : State) : Res :=
  let silent := fun (a : Nat × Word × Option Answer) => a.2.2.isNone && !memberHere s a.2.1
  done s (match s.firm.gathers.find? fun g => g.p.tag == tag && g.answers.any silent with
    | none => s
    | some g =>
      let lost : Answer := { status := 9, detail := BitVec.allOnes 64 }
      let g := { g with answers := g.answers.map fun a => if silent a then (a.1, a.2.1, some lost) else a }
      finishDrain (if !g.forward && !g.exec then checkAnswers s g else if allAnswered g then finishGather s g else putGather s g))

/-- `EVENT_MSG` (R277): the anchor of the slice takes the event as its own; another module passes it toward the anchor. -/
def execEventMsg (via : QVia) (src : BitVec 16) (slice : BitVec 6) (e : EventBody) (s : State) : Res :=
  done s (
    let s := consumeQ s via
    if slice ≠ s.fab.own then s
    else if isAnchor s then raiseEvent s e.code.toNat e.cls.toNat e.path (natLe 32 e.body.toNat)
    else routeQ s { dst := BitVec.ofNat 16 (anchorOf s (ownSlice s)), src := src, qtype := 0x03, slice := slice, tag := 0,
                    body := entryBytes { kind := 3, status := e.cls, code := e.code, tag := 0, detail := e.path, fec := fec s,
                                         body := e.body } })

/-! ### The epoch queue (R346-R348) -/

/-- The order of entries with equal epochs (R347): snapshots, arms, the rest. -/
def entryClass (e : EpochEntry) : Nat := if e.opcode = 0x0602 then 0 else if e.opcode = 0x0700 then 1 else 2

/-- Does an entry act before another that was taken earlier? -/
def actsBefore (a b : EpochEntry) : Bool :=
  decide (a.epoch.toNat < b.epoch.toNat) || (a.epoch == b.epoch && decide (entryClass a < entryClass b))

/-- The entry that acts next, among those whose epoch has come (R346, R347). -/
def nextDue (s : State) : Option EpochEntry :=
  (s.time.epochQ.filter fun e => e.epoch.toNat ≤ (fec s).toNat).foldl (fun m e =>
    match m with | none => some e | some x => if actsBefore e x then some e else some x) none

/-- The target of a member of a group command (R26). -/
def memberTgt (p : Packet) (w : Word) : Tgt := if pathLevel p.path = lSlice then tgtOf p.path else tgtOf w

/-- The local members of a group command whose own rules no longer let them act answer so (R346). -/
def refuseMembers (s : State) (c : CmdDef) (g : Gather) (bad : List (Nat × (Nat × Word))) : State :=
  bad.foldl (fun s b =>
    match s.firm.gathers.find? fun x => x.p.tag == g.p.tag && x.opcode == c.op && x.p.route == g.p.route with
    | some x => gatherAnswer s x b.1 { status := BitVec.ofNat 8 b.2.1, detail := b.2.2 }
    | none => s) s

/-- An entry acts (R346): only where the command is still legal, and never after its epoch (R20): one that the first edge at which
the counter has reached the epoch has left behind fails as a late member does (R28; log 78). -/
def actEntry (s : State) (e : EpochEntry) : State :=
  match cmdOf e.opcode with
  | none => s
  | some c =>
    if decide (e.epoch.toNat + 1 < (fec s).toNat) then endEntry s e 9 1
    else if stateFault s c then endEntry s e (wrongState s).1 (wrongState s).2
    else match s.firm.gathers.find? fun g => g.exec && g.p.tag == e.p.tag && g.opcode == e.opcode && g.p.route == e.p.route with
    | some g =>
      let bad := g.answers.filterMap fun m =>
        if memberHere s m.2.1 then (c.check s e.p (memberTgt e.p m.2.1)).map fun f => (m.1, f) else none
      actLocal (refuseMembers s c g bad) c e.p (g.answers.filter fun m => !(bad.any fun b => b.1 = m.1))
    | none =>
      match c.check s e.p (tgtOf e.p.path) with
      | some f => endEntry s e f.1 f.2
      | none =>
        let r := c.act s e.p (tgtOf e.p.path)
        if anchorOnly c then r.1 else settle r.1 (pendOf c e.p) r.2

/-- Entries act until none is due. -/
def actDue : Nat → State → State
  | 0, s => s
  | n + 1, s =>
    match nextDue s with
    | none => s
    | some e => actDue n (actEntry { s with time := { s.time with epochQ := s.time.epochQ.erase e } } e)

/-- `EPOCH_QUEUE_ACT` (R346, R347). -/
def execEpochQueueAct (s : State) : Res := done s (if fwRuns s then finishDrain (actDue s.time.epochQ.length s) else s)

end Sys2Proof.Machine
end

