-- ==== Sys2Proof/Machine/Dispatch.lean ====
section
/-! DEFINITION. One arm per command of the CT-1: a direct call of its meaning. -/

namespace Sys2Proof.Machine

/-- A command's effect on everything but the queue. -/
def exec (i : Instr) (s : State) : Host.Outcome State Fault Refusal :=
  match i with
  | .nop j w => Sys2Proof.Machine.execNop j w s
  | .endStream j w => Sys2Proof.Machine.execEndStream j w s
  | .jmp j w => Sys2Proof.Machine.execJmp j w s
  | .bnz j w => Sys2Proof.Machine.execBnz j w s
  | .loop j w => Sys2Proof.Machine.execLoop j w s
  | .sli j w => Sys2Proof.Machine.execSli j w s
  | .ali j w => Sys2Proof.Machine.execAli j w s
  | .sop j w => Sys2Proof.Machine.execSop j w s
  | .aadd j w => Sys2Proof.Machine.execAadd j w s
  | .sld j w => Sys2Proof.Machine.execSld j w s
  | .sst j w => Sys2Proof.Machine.execSst j w s
  | .nutset j w => Sys2Proof.Machine.execNutset j w s
  | .sealset j w => Sys2Proof.Machine.execSealset j w s
  | .wait j w => Sys2Proof.Machine.execWait j w s
  | .waitSatisfied t st => Sys2Proof.Machine.execWaitSatisfied t st s
  | .signal j w => Sys2Proof.Machine.execSignal j w s
  | .signalArrival t st => Sys2Proof.Machine.execSignalArrival t st s
  | .arrive j w => Sys2Proof.Machine.execArrive j w s
  | .slot j w => Sys2Proof.Machine.execSlot j w s
  | .dma j w => Sys2Proof.Machine.execDma j w s
  | .dmaDescriptorStart t => Sys2Proof.Machine.execDmaDescriptorStart t s
  | .dmaComplete t st seq e => Sys2Proof.Machine.execDmaComplete t st seq e s
  | .mma j w => Sys2Proof.Machine.execMma j w s
  | .mmaCoutComplete t st seq c => Sys2Proof.Machine.execMmaCoutComplete t st seq c s
  | .mmaDrainComplete t st seq c => Sys2Proof.Machine.execMmaDrainComplete t st seq c s
  | .fencedReissue t => Sys2Proof.Machine.execFencedReissue t s
  | .withyOverflow t st seq => Sys2Proof.Machine.execWithyOverflow t st seq s
  | .drainTimeout t st seq at_ => Sys2Proof.Machine.execDrainTimeout t st seq at_ s
  | .streamWatchdog t st => Sys2Proof.Machine.execStreamWatchdog t st s
  | .contextSwitch t => Sys2Proof.Machine.execContextSwitch t s
  | .contextTakeUp t => Sys2Proof.Machine.execContextTakeUp t s
  | .fetchLineArrival t st line => Sys2Proof.Machine.execFetchLineArrival t st line s
  | .vld j w => Sys2Proof.Machine.execVld j w s
  | .vst j w => Sys2Proof.Machine.execVst j w s
  | .vcvtl j w => Sys2Proof.Machine.execVcvtl j w s
  | .vcvts j w => Sys2Proof.Machine.execVcvts j w s
  | .vcvt j w => Sys2Proof.Machine.execVcvt j w s
  | .vadd j w => Sys2Proof.Machine.execVadd j w s
  | .vsub j w => Sys2Proof.Machine.execVsub j w s
  | .vadds j w => Sys2Proof.Machine.execVadds j w s
  | .vsubs j w => Sys2Proof.Machine.execVsubs j w s
  | .vmul j w => Sys2Proof.Machine.execVmul j w s
  | .vmulh j w => Sys2Proof.Machine.execVmulh j w s
  | .vsrs j w => Sys2Proof.Machine.execVsrs j w s
  | .vsrn j w => Sys2Proof.Machine.execVsrn j w s
  | .vshls j w => Sys2Proof.Machine.execVshls j w s
  | .vwid j w => Sys2Proof.Machine.execVwid j w s
  | .vmin j w => Sys2Proof.Machine.execVmin j w s
  | .vmax j w => Sys2Proof.Machine.execVmax j w s
  | .vand j w => Sys2Proof.Machine.execVand j w s
  | .vor j w => Sys2Proof.Machine.execVor j w s
  | .vxor j w => Sys2Proof.Machine.execVxor j w s
  | .vcmplt j w => Sys2Proof.Machine.execVcmplt j w s
  | .vcmpeq j w => Sys2Proof.Machine.execVcmpeq j w s
  | .vsel j w => Sys2Proof.Machine.execVsel j w s
  | .vbcast j w => Sys2Proof.Machine.execVbcast j w s
  | .vmov j w => Sys2Proof.Machine.execVmov j w s
  | .vabss j w => Sys2Proof.Machine.execVabss j w s
  | .vnegs j w => Sys2Proof.Machine.execVnegs j w s
  | .vfadd j w => Sys2Proof.Machine.execVfadd j w s
  | .vfsub j w => Sys2Proof.Machine.execVfsub j w s
  | .vfmul j w => Sys2Proof.Machine.execVfmul j w s
  | .vfma j w => Sys2Proof.Machine.execVfma j w s
  | .vfnma j w => Sys2Proof.Machine.execVfnma j w s
  | .vfdiv j w => Sys2Proof.Machine.execVfdiv j w s
  | .vfsqrt j w => Sys2Proof.Machine.execVfsqrt j w s
  | .vfmin j w => Sys2Proof.Machine.execVfmin j w s
  | .vfmax j w => Sys2Proof.Machine.execVfmax j w s
  | .vfscale j w => Sys2Proof.Machine.execVfscale j w s
  | .vrsum j w => Sys2Proof.Machine.execVrsum j w s
  | .vrssq j w => Sys2Proof.Machine.execVrssq j w s
  | .vrdot j w => Sys2Proof.Machine.execVrdot j w s
  | .vramax j w => Sys2Proof.Machine.execVramax j w s
  | .vpexp j w => Sys2Proof.Machine.execVpexp j w s
  | .vpslice j w => Sys2Proof.Machine.execVpslice j w s
  | .vphdr j w => Sys2Proof.Machine.execVphdr j w s
  | .vectorStart t lost e => Sys2Proof.Machine.execVectorStart t lost e s
  | .vectorComplete t => Sys2Proof.Machine.execVectorComplete t s
  | .tlayer j w => Sys2Proof.Machine.execTlayer j w s
  | .rcmp j w => Sys2Proof.Machine.execRcmp j w s
  | .npack j w => Sys2Proof.Machine.execNpack j w s
  | .nclip j w => Sys2Proof.Machine.execNclip j w s
  | .sopen j w => Sys2Proof.Machine.execSopen j w s
  | .sstep j w => Sys2Proof.Machine.execSstep j w s
  | .skaddr j w => Sys2Proof.Machine.execSkaddr j w s
  | .tupd j w => Sys2Proof.Machine.execTupd j w s
  | .tclose j w => Sys2Proof.Machine.execTclose j w s
  | .trecrd j w => Sys2Proof.Machine.execTrecrd j w s
  | .trecwr j w => Sys2Proof.Machine.execTrecwr j w s
  | .tscale j w => Sys2Proof.Machine.execTscale j w s
  | .crs j w => Sys2Proof.Machine.execCrs j w s
  | .car j w => Sys2Proof.Machine.execCar j w s
  | .cag j w => Sys2Proof.Machine.execCag j w s
  | .cxch j w => Sys2Proof.Machine.execCxch j w s
  | .fput j w => Sys2Proof.Machine.execFput j w s
  | .fget j w => Sys2Proof.Machine.execFget j w s
  | .fsig j w => Sys2Proof.Machine.execFsig j w s
  | .illegalOpcode j w => Sys2Proof.Machine.execIllegalOpcode j w s
  | .collectiveItemStart ax ch => Sys2Proof.Machine.execCollectiveItemStart ax ch s
  | .collectiveHop ax ch => Sys2Proof.Machine.execCollectiveHop ax ch s
  | .collectiveItemComplete ax ch => Sys2Proof.Machine.execCollectiveItemComplete ax ch s
  | .collectiveTimeout ax ch => Sys2Proof.Machine.execCollectiveTimeout ax ch s
  | .barrierUp port m => Sys2Proof.Machine.execBarrierUp port m s
  | .barrierDown port m => Sys2Proof.Machine.execBarrierDown port m s
  | .barrierUpRepeat tree => Sys2Proof.Machine.execBarrierUpRepeat tree s
  | .routingCycle k => Sys2Proof.Machine.execRoutingCycle k s
  | .containerArrival l first cws off => Sys2Proof.Machine.execContainerArrival l first cws off s
  | .nakRepeat l => Sys2Proof.Machine.execNakRepeat l s
  | .replayPendingTimeout l => Sys2Proof.Machine.execReplayPendingTimeout l s
  | .packetWrite p => Sys2Proof.Machine.execPacketWrite p s
  | .packetSignal p => Sys2Proof.Machine.execPacketSignal p s
  | .packetRead p => Sys2Proof.Machine.execPacketRead p s
  | .packetReadData p => Sys2Proof.Machine.execPacketReadData p s
  | .packetMessage p => Sys2Proof.Machine.execPacketMessage p s
  | .packetAck p => Sys2Proof.Machine.execPacketAck p s
  | .packetBounce p => Sys2Proof.Machine.execPacketBounce p s
  | .packetReservedType p => Sys2Proof.Machine.execPacketReservedType p s
  | .ackSend src => Sys2Proof.Machine.execAckSend src s
  | .fabAckTimeout item => Sys2Proof.Machine.execFabAckTimeout item s
  | .qMessageForward port vc m => Sys2Proof.Machine.execQMessageForward port vc m s
  | .reservedControlSymbol port kind => Sys2Proof.Machine.execReservedControlSymbol port kind s
  | .linkCredit port vc n => Sys2Proof.Machine.execLinkCredit port vc n s
  | .linkTable l entry => Sys2Proof.Machine.execLinkTable l entry s
  | .linkTableTimer l => Sys2Proof.Machine.execLinkTableTimer l s
  | .linkModeChange l entry frame => Sys2Proof.Machine.execLinkModeChange l entry frame s
  | .modeChangeFrame l => Sys2Proof.Machine.execModeChangeFrame l s
  | .modeChangeAbandon l => Sys2Proof.Machine.execModeChangeAbandon l s
  | .linkSpareRequest port lane => Sys2Proof.Machine.execLinkSpareRequest port lane s
  | .linkSpareSwitch port lane cw => Sys2Proof.Machine.execLinkSpareSwitch port lane cw s
  | .linkStrandFailed l => Sys2Proof.Machine.execLinkStrandFailed l s
  | .laneLossOfLock port lane => Sys2Proof.Machine.execLaneLossOfLock port lane s
  | .laneErrorRate port lane => Sys2Proof.Machine.execLaneErrorRate port lane s
  | .fabricLinkDown port dead => Sys2Proof.Machine.execFabricLinkDown port dead s
  | .commandMsg via src m => Sys2Proof.Machine.execCommandMsg via src m s
  | .replyMsg via src r => Sys2Proof.Machine.execReplyMsg via src r s
  | .memberReplyTimeout tag => Sys2Proof.Machine.execMemberReplyTimeout tag s
  | .eventMsg via src slice e => Sys2Proof.Machine.execEventMsg via src slice e s
  | .circuitSetup l m => Sys2Proof.Machine.execCircuitSetup l m s
  | .circuitReady via tag => Sys2Proof.Machine.execCircuitReady via tag s
  | .circuitFail via tag hop cause => Sys2Proof.Machine.execCircuitFail via tag hop cause s
  | .circuitRelease l m => Sys2Proof.Machine.execCircuitRelease l m s
  | .circuitSetupTimeout tag => Sys2Proof.Machine.execCircuitSetupTimeout tag s
  | .circuitCodeword l cw => Sys2Proof.Machine.execCircuitCodeword l cw s
  | .circuitAck via h cum nak => Sys2Proof.Machine.execCircuitAck via h cum nak s
  | .circuitAckTimer h => Sys2Proof.Machine.execCircuitAckTimer h s
  | .circuitNakRepeat h => Sys2Proof.Machine.execCircuitNakRepeat h s
  | .circuitBroken via h => Sys2Proof.Machine.execCircuitBroken via h s
  | .transitSet l m => Sys2Proof.Machine.execTransitSet l m s
  | .quenchMsg port q => Sys2Proof.Machine.execQuenchMsg port q s
  | .unquenchMsg port slice number => Sys2Proof.Machine.execUnquenchMsg port slice number s
  | .unassignedQtype port vc q => Sys2Proof.Machine.execUnassignedQtype port vc q s
  | .hello port m => Sys2Proof.Machine.execHello port m s
  | .helloTimer port => Sys2Proof.Machine.execHelloTimer port s
  | .discoveryElection => Sys2Proof.Machine.execDiscoveryElection s
  | .ringProbe port count => Sys2Proof.Machine.execRingProbe port count s
  | .coord port c n => Sys2Proof.Machine.execCoord port c n s
  | .discDone port => Sys2Proof.Machine.execDiscDone port s
  | .discoveryTimeout => Sys2Proof.Machine.execDiscoveryTimeout s
  | .timeSymbol port m r => Sys2Proof.Machine.execTimeSymbol port m r s
  | .timeSymbolTimer port => Sys2Proof.Machine.execTimeSymbolTimer port s
  | .ppsInEdge => Sys2Proof.Machine.execPpsInEdge s
  | .ppsLoss => Sys2Proof.Machine.execPpsLoss s
  | .holdoverEntry => Sys2Proof.Machine.execHoldoverEntry s
  | .drift => Sys2Proof.Machine.execDrift s
  | .ppsOutPulse => Sys2Proof.Machine.execPpsOutPulse s
  | .epochQueueAct => Sys2Proof.Machine.execEpochQueueAct s
  | .checkpointWriteStart => Sys2Proof.Machine.execCheckpointWriteStart s
  | .extentCommit e => Sys2Proof.Machine.execExtentCommit e s
  | .mirrorStart => Sys2Proof.Machine.execMirrorStart s
  | .mirrorCircuitRetry => Sys2Proof.Machine.execMirrorCircuitRetry s
  | .mirrorTimeout => Sys2Proof.Machine.execMirrorTimeout s
  | .mirrorExtentReceive m => Sys2Proof.Machine.execMirrorExtentReceive m s
  | .pageReadComplete b page step => Sys2Proof.Machine.execPageReadComplete b page step s
  | .programOrEraseFail b => Sys2Proof.Machine.execProgramOrEraseFail b s
  | .fold => Sys2Proof.Machine.execFold s
  | .refreshCheck => Sys2Proof.Machine.execRefreshCheck s
  | .blockRefresh => Sys2Proof.Machine.execBlockRefresh s
  | .wearLevelMove => Sys2Proof.Machine.execWearLevelMove s
  | .journalCompaction => Sys2Proof.Machine.execJournalCompaction s
  | .restoreExtentRead lost buddy => Sys2Proof.Machine.execRestoreExtentRead lost buddy s
  | .restoreComplete => Sys2Proof.Machine.execRestoreComplete s
  | .exportExtent lost => Sys2Proof.Machine.execExportExtent lost s
  | .tilePatrolScrub t bank e => Sys2Proof.Machine.execTilePatrolScrub t bank e s
  | .llmPatrolScrub sl bank e tag => Sys2Proof.Machine.execLlmPatrolScrub sl bank e tag s
  | .hbmPatrolScrub k bad ondie => Sys2Proof.Machine.execHbmPatrolScrub k bad ondie s
  | .spCorrectedWriteback t => Sys2Proof.Machine.execSpCorrectedWriteback t s
  | .hbmCorrectedWriteback k => Sys2Proof.Machine.execHbmCorrectedWriteback k s
  | .hbmRowRepair k r => Sys2Proof.Machine.execHbmRowRepair k r s
  | .hbmSlotGrant ch busy => Sys2Proof.Machine.execHbmSlotGrant ch busy s
  | .hbmReadComplete line bad ondie reader => Sys2Proof.Machine.execHbmReadComplete line bad ondie reader s
  | .llmWritebackComplete sl line => Sys2Proof.Machine.execLlmWritebackComplete sl line s
  | .llmModeChangeDone => Sys2Proof.Machine.execLlmModeChangeDone s
  | .marchComplete u failing => Sys2Proof.Machine.execMarchComplete u failing s
  | .cxlResponse line poison retries => Sys2Proof.Machine.execCxlResponse line poison retries s
  | .cxlRequestTimeout link => Sys2Proof.Machine.execCxlRequestTimeout link s
  | .flitReceived f fecOk => Sys2Proof.Machine.execFlitReceived f fecOk s
  | .vkxRetrain => Sys2Proof.Machine.execVkxRetrain s
  | .vkxRequestTimeout txid => Sys2Proof.Machine.execVkxRequestTimeout txid s
  | .vkxDownRetrainTimer => Sys2Proof.Machine.execVkxDownRetrainTimer s
  | .rdUc m => Sys2Proof.Machine.execRdUc m s
  | .rdS m => Sys2Proof.Machine.execRdS m s
  | .rdX m => Sys2Proof.Machine.execRdX m s
  | .wrUc m d => Sys2Proof.Machine.execWrUc m d s
  | .wrLine m d => Sys2Proof.Machine.execWrLine m d s
  | .wb m d => Sys2Proof.Machine.execWb m d s
  | .evict m => Sys2Proof.Machine.execEvict m s
  | .snpInv m => Sys2Proof.Machine.execSnpInv m s
  | .snpSh m => Sys2Proof.Machine.execSnpSh m s
  | .cmp m => Sys2Proof.Machine.execCmp m s
  | .snpAck m => Sys2Proof.Machine.execSnpAck m s
  | .data m d => Sys2Proof.Machine.execData m d s
  | .snpData m d => Sys2Proof.Machine.execSnpData m d s
  | .commandSlotTake k => Sys2Proof.Machine.execCommandSlotTake k s
  | .ringEntryWrite => Sys2Proof.Machine.execRingEntryWrite s
  | .ringHeadAdvance head => Sys2Proof.Machine.execRingHeadAdvance head s
  | .statusCopy => Sys2Proof.Machine.execStatusCopy s
  | .mctpMessage ep bytes => Sys2Proof.Machine.execMctpMessage ep bytes s
  | .devInfo p => Sys2Proof.Machine.execDevInfo p s
  | .devStatus p => Sys2Proof.Machine.execDevStatus p s
  | .devReset p => Sys2Proof.Machine.execDevReset p s
  | .faultClear p => Sys2Proof.Machine.execFaultClear p s
  | .ledgerRead p => Sys2Proof.Machine.execLedgerRead p s
  | .groupDefine p => Sys2Proof.Machine.execGroupDefine p s
  | .groupDelete p => Sys2Proof.Machine.execGroupDelete p s
  | .groupRead p => Sys2Proof.Machine.execGroupRead p s
  | .configCommit p => Sys2Proof.Machine.execConfigCommit p s
  | .configRollback p => Sys2Proof.Machine.execConfigRollback p s
  | .configRead p => Sys2Proof.Machine.execConfigRead p s
  | .progLoad p => Sys2Proof.Machine.execProgLoad p s
  | .progLoadDone => Sys2Proof.Machine.execProgLoadDone s
  | .progStart p => Sys2Proof.Machine.execProgStart p s
  | .progPause p => Sys2Proof.Machine.execProgPause p s
  | .pauseDrainDone => Sys2Proof.Machine.execPauseDrainDone s
  | .progResume p => Sys2Proof.Machine.execProgResume p s
  | .progUnload p => Sys2Proof.Machine.execProgUnload p s
  | .progStatus p => Sys2Proof.Machine.execProgStatus p s
  | .syncWrite p => Sys2Proof.Machine.execSyncWrite p s
  | .debugResume p => Sys2Proof.Machine.execDebugResume p s
  | .memRead p => Sys2Proof.Machine.execMemRead p s
  | .memWrite p => Sys2Proof.Machine.execMemWrite p s
  | .memCopy p => Sys2Proof.Machine.execMemCopy p s
  | .memCopyDone tag => Sys2Proof.Machine.execMemCopyDone tag s
  | .llmMode p => Sys2Proof.Machine.execLlmMode p s
  | .cxlRetrain p => Sys2Proof.Machine.execCxlRetrain p s
  | .sliceSet p => Sys2Proof.Machine.execSliceSet p s
  | .circuitOpen p => Sys2Proof.Machine.execCircuitOpen p s
  | .circuitClose p => Sys2Proof.Machine.execCircuitClose p s
  | .transitGrant p => Sys2Proof.Machine.execTransitGrant p s
  | .transitRevoke p => Sys2Proof.Machine.execTransitRevoke p s
  | .quench p => Sys2Proof.Machine.execQuench p s
  | .unquench p => Sys2Proof.Machine.execUnquench p s
  | .portRetrain p => Sys2Proof.Machine.execPortRetrain p s
  | .ceBind p => Sys2Proof.Machine.execCeBind p s
  | .ceUnbind p => Sys2Proof.Machine.execCeUnbind p s
  | .timeSet p => Sys2Proof.Machine.execTimeSet p s
  | .timeCancel p => Sys2Proof.Machine.execTimeCancel p s
  | .snapshotAt p => Sys2Proof.Machine.execSnapshotAt p s
  | .hamperArm p => Sys2Proof.Machine.execHamperArm p s
  | .hamperDisarm p => Sys2Proof.Machine.execHamperDisarm p s
  | .hamperRestore p => Sys2Proof.Machine.execHamperRestore p s
  | .hamperExport p => Sys2Proof.Machine.execHamperExport p s
  | .mirrorRetry p => Sys2Proof.Machine.execMirrorRetry p s
  | .genPin p => Sys2Proof.Machine.execGenPin p s
  | .genUnpin p => Sys2Proof.Machine.execGenUnpin p s
  | .genDelete p => Sys2Proof.Machine.execGenDelete p s
  | .genList p => Sys2Proof.Machine.execGenList p s
  | .cloveRead p => Sys2Proof.Machine.execCloveRead p s
  | .cloveWrite p => Sys2Proof.Machine.execCloveWrite p s
  | .sampleRead p => Sys2Proof.Machine.execSampleRead p s
  | .absentRead p => Sys2Proof.Machine.execAbsentRead p s
  | .marchRun p => Sys2Proof.Machine.execMarchRun p s
  | .repairLogRead p => Sys2Proof.Machine.execRepairLogRead p s
  | .retiredRead p => Sys2Proof.Machine.execRetiredRead p s
  | .ovfLogRead p => Sys2Proof.Machine.execOvfLogRead p s
  | .snapshotRead p => Sys2Proof.Machine.execSnapshotRead p s
  | .arrayUnfence p => Sys2Proof.Machine.execArrayUnfence p s
  | .attest p => Sys2Proof.Machine.execAttest p s
  | .identityRead p => Sys2Proof.Machine.execIdentityRead p s
  | .fwUpdate p => Sys2Proof.Machine.execFwUpdate p s
  | .ledgerDrainTimeout => Sys2Proof.Machine.execLedgerDrainTimeout s
  | .powerOn fault => Sys2Proof.Machine.execPowerOn fault s
  | .firmwareSlotVerify v => Sys2Proof.Machine.execFirmwareSlotVerify v s
  | .configurationLoad => Sys2Proof.Machine.execConfigurationLoad s
  | .startupMarch failing => Sys2Proof.Machine.execStartupMarch failing s
  | .hbmTraining failed cxl => Sys2Proof.Machine.execHbmTraining failed cxl s
  | .journalReplay energy readable => Sys2Proof.Machine.execJournalReplay energy readable s
  | .fabricLinkTraining r => Sys2Proof.Machine.execFabricLinkTraining r s
  | .coordinatePlacement => Sys2Proof.Machine.execCoordinatePlacement s
  | .timeLock => Sys2Proof.Machine.execTimeLock s
  | .timeSetTimeout => Sys2Proof.Machine.execTimeSetTimeout s
  | .timeLockTimeout => Sys2Proof.Machine.execTimeLockTimeout s
  | .phaseBoundExceeded => Sys2Proof.Machine.execPhaseBoundExceeded s
  | .resetNAssert => Sys2Proof.Machine.execResetNAssert s
  | .resetHoldExpiry => Sys2Proof.Machine.execResetHoldExpiry s
  | .resetNRelease => Sys2Proof.Machine.execResetNRelease s
  | .managementWatchdog => Sys2Proof.Machine.execManagementWatchdog s
  | .pwrGoodFall => Sys2Proof.Machine.execPwrGoodFall s
  | .flowOkFall => Sys2Proof.Machine.execFlowOkFall s
  | .flowOkRise => Sys2Proof.Machine.execFlowOkRise s
  | .flowTrip => Sys2Proof.Machine.execFlowTrip s
  | .thermalTrip => Sys2Proof.Machine.execThermalTrip s
  | .powerTrip => Sys2Proof.Machine.execPowerTrip s
  | .thermalDemandRise m => Sys2Proof.Machine.execThermalDemandRise m s
  | .thermalDemandFall m => Sys2Proof.Machine.execThermalDemandFall m s
  | .powerDemandRise m => Sys2Proof.Machine.execPowerDemandRise m s
  | .powerDemandFall m => Sys2Proof.Machine.execPowerDemandFall m s
  | .inletOverTemperature m => Sys2Proof.Machine.execInletOverTemperature m s
  | .stbyStatusRead => Sys2Proof.Machine.execStbyStatusRead s
  | .stbyStatusClear v holding => Sys2Proof.Machine.execStbyStatusClear v holding s
  | .cvtFlagsWrite t st v => Sys2Proof.Machine.execCvtFlagsWrite t st v s
  | .arrayLagClear t n v => Sys2Proof.Machine.execArrayLagClear t n v s
  | .spScrubWrite t v => Sys2Proof.Machine.execSpScrubWrite t v s
  | .llmScrubWrite sl v => Sys2Proof.Machine.execLlmScrubWrite sl v s
  | .hbmPrioWrite v => Sys2Proof.Machine.execHbmPrioWrite v s
  | .hbmScrubWrite k v => Sys2Proof.Machine.execHbmScrubWrite k v s
  | .cxlTimeoutWrite v => Sys2Proof.Machine.execCxlTimeoutWrite v s
  | .fabAckTimeoutWrite v => Sys2Proof.Machine.execFabAckTimeoutWrite v s
  | .ceTimeoutWrite ax v => Sys2Proof.Machine.execCeTimeoutWrite ax v s
  | .hamperRefreshWrite v => Sys2Proof.Machine.execHamperRefreshWrite v s
  | .vkxWindowWrite v => Sys2Proof.Machine.execVkxWindowWrite v s
  | .vkxTimeoutWrite v => Sys2Proof.Machine.execVkxTimeoutWrite v s
  | .timeFecRead => Sys2Proof.Machine.execTimeFecRead s
  | .registerWrite addr len v => Sys2Proof.Machine.execRegisterWrite addr len v s
  | .vkxRetrainComplete v => Sys2Proof.Machine.execVkxRetrainComplete v s
  | .portRetrainComplete r => Sys2Proof.Machine.execPortRetrainComplete r s
  | .cxlRetrainComplete up => Sys2Proof.Machine.execCxlRetrainComplete up s
  | .spiNorWriteComplete => Sys2Proof.Machine.execSpiNorWriteComplete s
  | .mctpCoordinateWrite c n => Sys2Proof.Machine.execMctpCoordinateWrite c n s
  | .replyValidWordClear k => Sys2Proof.Machine.execReplyValidWordClear k s
  | .standbyConverterStart => Sys2Proof.Machine.execStandbyConverterStart s

end Sys2Proof.Machine
end

