-- ==== Sys2Proof/Safety.lean ====
section
/-! DEFINITION. What counts as a safe run of the module, and the terms in which claims are stated: completion, readiness to
issue, frames, and the instruction words by their fields. -/

namespace Sys2Proof.Machine

/-- The outcome is a next state. -/
def Answers (o : Host.Outcome State Fault Refusal) (t : State) : Prop := o = .next t

/-- No step of a run stops with a fault or a refusal. -/
def Safe : Nat → State → Prop
  | 0, _ => True
  | n + 1, s => ∃ t, step s = .next t ∧ Safe n t

/-- A command answers a next state, and `P` holds of it. -/
def Completes (c : Instr) (s : State) (P : State → Prop) : Prop := ∃ t, exec c s = .next t ∧ P t

/-! ### Memory -/

/-- The canonical form of device memory and of the model's copy of host memory: rising addresses, and no byte equal to what an unlisted
address reads as. -/
def Memory.wf (m : Memory) : Bool := tableWf 0 m.dev && tableWf 0 m.host

/-! ### Issue (R121, R124, R129) -/

/-- The state in which an instruction's checks are made: time has moved to the issue cycle, which lies at least four cycles
after the stream's previous issue (R121), and the page uses that are over by then are gone. -/
def beforeIssue (s : State) (i : Issue) : State := pruneUses (toCycle s (slotOf s i))

/-- The state on which an instruction that passes its checks acts. -/
def atIssue (s : State) (i : Issue) : State := noteIssue (beforeIssue s i) i.tile i.stream

/-- The head of the stream is this word, fetched without an error, and may issue: the module runs, the stream neither waits
nor is paused, the word asks for no break, the tile is not in fenced mode, and no item ends in the issue cycle. -/
structure Ready (s : State) (i : Issue) (word : BitVec 256) : Prop where
  may     : canIssue s i.tile i.stream = true
  code    : codeAddr s (strm s i.tile i.stream).pc.toNat = true
  fetched : ∃ l, lineOf s i.tile i.stream (strm s i.tile i.stream).pc = some l ∧ l.bad = false ∧
    wordIn l (strm s i.tile i.stream).pc = word
  noBreak : word.getLsbD 245 = false
  plain   : (tileAt s i.tile).fencedMode = false
  quiet   : dueItem (beforeIssue s i) (i.tile.val / 4 * 4) = none ∧ dueItem (beforeIssue s i) i.tile.val = none

/-! ### Frames -/

/-- Every byte of device and host memory and of every scratchpad is the same, and so is every seal. -/
def SameStorage (s t : State) : Prop :=
  t.mem.dev = s.mem.dev ∧ t.mem.host = s.mem.host ∧
    ∀ p, (∀ a, rd 0 (ctxOf t p).sp a = rd 0 (ctxOf s p).sp a) ∧ (∀ g, sealOf t p g = sealOf s p g)

/-- A stream without the count of cycles for which its head has waited, which grows as time passes (R157). -/
def countless (x : StreamCtx) : StreamCtx := { x with wait := x.wait.map fun w => { w with count := 0 } }

/-- The streams but one are the same on every tile. -/
def OtherStreams (s t : State) (tile : Nat) (st : Stream) : Prop :=
  ∀ n q, n ≠ tile ∨ q ≠ st → countless (strm t n q) = countless (strm s n q)

/-- The scalar and address registers of a stream are the same. -/
def SameRegs (s t : State) (tile : Nat) (st : Stream) : Prop :=
  (strm t tile st).s = (strm s tile st).s ∧ (strm t tile st).a = (strm s tile st).a

/-- The streams but one are the same on every tile, and so is the rest of every tile's context. -/
def OnlyStream (s t : State) (tile : Nat) (st : Stream) : Prop :=
  OtherStreams s t tile st ∧
  (∀ n, (tileAt t n).ctx.v = (tileAt s n).ctx.v ∧ (tileAt t n).ctx.sync = (tileAt s n).ctx.sync ∧
    (tileAt t n).ctx.clove = (tileAt s n).ctx.clove)

/-- The counters of clusters and the die, the sample table, the trees and the device state are the same. -/
def SameShared (s t : State) : Prop :=
  t.cluster = s.cluster ∧ t.dieSync = s.dieSync ∧ t.samples = s.samples ∧ t.trees = s.trees ∧
    t.firm = s.firm ∧ t.fab = s.fab ∧ t.hamper = s.hamper

/-! ### Answers and events -/

/-- A reply goes out by a command's route (R402, R408): it waits for the window or is being written there, it is an MCTP message, or
a routed message to the module that forwarded the command, unless that is this module. -/
def Replied (s t : State) (route : Route) (r : Reply) : Prop :=
  match route with
  | .slot k => (k, r) ∈ t.vkx.replyQ ∨ ∃ p ∈ t.vkx.posts, p.what = .reply k r
  | .mctp ep => Out.mctp ep r ∈ t.out
  | .fabric src => qHop s.fab.extent s.fab.node.toNat src.toNat none = none ∨
      ∃ m : QMsg, m.dst = src ∧ m.qtype = 0x02 ∧ m.tag = r.tag ∧ m.body = replyBytes r ++ natLe 8 1 ++ r.data ∧
        ((∃ port vc, Out.qfrag port vc m ∈ t.out) ∨ ∃ w ∈ t.fab.qWait, w.m = .msg m)

/-- A path message goes out over a strand with the next position, or waits for a credit there (R276, R296). -/
def PathSent (t : State) (q : BitVec 8) (k : Nat) (m : PathMsg) : Prop :=
  (∃ vc, Out.path q (strandOf k) { m with pos := m.pos + 1, vc := vc } ∈ t.out) ∨
    ∃ w ∈ t.fab.qWait, w.m = .path q (strandOf k) { m with pos := m.pos + 1 }

/-- An event is raised (R403, R408, R417): it joins the queue of 1,024, is counted as lost when that is full, or goes to the MCTP
endpoint while the window is not in use. -/
def EventRaised (s t : State) (code cls : Nat) (path : Word) : Prop :=
  if s.vkx.en then
    if s.vkx.events.length < 1024 then
      ∃ e, e ∈ t.vkx.events ∧ e.kind = 3 ∧ e.code = BitVec.ofNat 16 code ∧ e.status = BitVec.ofNat 8 cls ∧ e.detail = path
    else t.vkx.evLost ≠ s.vkx.evLost ∨ s.vkx.evLost.sat = true
  else ∃ ep e, Out.mctpEvent ep e ∈ t.out ∧ e.kind = 3 ∧ e.code = BitVec.ofNat 16 code ∧ e.status = BitVec.ofNat 8 cls ∧ e.detail = path

/-- A response of a host transaction goes out, or waits for its credit (R392). -/
def Responded (t : State) (op : BitVec 6) (txid : BitVec 12) (resp : BitVec 4) (st : BitVec 2) (d : List Byte) : Prop :=
  ∃ poison, Out.host op txid 0 resp poison st d ∈ t.out ∨ Out.host op txid 0 resp poison st d ∈ t.vkx.waitQ

/-- The `n` bytes from address `a` of device memory are `bs` now, and every other byte is as before. -/
def OnlyBytes (s t : State) (a : Nat) (bs : List Byte) : Prop :=
  rdBytes t.mem.dev a bs.length = bs ∧ ∀ b, b < a ∨ a + bs.length ≤ b → rd 0 t.mem.dev b = rd 0 s.mem.dev b

/-! ### Commands of R412 (R401-R412) -/

/-- A command passes every check of R407, acts in this module at a target that is no group, and needs no snoop first. -/
structure Accepts (s : State) (c : CmdDef) (p : Packet) : Prop where
  fits   : p.payload.length ≤ 4064
  runs   : fwRuns s = true
  len    : c.len p.payload = true
  path   : addressFault s c p = none
  here   : elsewhere s p = false
  unit   : absentUnit s (tgtOf p.path) = none
  time   : timeFault s c p = none
  alone  : (isGroup (tgtOf p.path) && !anchorActs c) = false
  checks : checkAt s c p (tgtOf p.path) = none
  acts   : p.flags.getLsbD 0 = false
  snoops : heldLines s (cmdRanges s c p).1 (cmdRanges s c p).2 = []
  idle   : s.firm.draining = none

/-- A command to a slice of which this module is the one member passes every check (R26, R27). -/
structure AcceptsSlice (s : State) (c : CmdDef) (p : Packet) : Prop where
  fits    : p.payload.length ≤ 4064
  runs    : fwRuns s = true
  len     : c.len p.payload = true
  path    : addressFault s c p = none
  here    : elsewhere s p = false
  time    : timeFault s c p = none
  level   : (tgtOf p.path).level = lSlice
  members : ∃ w, membersOf s (tgtOf p.path) = [(w, tgtOf p.path)] ∧ memberHere s w = true
  checks  : memberCheck s c p (tgtOf p.path) = none
  acts    : p.flags.getLsbD 0 = false
  idle    : s.firm.draining = none
  fresh   : s.firm.gathers = []

/-- The commands of kind S, which answer with their final status, but for `HAMPER_DISARM` (R404, R412). -/
def FinalCommand (f : Packet → Instr) (c : CmdDef) : Prop :=
  (f, c) ∈ ([(.devInfo, cmdDevInfo), (.devStatus, cmdDevStatus), (.ledgerRead, cmdLedgerRead), (.groupDefine, cmdGroupDefine),
   (.groupDelete, cmdGroupDelete), (.groupRead, cmdGroupRead), (.configRollback, cmdConfigRollback), (.configRead, cmdConfigRead),
   (.identityRead, cmdIdentityRead), (.absentRead, cmdAbsentRead), (.quench, cmdQuench), (.unquench, cmdUnquench),
   (.ceBind, cmdCeBind), (.ceUnbind, cmdCeUnbind), (.timeSet, cmdTimeSet), (.timeCancel, cmdTimeCancel), (.genPin, cmdGenPin),
   (.genUnpin, cmdGenUnpin), (.genDelete, cmdGenDelete), (.genList, cmdGenList), (.memRead, cmdMemRead), (.memWrite, cmdMemWrite),
   (.cloveRead, cmdCloveRead), (.cloveWrite, cmdCloveWrite), (.sampleRead, cmdSampleRead), (.repairLogRead, cmdRepairLogRead),
   (.retiredRead, cmdRetiredRead), (.ovfLogRead, cmdOvfLogRead), (.arrayUnfence, cmdArrayUnfence), (.snapshotRead, cmdSnapshotRead),
   (.progStatus, cmdProgStatus), (.syncWrite, cmdSyncWrite), (.debugResume, cmdDebugResume)] : List ((Packet → Instr) × CmdDef))

/-- The commands of kinds A and E, which answer `ACCEPTED` first, but for those of a slice alone (R404, R412). -/
def AcceptedCommand (f : Packet → Instr) (c : CmdDef) : Prop :=
  (f, c) ∈ ([(.devReset, cmdDevReset), (.faultClear, cmdFaultClear), (.configCommit, cmdConfigCommit), (.fwUpdate, cmdFwUpdate),
   (.attest, cmdAttest), (.circuitOpen, cmdCircuitOpen), (.circuitClose, cmdCircuitClose), (.transitGrant, cmdTransitGrant),
   (.transitRevoke, cmdTransitRevoke), (.portRetrain, cmdPortRetrain), (.hamperExport, cmdHamperExport),
   (.mirrorRetry, cmdMirrorRetry), (.memCopy, cmdMemCopy), (.llmMode, cmdLlmMode), (.cxlRetrain, cmdCxlRetrain),
   (.marchRun, cmdMarchRun), (.progLoad, cmdProgLoad), (.progUnload, cmdProgUnload), (.sliceSet, cmdSliceSet),
   (.snapshotAt, cmdSnapshotAt), (.progStart, cmdProgStart), (.progPause, cmdProgPause), (.progResume, cmdProgResume)] : List ((Packet → Instr) × CmdDef))

/-- The commands that act at a slice alone (R372, R381). -/
def SliceCommand (f : Packet → Instr) (c : CmdDef) : Prop :=
  (f, c) ∈ ([(.hamperArm, cmdHamperArm), (.hamperDisarm, cmdHamperDisarm), (.hamperRestore, cmdHamperRestore)] : List ((Packet → Instr) × CmdDef))

/-- The reply of a command, by its packet (R402). -/
def replyOf (s : State) (c : CmdDef) (p : Packet) (status : BitVec 8) (detail : Word) (result : List Word) (data : List Byte) : Reply :=
  { tag := p.tag, status := status, opcode := c.op, detail := detail, fec := fec s, members := 0, result := result, data := data }

/-- A command's record: kind 4, its tag and opcode, and its status (R418). -/
def Recorded (t : State) (tag : BitVec 32) (op : BitVec 16) (status : BitVec 8) : Prop :=
  ∃ r ∈ t.firm.records, r.kind = 4 ∧ r.who = tag ∧ r.number = op.setWidth 32 ∧ r.reason = status ∧ r.done = (status == 0)

/-- What a reply leaves alone: the program and its counters, device memory, the engines, the fabric's slices and quench, the Hamper,
the clocks and the device state. -/
def SameMachine (s t : State) : Prop :=
  t.tiles = s.tiles ∧ t.saved = s.saved ∧ t.prog = s.prog ∧ t.cluster = s.cluster ∧ t.dieSync = s.dieSync ∧ t.samples = s.samples ∧
    t.trees = s.trees ∧ t.mem.dev = s.mem.dev ∧ t.ces = s.ces ∧ t.fab.slices = s.fab.slices ∧ t.fab.quench = s.fab.quench ∧
    t.hamper = s.hamper ∧ t.time = s.time ∧ t.phys = s.phys ∧ t.firm.state = s.firm.state ∧ t.firm.groups = s.firm.groups

/-! ### Barriers (R318-R320) -/

/-- A barrier message goes out of a port on its first and its second path (R322). -/
def SentTwice (s t : State) (port : Nat) (up : Bool) (m : BarrierMsg) : Prop :=
  (∀ l, firstPath s port = some l → Out.barrier l up m ∈ t.out) ∧
  ∀ l, secondPath s port = some l → Out.barrier l up { m with second := true } ∈ t.out

/-- A round of a tree whose last arrival or report has come ends at this module: the anchor releases it, another module sends `UP` with the
accumulator to its parent. -/
def RoundEnds (s t : State) (k : Nat) (d : TreeDecl) (old : Tree) (acc : BitVec 128) : Prop :=
  (myParent s = none → (rd {} t.trees k).round = old.round + 1 ∧ (rd {} t.trees k).who = [] ∧ (rd {} t.trees k).heard = []) ∧
  ∀ p, myParent s = some p → (rd {} t.trees k).sentUp = true ∧ (rd {} t.trees k).round = old.round ∧
    ∃ m, SentTwice s t p true m ∧ m.tree.val = k ∧ m.round = old.round ∧ m.step = d.step ∧ m.second = false ∧
      m.value = if d.step then 0 else acc

/-- The arrivals of a round that count up a counter instead of holding their stream. -/
def arrivalsOn (as : List Arrival) (p i : Nat) : Nat :=
  (as.filter fun a => !a.hold && a.ptile = p && a.counter.toNat = i).length

/-! ### Whole machine -/

/-- What no command and no tick changes: the fuses and the factory's bad blocks (R2-R5, R359). -/
def SameFuses (s t : State) : Prop := t.grade = s.grade ∧ t.serial = s.serial ∧ t.factoryBad = s.factoryBad

/-- The fuses name a grade of R1. -/
def GradeLegal (s : State) : Prop := s.grade = 1 ∨ s.grade = 2 ∨ s.grade = 3

/-- A run of `n` steps that all answer a next state ends in `t`. -/
def Runs : Nat → State → State → Prop
  | 0, s, t => t = s
  | n + 1, s, t => ∃ u, step s = .next u ∧ Runs n u t

/-! ### Flash blocks -/

/-- Data of a block has moved to a new block in a mode, and the blocks it came from are free. -/
def BlocksMoved (s t : State) (ks : List Nat) (n : Nat) (mode : BitVec 2) : Prop :=
  (blockAt t n).mode = mode ∧ (∀ k ∈ ks, ∀ v ∈ (blockAt s k).pages, v.2 ∈ (blockAt t n).pages.map (·.2)) ∧
    ∀ k ∈ ks, (blockAt t k).mode = 0 ∧ (blockAt t k).pages = []

/-! ### Start-up -/

/-- A start-up phase has failed (R424, R427): its cause, phase and detail are recorded, and the module is back in `BOOT`, past
phase 1, about to run the factory firmware. -/
def StartFailed (t : State) (phase cause : Nat) (detail : Word) : Prop :=
  t.firm.state = .boot ∧ t.firm.cause = BitVec.ofNat 8 cause ∧ t.firm.failedPhase = BitVec.ofNat 4 phase ∧
    t.firm.detail = detail ∧ t.firm.resetCause = 5 ∧ t.firm.mode = 1 ∧ t.firm.phase = 1 ∧ t.prog = none

/-! ### Instruction words by their fields (R127, R134-R136, R144, R194, R195)

The 246 bits below the opcode, from bit 245, the break bit, down. -/

/-- A number for a truth value in a word. -/
def flag1 (b : Bool) : BitVec 1 := BitVec.ofBool b

/-- `SLI` (R134): [244:240] sD; [191:128] immediate. -/
def sliWord (sd : BitVec 5) (imm : BitVec 64) : BitVec 246 := (0 : BitVec 1) ++ sd ++ (0 : BitVec 48) ++ imm ++ (0 : BitVec 128)
/-- `ALI` (R134): [243:240] aD; [191:144] immediate. -/
def aliWord (ad : BitVec 4) (imm : BitVec 48) : BitVec 246 := (0 : BitVec 2) ++ ad ++ (0 : BitVec 48) ++ imm ++ (0 : BitVec 144)
/-- `SOP` (R134): [244:240] sD; [239:235] sA; [234:230] sB; [229:226] op; [225] imm; [191:128] immediate. -/
def sopWord (sd sa sb : BitVec 5) (op : BitVec 4) (useImm : Bool) (imm : BitVec 64) : BitVec 246 :=
  (0 : BitVec 1) ++ sd ++ sa ++ sb ++ op ++ flag1 useImm ++ (0 : BitVec 33) ++ imm ++ (0 : BitVec 128)
/-- `AADD` (R134): [243:240] aD; [239:236] aA; [235:231] sB; [225] imm; [191:144] immediate. -/
def aaddWord (ad aa : BitVec 4) (sb : BitVec 5) (useImm : Bool) (imm : BitVec 48) : BitVec 246 :=
  (0 : BitVec 2) ++ ad ++ aa ++ sb ++ (0 : BitVec 5) ++ flag1 useImm ++ (0 : BitVec 33) ++ imm ++ (0 : BitVec 144)
/-- `NUTSET` (R135): [191:160] step; [127:64] element. -/
def nutsetWord (step : BitVec 32) (elem : BitVec 64) : BitVec 246 :=
  (0 : BitVec 54) ++ step ++ (0 : BitVec 32) ++ elem ++ (0 : BitVec 64)
/-- `JMP` (R134): [191:144] target. -/
def jmpWord (target : BitVec 48) : BitVec 246 := (0 : BitVec 54) ++ target ++ (0 : BitVec 144)
/-- `BNZ` (R134): [244:240] sN; [191:144] target. -/
def bnzWord (sn : BitVec 5) (target : BitVec 48) : BitVec 246 :=
  (0 : BitVec 1) ++ sn ++ (0 : BitVec 48) ++ target ++ (0 : BitVec 144)
/-- `LOOP` (R134) with an immediate count: [238:235] seal step; [234:224] L; [191:160] count. -/
def loopWord (step : BitVec 4) (len : BitVec 11) (count : BitVec 32) : BitVec 246 :=
  (0 : BitVec 7) ++ step ++ len ++ (0 : BitVec 32) ++ count ++ (0 : BitVec 160)
/-- `LOOP` (R134) with its count from a register: [244] creg; [243:239] sN; [238:235] seal step; [234:224] L. -/
def loopRegWord (sn : BitVec 5) (step : BitVec 4) (len : BitVec 11) : BitVec 246 :=
  (0 : BitVec 1) ++ (1 : BitVec 1) ++ sn ++ step ++ len ++ (0 : BitVec 224)
/-- `SLD` (R134): [244:240] sD; slot 1 [63:42] addr, [4] rel, [3:0] seal. -/
def sldWord (sd : BitVec 5) (addr : BitVec 22) (rel : Bool) (g : BitVec 4) : BitVec 246 :=
  (0 : BitVec 1) ++ sd ++ (0 : BitVec 48) ++ addr ++ (0 : BitVec 37) ++ flag1 rel ++ g ++ (0 : BitVec 128)
/-- `SST` (R134): [244:240] sA; slot 3 [63:42] addr, [4] rel, [3:0] seal. -/
def sstWord (sa : BitVec 5) (addr : BitVec 22) (rel : Bool) (g : BitVec 4) : BitVec 246 :=
  (0 : BitVec 1) ++ sa ++ (0 : BitVec 176) ++ addr ++ (0 : BitVec 37) ++ flag1 rel ++ g
/-- `SEALSET` (R134): [191:182] first page; [181:171] page count; [170:167] value. -/
def sealsetWord (first : BitVec 10) (count : BitVec 11) (v : BitVec 4) : BitVec 246 :=
  (0 : BitVec 54) ++ first ++ count ++ v ++ (0 : BitVec 167)
/-- `SLOT` (R134): [191:186] phase. -/
def slotWord (phase : BitVec 6) : BitVec 246 := (0 : BitVec 54) ++ phase ++ (0 : BitVec 186)
/-- `WAIT` (R136): [241:240] scope; [239:234] index; [233:218] threshold; [217:214] arrays; [213] vector unit; [212] release. -/
def waitWord (scope : BitVec 2) (index : BitVec 6) (threshold : BitVec 16) (units : BitVec 4) (vec rel : Bool) : BitVec 246 :=
  (0 : BitVec 4) ++ scope ++ index ++ threshold ++ units ++ flag1 vec ++ flag1 rel ++ (0 : BitVec 212)
/-- `SIGNAL` (R136): [241:240] scope; [239:234] index; [233:218] increment; [191:183] peer tile. -/
def signalWord (scope : BitVec 2) (index : BitVec 6) (inc : BitVec 16) (peer : BitVec 9) : BitVec 246 :=
  (0 : BitVec 4) ++ scope ++ index ++ inc ++ (0 : BitVec 26) ++ peer ++ (0 : BitVec 183)
/-- `ARRIVE` (R136): [243:240] tree; [239] step mark; [238] payload; [237:233] sN; [232] hold; [231:226] counter. -/
def arriveWord (tree : BitVec 4) (step pay : Bool) (sn : BitVec 5) (hold : Bool) (ctr : BitVec 6) : BitVec 246 :=
  (0 : BitVec 2) ++ tree ++ flag1 step ++ flag1 pay ++ sn ++ flag1 hold ++ ctr ++ (0 : BitVec 226)
/-- `TLAYER` (R195): slot 1 [63:48] layer id, [31:0] base block. -/
def tlayerWord (layer : BitVec 16) (base : BitVec 32) : BitVec 246 :=
  (0 : BitVec 54) ++ layer ++ (0 : BitVec 16) ++ base ++ (0 : BitVec 128)
/-- `RCMP` (R195): [244] end; [243] creg; [242:238] sN; slot 1 the counter value. -/
def rcmpWord (fin creg : Bool) (sn : BitVec 5) (imm : BitVec 64) : BitVec 246 :=
  (0 : BitVec 1) ++ flag1 fin ++ flag1 creg ++ sn ++ (0 : BitVec 46) ++ imm ++ (0 : BitVec 128)
/-- `NCLIP` (R195): [244:240] sD; [239:235] the sum's first register; [234:230] tau; slot 1 [11:0] lsb. -/
def nclipWord (sd ss st : BitVec 5) (lsb : BitVec 12) : BitVec 246 :=
  (0 : BitVec 1) ++ sd ++ ss ++ st ++ (0 : BitVec 90) ++ lsb ++ (0 : BitVec 128)
/-- `NPACK` (R195): [244:240] sD; slot 1 a linear descriptor. -/
def npackWord (sd : BitVec 5) (d : BitVec 64) : BitVec 246 := (0 : BitVec 1) ++ sd ++ (0 : BitVec 48) ++ d ++ (0 : BitVec 128)
/-- `SOPEN` (R195): [244:240] sN; slot 1 [31:16] tag, [8:0] sample slot. -/
def sopenWord (sn : BitVec 5) (tag : BitVec 16) (k : BitVec 9) : BitVec 246 :=
  (0 : BitVec 1) ++ sn ++ (0 : BitVec 80) ++ tag ++ (0 : BitVec 7) ++ k ++ (0 : BitVec 128)
/-- `SSTEP` (R195): slot 1 [11:9] destination state, [8:0] sample slot. -/
def sstepWord (dst : BitVec 3) (k : BitVec 9) : BitVec 246 := (0 : BitVec 106) ++ dst ++ k ++ (0 : BitVec 128)
/-- `SKADDR` (R195): [243:240] aD; slot 1 [15] read, [14:9] entry, [8:0] sample slot. -/
def skaddrWord (ad : BitVec 4) (read : Bool) (entry : BitVec 6) (k : BitVec 9) : BitVec 246 :=
  (0 : BitVec 2) ++ ad ++ (0 : BitVec 96) ++ flag1 read ++ entry ++ k ++ (0 : BitVec 128)

/-! ### The vector instructions by their rows (R173) -/

/-- The vector instructions that load, store, convert and compute on integers, with their operand rows. -/
def vectorRowsA : List ((Issue → BitVec 246 → Instr) × VRow) :=
  [(.vld, { op := 0x100, fmts := laneF, va := false, vl := false, mem := some (1, false) }),
   (.vst, { op := 0x101, fmts := laneF, vd := false, vl := false, mem := some (2, true) }),
   (.vcvtl, { op := 0x102, fmts := fpF, va := false, vl := false, rnd := true, mem := some (1, false) }),
   (.vcvts, { op := 0x103, fmts := fpF, vd := false, vl := false, rnd := true, imm := [(192, 192)], mem := some (2, true) }),
   (.vcvt, { op := 0x104, fmts := fpF, rnd := true, imm := [(195, 192)] }),
   (.vadd, { op := 0x110, fmts := intF, vb := true }),
   (.vsub, { op := 0x111, fmts := intF, vb := true }),
   (.vadds, { op := 0x112, fmts := intF, vb := true, uns := true }),
   (.vsubs, { op := 0x113, fmts := intF, vb := true, uns := true }),
   (.vmul, { op := 0x114, fmts := intF, vb := true }),
   (.vmulh, { op := 0x115, fmts := intF, vb := true, uns := true, rnd := true, imm := [(198, 192)] }),
   (.vsrs, { op := 0x116, fmts := intF, uns := true, rnd := true, imm := [(198, 192)] }),
   (.vsrn, { op := 0x117, fmts := [7, 8, 9], uns := true, rnd := true, imm := [(198, 192)] }),
   (.vshls, { op := 0x118, fmts := intF, uns := true, imm := [(198, 192)] }),
   (.vwid, { op := 0x119, fmts := [6, 7, 8], uns := true }),
   (.vmin, { op := 0x11A, fmts := intF, vb := true, uns := true }),
   (.vmax, { op := 0x11B, fmts := intF, vb := true, uns := true }),
   (.vand, { op := 0x11C, fmts := intF, vb := true }),
   (.vor, { op := 0x11D, fmts := intF, vb := true }),
   (.vxor, { op := 0x11E, fmts := intF, vb := true }),
   (.vcmplt, { op := 0x11F, fmts := intF, vb := true, uns := true }),
   (.vcmpeq, { op := 0x120, fmts := intF, vb := true }),
   (.vsel, { op := 0x121, fmts := laneF, vb := true, vc := true }),
   (.vbcast, { op := 0x122, fmts := laneF, va := false, slots := [(133, 128), (127, 64)] }),
   (.vmov, { op := 0x123, fmts := laneF }),
   (.vabss, { op := 0x124, fmts := intF }),
   (.vnegs, { op := 0x125, fmts := intF }),
   (.vfadd, { op := 0x140, fmts := fpF, vb := true, rnd := true }),
   (.vfsub, { op := 0x141, fmts := fpF, vb := true, rnd := true }),
   (.vfmul, { op := 0x142, fmts := fpF, vb := true, rnd := true })]

/-- Those of the floating-point, reduction and panel rows. -/
def vectorRowsB : List ((Issue → BitVec 246 → Instr) × VRow) :=
  [(.vfma, { op := 0x143, fmts := fpF, vb := true, vc := true, rnd := true }),
   (.vfnma, { op := 0x144, fmts := fpF, vb := true, vc := true, rnd := true }),
   (.vfdiv, { op := 0x145, fmts := fp3F, vb := true, rnd := true }),
   (.vfsqrt, { op := 0x146, fmts := fp3F, rnd := true }),
   (.vfmin, { op := 0x147, fmts := fp3F, vb := true }),
   (.vfmax, { op := 0x148, fmts := fp3F, vb := true }),
   (.vfscale, { op := 0x149, fmts := fpF, rnd := true, slots := [(141, 128)] }),
   (.vrsum, { op := 0x160, fmts := laneF, uns := true, slots := [(139, 128)] }),
   (.vrssq, { op := 0x161, fmts := laneF, uns := true, slots := [(139, 128)] }),
   (.vrdot, { op := 0x162, fmts := laneF, vb := true, uns := true, slots := [(139, 128)] }),
   (.vramax, { op := 0x163, fmts := (intF ++ fp3F), uns := true }),
   (.vpexp, { op := 0x170, fmts := [4, 5] }),
   (.vpslice, { op := 0x171, fmts := [4, 5], vb := true, imm := [(198, 192)] }),
   (.vphdr, { op := 0x172, fmts := [4, 5], va := false, vb := true, vl := false, slots := [(133, 128), (80, 64)] })]

/-- The 44 vector instructions with their operand rows. -/
def vectorRows : List ((Issue → BitVec 246 → Instr) × VRow) := vectorRowsA ++ vectorRowsB

/-! ### What an issue leaves -/

/-- An unstarted item of the vector queue has been issued (R123, R167): the storage is as before. -/
def JoinsVectorQueue (s t : State) (i : Issue) (op : Nat) (w : BitVec 246) : Prop :=
  ∃ it, (tileAt t i.tile).vec.queue = (tileAt s i.tile).vec.queue ++ [it] ∧
    (tileAt t i.tile).items = (tileAt s i.tile).items ++ [it] ∧
    it.kind = .vector ∧ it.op.toNat = op ∧ it.w = w ∧ it.stream = i.stream ∧ it.seq = (strm s i.tile i.stream).seq ∧
    it.addr = (strm s i.tile i.stream).pc ∧ it.started = false ∧
    (strm t i.tile i.stream).seq = (strm s i.tile i.stream).seq + 1 ∧ (tileAt t i.tile).vec.holder = some i.stream ∧ SameStorage s t

/-- An instruction with nothing to do is DONE in its issue (R133): one record with the stream's next number. -/
def DoneAtOnce (s t : State) (i : Issue) : Prop :=
  (∃ r : Record, t.firm.records = s.firm.records ++ [r] ∧ r.kind = 1 ∧ r.done = true ∧ r.number = (strm s i.tile i.stream).seq) ∧
    (strm t i.tile i.stream).seq = (strm s i.tile i.stream).seq + 1

/-- A tile has halted with a reason (R154, R160): the first halt since program load stays in the halt registers, to which another stream
that faults in its cycle adds the multi bit, and no stream of the tile goes on. -/
def HaltedWith (s t : State) (tile : Fin 64) (st : Stream) (addr : BitVec 48) (reason : BitVec 8) : Prop :=
  (tileAt t tile).halt.valid = true ∧
    ((tileAt s tile).halt.valid = false → (tileAt t tile).halt.reason = reason ∧ (tileAt t tile).halt.addr = addr ∧
      (tileAt t tile).halt.stream.toNat = sc st) ∧
    ((tileAt s tile).halt.valid = true → (tileAt s tile).halt.cycle ≠ t.time.cycle → (tileAt t tile).halt = (tileAt s tile).halt) ∧
    ((tileAt s tile).halt.valid = true → (tileAt s tile).halt.cycle = t.time.cycle → (tileAt s tile).halt.stream.toNat ≠ sc st →
      (tileAt t tile).halt.multi = true) ∧
    ∀ q, (strm t tile q).run ≠ .active

end Sys2Proof.Machine
end

