-- ==== Sys2Proof/WellFormed.lean ====
section
/-! DEFINITION. Well-formed commands: the operands fit the wire formats that carry them (log 5), and an
`ILLEGAL_OPCODE` word really has an unassigned opcode. -/

namespace Sys2Proof

/-- A packet's payload is at most 4,064 B, the most that its length check lets through (R401, R407). -/
def packetWf (p : Packet) : Bool := p.payload.length ≤ 4064

/-- A hop list has 1 to 64 hops (R296). -/
def hopsWf (m : PathMsg) : Bool := 1 ≤ m.hops.length && m.hops.length ≤ 64

/-- A message that goes along a hop list has taken the first hop, and none beyond the last (R296, R301). -/
def pathWf (m : PathMsg) : Bool := hopsWf m && 1 ≤ m.pos && m.pos ≤ m.hops.length

/-- A routed message carries at most 4,096 B (R274). -/
def qWf (m : QMsg) : Bool := m.body.length ≤ 4096

/-- A codeword is 2,048 bytes (R270). -/
def codewordWf (cw : List Byte) : Bool := cw.length = 2048

/-- A container arrives in the one or two codewords that hold its 544 bytes (R283). -/
def arrivalWf (cws : List (List Byte)) (off : Nat) : Bool :=
  off < 2000 && cws.length = (off + 544 + 1999) / 2000 && cws.all codewordWf

/-- A mirror extent's item number is 2^31 and its index, in 32 bits (R376, R298; log 90). -/
def mirrorWf (m : MirrorExtent) : Bool := m.index < 2 ^ 31

/-- An MCTP message of the vendor-defined type is a header and the payload whose length bytes 20 to 23 of it give (R401,
R408); a length above 4,064 is left to check 1, whatever follows (R407). -/
def mctpWf (b : List Byte) : Bool :=
  let n := Machine.leNat (Machine.sub b 20 4)
  32 ≤ b.length && b.length ≤ 4096 && (4064 < n || b.length == 32 + n)

/-- A command message carries a packet within its length, and a 16-bit count otherwise (R408). -/
def commandWf : CommandMsg → Bool
  | .packet _ p => packetWf p
  | .validate _ p => packetWf p
  | .execute _ p => packetWf p
  | .report .. => true
  | .genState .. => true

/-- The well-formed commands. -/
def wellFormed : Instr → Bool
  | .nop _ _ => true
  | .endStream _ _ => true
  | .jmp _ _ => true
  | .bnz _ _ => true
  | .loop _ _ => true
  | .sli _ _ => true
  | .ali _ _ => true
  | .sop _ _ => true
  | .aadd _ _ => true
  | .sld _ _ => true
  | .sst _ _ => true
  | .nutset _ _ => true
  | .sealset _ _ => true
  | .wait _ _ => true
  | .waitSatisfied _ _ => true
  | .signal _ _ => true
  | .signalArrival _ _ => true
  | .arrive _ _ => true
  | .slot _ _ => true
  | .dma _ _ => true
  | .dmaDescriptorStart _ => true
  | .dmaComplete _ _ _ _ => true
  | .mma _ _ => true
  | .mmaCoutComplete _ _ _ _ => true
  | .mmaDrainComplete _ _ _ _ => true
  | .fencedReissue _ => true
  | .withyOverflow _ _ _ => true
  | .drainTimeout _ _ _ _ => true
  | .streamWatchdog _ _ => true
  | .contextSwitch _ => true
  | .contextTakeUp _ => true
  | .fetchLineArrival _ _ _ => true
  | .vld _ _ => true
  | .vst _ _ => true
  | .vcvtl _ _ => true
  | .vcvts _ _ => true
  | .vcvt _ _ => true
  | .vadd _ _ => true
  | .vsub _ _ => true
  | .vadds _ _ => true
  | .vsubs _ _ => true
  | .vmul _ _ => true
  | .vmulh _ _ => true
  | .vsrs _ _ => true
  | .vsrn _ _ => true
  | .vshls _ _ => true
  | .vwid _ _ => true
  | .vmin _ _ => true
  | .vmax _ _ => true
  | .vand _ _ => true
  | .vor _ _ => true
  | .vxor _ _ => true
  | .vcmplt _ _ => true
  | .vcmpeq _ _ => true
  | .vsel _ _ => true
  | .vbcast _ _ => true
  | .vmov _ _ => true
  | .vabss _ _ => true
  | .vnegs _ _ => true
  | .vfadd _ _ => true
  | .vfsub _ _ => true
  | .vfmul _ _ => true
  | .vfma _ _ => true
  | .vfnma _ _ => true
  | .vfdiv _ _ => true
  | .vfsqrt _ _ => true
  | .vfmin _ _ => true
  | .vfmax _ _ => true
  | .vfscale _ _ => true
  | .vrsum _ _ => true
  | .vrssq _ _ => true
  | .vrdot _ _ => true
  | .vramax _ _ => true
  | .vpexp _ _ => true
  | .vpslice _ _ => true
  | .vphdr _ _ => true
  | .vectorStart _ _ _ => true
  | .vectorComplete _ => true
  | .tlayer _ _ => true
  | .rcmp _ _ => true
  | .npack _ _ => true
  | .nclip _ _ => true
  | .sopen _ _ => true
  | .sstep _ _ => true
  | .skaddr _ _ => true
  | .tupd _ _ => true
  | .tclose _ _ => true
  | .trecrd _ _ => true
  | .trecwr _ _ => true
  | .tscale _ _ => true
  | .crs _ _ => true
  | .car _ _ => true
  | .cag _ _ => true
  | .cxch _ _ => true
  | .fput _ _ => true
  | .fget _ _ => true
  | .fsig _ _ => true
  | .illegalOpcode _ w => !opcodeAssigned (wordOpcode w)
  | .collectiveItemStart _ _ => true
  | .collectiveHop _ _ => true
  | .collectiveItemComplete _ _ => true
  | .collectiveTimeout _ _ => true
  | .barrierUp _ _ => true
  | .barrierDown _ _ => true
  | .barrierUpRepeat _ => true
  | .routingCycle _ => true
  | .containerArrival _ _ cws off => arrivalWf cws off
  | .nakRepeat _ => true
  | .replayPendingTimeout _ => true
  | .packetWrite _ => true
  | .packetSignal _ => true
  | .packetRead _ => true
  | .packetReadData _ => true
  | .packetMessage _ => true
  | .packetAck _ => true
  | .packetBounce _ => true
  | .packetReservedType _ => true
  | .ackSend _ => true
  | .fabAckTimeout _ => true
  | .qMessageForward _ _ m => qWf m
  | .reservedControlSymbol _ _ => true
  | .linkCredit _ _ _ => true
  | .linkTable _ _ => true
  | .linkTableTimer _ => true
  | .linkModeChange _ _ _ => true
  | .modeChangeFrame _ => true
  | .modeChangeAbandon _ => true
  | .linkSpareRequest _ _ => true
  | .linkSpareSwitch _ _ _ => true
  | .linkStrandFailed _ => true
  | .laneLossOfLock _ _ => true
  | .laneErrorRate _ _ => true
  | .fabricLinkDown _ _ => true
  | .commandMsg _ _ m => commandWf m
  | .replyMsg _ _ _ => true
  | .memberReplyTimeout _ => true
  | .eventMsg _ _ _ _ => true
  | .circuitSetup _ m => pathWf m
  | .circuitReady _ _ => true
  | .circuitFail _ _ _ _ => true
  | .circuitRelease _ m => hopsWf m
  | .circuitSetupTimeout _ => true
  | .circuitCodeword _ cw => codewordWf cw
  | .circuitAck _ _ _ _ => true
  | .circuitAckTimer _ => true
  | .circuitNakRepeat _ => true
  | .circuitBroken _ _ => true
  | .transitSet _ m => pathWf m
  | .quenchMsg _ _ => true
  | .unquenchMsg _ _ _ => true
  | .unassignedQtype _ _ _ => true
  | .hello _ _ => true
  | .helloTimer _ => true
  | .discoveryElection => true
  | .ringProbe _ _ => true
  | .coord _ _ _ => true
  | .discDone _ => true
  | .discoveryTimeout => true
  | .timeSymbol _ _ _ => true
  | .timeSymbolTimer _ => true
  | .ppsInEdge => true
  | .ppsLoss => true
  | .holdoverEntry => true
  | .drift => true
  | .ppsOutPulse => true
  | .epochQueueAct => true
  | .checkpointWriteStart => true
  | .extentCommit _ => true
  | .mirrorStart => true
  | .mirrorCircuitRetry => true
  | .mirrorTimeout => true
  | .mirrorExtentReceive m => mirrorWf m
  | .pageReadComplete _ _ _ => true
  | .programOrEraseFail _ => true
  | .fold => true
  | .refreshCheck => true
  | .blockRefresh => true
  | .wearLevelMove => true
  | .journalCompaction => true
  | .restoreExtentRead _ _ => true
  | .restoreComplete => true
  | .exportExtent _ => true
  | .tilePatrolScrub _ _ _ => true
  | .llmPatrolScrub _ _ _ _ => true
  | .hbmPatrolScrub _ _ _ => true
  | .spCorrectedWriteback _ => true
  | .hbmCorrectedWriteback _ => true
  | .hbmRowRepair _ _ => true
  | .hbmSlotGrant _ _ => true
  | .hbmReadComplete _ _ _ _ => true
  | .llmWritebackComplete _ _ => true
  | .llmModeChangeDone => true
  | .marchComplete _ _ => true
  | .cxlResponse _ _ _ => true
  | .cxlRequestTimeout _ => true
  | .flitReceived _ _ => true
  | .vkxRetrain => true
  | .vkxRequestTimeout _ => true
  | .vkxDownRetrainTimer => true
  | .rdUc _ => true
  | .rdS _ => true
  | .rdX _ => true
  | .wrUc _ _ => true
  | .wrLine _ _ => true
  | .wb _ _ => true
  | .evict _ => true
  | .snpInv _ => true
  | .snpSh _ => true
  | .cmp _ => true
  | .snpAck _ => true
  | .data _ _ => true
  | .snpData _ _ => true
  | .commandSlotTake _ => true
  | .ringEntryWrite => true
  | .ringHeadAdvance _ => true
  | .statusCopy => true
  | .mctpMessage _ b => mctpWf b
  | .devInfo p => packetWf p
  | .devStatus p => packetWf p
  | .devReset p => packetWf p
  | .faultClear p => packetWf p
  | .ledgerRead p => packetWf p
  | .groupDefine p => packetWf p
  | .groupDelete p => packetWf p
  | .groupRead p => packetWf p
  | .configCommit p => packetWf p
  | .configRollback p => packetWf p
  | .configRead p => packetWf p
  | .progLoad p => packetWf p
  | .progLoadDone => true
  | .progStart p => packetWf p
  | .progPause p => packetWf p
  | .pauseDrainDone => true
  | .progResume p => packetWf p
  | .progUnload p => packetWf p
  | .progStatus p => packetWf p
  | .syncWrite p => packetWf p
  | .debugResume p => packetWf p
  | .memRead p => packetWf p
  | .memWrite p => packetWf p
  | .memCopy p => packetWf p
  | .memCopyDone _ => true
  | .llmMode p => packetWf p
  | .cxlRetrain p => packetWf p
  | .sliceSet p => packetWf p
  | .circuitOpen p => packetWf p
  | .circuitClose p => packetWf p
  | .transitGrant p => packetWf p
  | .transitRevoke p => packetWf p
  | .quench p => packetWf p
  | .unquench p => packetWf p
  | .portRetrain p => packetWf p
  | .ceBind p => packetWf p
  | .ceUnbind p => packetWf p
  | .timeSet p => packetWf p
  | .timeCancel p => packetWf p
  | .snapshotAt p => packetWf p
  | .hamperArm p => packetWf p
  | .hamperDisarm p => packetWf p
  | .hamperRestore p => packetWf p
  | .hamperExport p => packetWf p
  | .mirrorRetry p => packetWf p
  | .genPin p => packetWf p
  | .genUnpin p => packetWf p
  | .genDelete p => packetWf p
  | .genList p => packetWf p
  | .cloveRead p => packetWf p
  | .cloveWrite p => packetWf p
  | .sampleRead p => packetWf p
  | .absentRead p => packetWf p
  | .marchRun p => packetWf p
  | .repairLogRead p => packetWf p
  | .retiredRead p => packetWf p
  | .ovfLogRead p => packetWf p
  | .snapshotRead p => packetWf p
  | .arrayUnfence p => packetWf p
  | .attest p => packetWf p
  | .identityRead p => packetWf p
  | .fwUpdate p => packetWf p
  | .ledgerDrainTimeout => true
  | .powerOn _ => true
  | .firmwareSlotVerify _ => true
  | .configurationLoad => true
  | .startupMarch _ => true
  | .hbmTraining _ _ => true
  | .journalReplay _ _ => true
  | .fabricLinkTraining _ => true
  | .coordinatePlacement => true
  | .timeLock => true
  | .timeSetTimeout => true
  | .timeLockTimeout => true
  | .phaseBoundExceeded => true
  | .resetNAssert => true
  | .resetHoldExpiry => true
  | .resetNRelease => true
  | .managementWatchdog => true
  | .pwrGoodFall => true
  | .flowOkFall => true
  | .flowOkRise => true
  | .flowTrip => true
  | .thermalTrip => true
  | .powerTrip => true
  | .thermalDemandRise _ => true
  | .thermalDemandFall _ => true
  | .powerDemandRise _ => true
  | .powerDemandFall _ => true
  | .inletOverTemperature _ => true
  | .stbyStatusRead => true
  | .stbyStatusClear _ _ => true
  | .cvtFlagsWrite _ _ _ => true
  | .arrayLagClear _ _ _ => true
  | .spScrubWrite _ _ => true
  | .llmScrubWrite _ _ => true
  | .hbmPrioWrite _ => true
  | .hbmScrubWrite _ _ => true
  | .cxlTimeoutWrite _ => true
  | .fabAckTimeoutWrite _ => true
  | .ceTimeoutWrite _ _ => true
  | .hamperRefreshWrite _ => true
  | .vkxWindowWrite _ => true
  | .vkxTimeoutWrite _ => true
  | .timeFecRead => true
  | .registerWrite _ _ _ => true
  | .vkxRetrainComplete _ => true
  | .portRetrainComplete _ => true
  | .cxlRetrainComplete _ => true
  | .spiNorWriteComplete => true
  | .mctpCoordinateWrite _ _ => true
  | .replyValidWordClear _ => true
  | .standbyConverterStart => true

end Sys2Proof
end

