-- ==== Sys2Proof/Certificates/Slice0/Obligations.lean ====
section
/-! DEFINITION. The statements about the CT-1, for the provers. Each docstring names the rules that its statement rests on. -/

open Sys2Proof Sys2Proof.Machine

/-! ### The queue and the whole machine -/

/-- The step takes the command at the front of the queue and answers what the command answers with the queue's rest. -/
def Obligations.StepRunsTheFrontCommand : Prop :=
  ∀ (c : Instr) (rest : List Instr) (s : State), s.pending = c :: rest → step s = exec c { s with pending := rest }

/-! ### Sequencer and scalar instructions (R134, R135) -/

/-- `SLI` and `ALI` (R134): the named register takes the immediate; every other register of the stream, all storage, every other
stream and the shared state stay. -/
def Obligations.LoadImmediateWritesItsRegister : Prop :=
  ∀ (s : State) (i : Issue),
    (∀ sd imm, Ready s i (tileWord 0x008 (sliWord sd imm)) →
      Completes (.sli i (sliWord sd imm)) s fun t =>
        (∀ n, sReg (strm t i.tile i.stream) n = if n = sd.toNat then imm else sReg (strm s i.tile i.stream) n) ∧
        (∀ n, aReg (strm t i.tile i.stream) n = aReg (strm s i.tile i.stream) n) ∧
        SameStorage s t ∧ OnlyStream s t i.tile i.stream ∧ SameShared s t) ∧
    (∀ ad imm, Ready s i (tileWord 0x009 (aliWord ad imm)) →
      Completes (.ali i (aliWord ad imm)) s fun t =>
        (∀ n, aReg (strm t i.tile i.stream) n = if n = ad.toNat then imm else aReg (strm s i.tile i.stream) n) ∧
        (∀ n, sReg (strm t i.tile i.stream) n = sReg (strm s i.tile i.stream) n) ∧
        SameStorage s t ∧ OnlyStream s t i.tile i.stream ∧ SameShared s t)

/-- `SOP` and `AADD` (R134): the destination takes the result of the operation on the registers as they were, by the table of
op codes; shift amounts count modulo 64, and the address sum modulo 2^48. -/
def Obligations.ScalarArithmeticResults : Prop :=
  ∀ (s : State) (i : Issue),
    (∀ sd sa sb op useImm imm, op.toNat < 13 → Ready s i (tileWord 0x00A (sopWord sd sa sb op useImm imm)) →
      Completes (.sop i (sopWord sd sa sb op useImm imm)) s fun t =>
        let x := strm s i.tile i.stream
        let a := sReg x sa.toNat
        let b := if useImm then imm else sReg x sb.toNat
        let r : Word :=
          if op = 0x0 then a + b else if op = 0x1 then a - b else if op = 0x2 then a &&& b else if op = 0x3 then a ||| b
          else if op = 0x4 then a ^^^ b else if op = 0x5 then a <<< (b.toNat % 64) else if op = 0x6 then a >>> (b.toNat % 64)
          else if op = 0x7 then a.sshiftRight (b.toNat % 64) else if op = 0x8 then a * b
          else if op = 0x9 then (if a.toInt < b.toInt then a else b) else if op = 0xA then (if a.toInt < b.toInt then b else a)
          else if op = 0xB then (if a.toInt < b.toInt then 1 else 0) else (if a = b then 1 else 0)
        (∀ n, sReg (strm t i.tile i.stream) n = if n = sd.toNat then r else sReg x n) ∧
        (∀ n, aReg (strm t i.tile i.stream) n = aReg x n) ∧
        SameStorage s t ∧ OnlyStream s t i.tile i.stream ∧ SameShared s t) ∧
    (∀ ad aa sb useImm imm, Ready s i (tileWord 0x00B (aaddWord ad aa sb useImm imm)) →
      Completes (.aadd i (aaddWord ad aa sb useImm imm)) s fun t =>
        let x := strm s i.tile i.stream
        let b := if useImm then imm.toNat else (sReg x sb.toNat).toNat % 2 ^ 48
        (∀ n, (aReg (strm t i.tile i.stream) n).toNat =
          if n = ad.toNat then ((aReg x aa.toNat).toNat + b) % 2 ^ 48 else (aReg x n).toNat) ∧
        (∀ n, sReg (strm t i.tile i.stream) n = sReg x n) ∧
        SameStorage s t ∧ OnlyStream s t i.tile i.stream ∧ SameShared s t)

/-- `NOP`, `NUTSET`, `TLAYER`, `RCMP` and `SLOT` (R134, R135, R144, R204, R215): what each writes of its stream or of the stream's Clove
word, and that the registers, all storage, the other streams and the shared state stay. A `NOP` only goes on with the next word. -/
def Obligations.StreamSettingsTakeEffect : Prop :=
  ∀ (s : State) (i : Issue),
    let x := strm s i.tile i.stream
    (Ready s i (tileWord 0x000 0) → Completes (.nop i 0) s fun t =>
      (strm t i.tile i.stream).pc = (advance1 x).pc ∧ (strm t i.tile i.stream).loops = (advance1 x).loops ∧
      SameRegs s t i.tile i.stream ∧ SameStorage s t ∧ OnlyStream s t i.tile i.stream ∧ SameShared s t) ∧
    (∀ step elem, Ready s i (tileWord 0x010 (nutsetWord step elem)) →
      Completes (.nutset i (nutsetWord step elem)) s fun t =>
        (strm t i.tile i.stream).nutStep = step ∧ (strm t i.tile i.stream).nutElem = elem ∧
        SameRegs s t i.tile i.stream ∧ SameStorage s t ∧ OnlyStream s t i.tile i.stream ∧ SameShared s t) ∧
    (∀ layer base, Ready s i (tileWord 0x240 (tlayerWord layer base)) →
      Completes (.tlayer i (tlayerWord layer base)) s fun t =>
        cloveOf t i.tile i.stream = { cloveOf s i.tile i.stream with layer := layer, base := base } ∧
        (∀ st, st ≠ i.stream → cloveOf t i.tile st = cloveOf s i.tile st) ∧
        SameRegs s t i.tile i.stream ∧ SameStorage s t ∧ OtherStreams s t i.tile i.stream ∧ SameShared s t) ∧
    -- the window opens: the element counter is saved and takes the given value
    (∀ creg sn imm, (creg = true → imm = 0) → (cloveOf s i.tile i.stream).window = false →
      Ready s i (tileWord 0x241 (rcmpWord false creg sn imm)) →
      Completes (.rcmp i (rcmpWord false creg sn imm)) s fun t =>
        (cloveOf t i.tile i.stream).window = true ∧ (cloveOf t i.tile i.stream).save = x.nutElem ∧
        (strm t i.tile i.stream).nutElem = (if creg then sReg x sn.toNat else imm) ∧
        SameRegs s t i.tile i.stream ∧ SameStorage s t ∧ OtherStreams s t i.tile i.stream ∧ SameShared s t) ∧
    -- the window closes: the saved counter comes back
    (∀ creg sn, (cloveOf s i.tile i.stream).window = true → Ready s i (tileWord 0x241 (rcmpWord true creg sn 0)) →
      Completes (.rcmp i (rcmpWord true creg sn 0)) s fun t =>
        (cloveOf t i.tile i.stream).window = false ∧
        (strm t i.tile i.stream).nutElem = (cloveOf s i.tile i.stream).save ∧
        SameRegs s t i.tile i.stream ∧ SameStorage s t ∧ OtherStreams s t i.tile i.stream ∧ SameShared s t) ∧
    (∀ phase, phase.toNat < phaseCount s (ptileOf s i.tile) → Ready s i (tileWord 0x043 (slotWord phase)) →
      Completes (.slot i (slotWord phase)) s fun t =>
        (strm t i.tile i.stream).phase = phase ∧
        -- a shared grant that the phase does not give is released
        (∀ u < 5, (strm t i.tile i.stream).held.getLsbD u =
          (x.held.getLsbD u && (grantMask (phaseEntry s (ptileOf s i.tile) phase.toNat) u).testBit (sc i.stream))) ∧
        SameRegs s t i.tile i.stream ∧ SameStorage s t ∧ OnlyStream s t i.tile i.stream ∧ SameShared s t)

/-- `JMP` and `BNZ` (R126): a jump goes to an absolute address. A target that is not 32 B aligned halts with `ALIGNMENT`, one outside HBM and
the LLM scratchpad window with `OPERAND_RANGE`, and so does one outside the innermost body, whether or not a `BNZ` is taken. The
registers, all storage and every other stream stay. -/
def Obligations.JumpsGoToTheirTargets : Prop :=
  ∀ (s : State) (i : Issue) (target : BitVec 48),
    let x := strm s i.tile i.stream
    let inMemory := regionAt s target.toNat = .hbm ∨ regionAt s target.toNat = .llm
    let inBody := ∀ f ∈ x.loops.head?, f.start.toNat ≤ target.toNat ∧ target.toNat < f.stop.toNat
    (target.toNat % 32 = 0 → inMemory → inBody →
      (Ready s i (tileWord 0x002 (jmpWord target)) → Completes (.jmp i (jmpWord target)) s fun t =>
        (strm t i.tile i.stream).pc = target ∧ (strm t i.tile i.stream).loops = x.loops ∧
        (strm t i.tile i.stream).s = x.s ∧ (strm t i.tile i.stream).a = x.a ∧
        SameStorage s t ∧ OnlyStream s t i.tile i.stream ∧ SameShared s t) ∧
      (∀ sn, Ready s i (tileWord 0x003 (bnzWord sn target)) → Completes (.bnz i (bnzWord sn target)) s fun t =>
        (strm t i.tile i.stream).pc = (if sReg x sn.toNat ≠ 0 then target else (advance1 x).pc) ∧
        (strm t i.tile i.stream).loops = (if sReg x sn.toNat ≠ 0 then x.loops else (advance1 x).loops) ∧
        (strm t i.tile i.stream).s = x.s ∧ (strm t i.tile i.stream).a = x.a ∧
        SameStorage s t ∧ OnlyStream s t i.tile i.stream ∧ SameShared s t)) ∧
    (target.toNat % 32 ≠ 0 →
      (Ready s i (tileWord 0x002 (jmpWord target)) →
        Completes (.jmp i (jmpWord target)) s fun t => HaltedWith s t i.tile i.stream x.pc 0x04) ∧
      ∀ sn, Ready s i (tileWord 0x003 (bnzWord sn target)) →
        Completes (.bnz i (bnzWord sn target)) s fun t => HaltedWith s t i.tile i.stream x.pc 0x04) ∧
    (target.toNat % 32 = 0 → ¬ inMemory ∨ ¬ inBody →
      (Ready s i (tileWord 0x002 (jmpWord target)) →
        Completes (.jmp i (jmpWord target)) s fun t => HaltedWith s t i.tile i.stream x.pc 0x03) ∧
      ∀ sn, Ready s i (tileWord 0x003 (bnzWord sn target)) →
        Completes (.bnz i (bnzWord sn target)) s fun t => HaltedWith s t i.tile i.stream x.pc 0x03)

/-- `LOOP` (R125, R132, R134): the body runs as often as the count says, up to four levels deep and never past the end of the enclosing
body; a count or a body of zero skips it. At the end of the innermost body the stream goes back to its start until the last iteration. -/
def Obligations.LoopsRepeatTheirBody : Prop :=
  (∀ (s : State) (i : Issue),
    let x := strm s i.tile i.stream
    (∀ step len count, count ≠ 0 → len ≠ 0 → x.loops.length < 4 →
      (∀ f ∈ x.loops.head?, x.pc.toNat + 32 * (len.toNat + 1) ≤ f.stop.toNat) →
      Ready s i (tileWord 0x004 (loopWord step len count)) →
      Completes (.loop i (loopWord step len count)) s fun t =>
        (strm t i.tile i.stream).pc = x.pc + 32 ∧
        (strm t i.tile i.stream).loops =
          ⟨x.pc + 32, x.pc + 32 + BitVec.ofNat 48 (32 * len.toNat), count.toNat, 0, step⟩ :: x.loops ∧
        (strm t i.tile i.stream).s = x.s ∧ (strm t i.tile i.stream).a = x.a ∧
        SameStorage s t ∧ OnlyStream s t i.tile i.stream ∧ SameShared s t) ∧
    (∀ sn step len, (sReg x sn.toNat).toNat % 2 ^ 32 ≠ 0 → len ≠ 0 → x.loops.length < 4 →
      (∀ f ∈ x.loops.head?, x.pc.toNat + 32 * (len.toNat + 1) ≤ f.stop.toNat) →
      Ready s i (tileWord 0x004 (loopRegWord sn step len)) →
      Completes (.loop i (loopRegWord sn step len)) s fun t =>
        (strm t i.tile i.stream).pc = x.pc + 32 ∧
        ((strm t i.tile i.stream).loops.head?.map (·.count)) = some ((sReg x sn.toNat).toNat % 2 ^ 32)) ∧
    (∀ step len count, (count = 0 ∨ len = 0) → x.loops = [] → Ready s i (tileWord 0x004 (loopWord step len count)) →
      Completes (.loop i (loopWord step len count)) s fun t =>
        (strm t i.tile i.stream).pc = x.pc + 32 + BitVec.ofNat 48 (32 * len.toNat) ∧ (strm t i.tile i.stream).loops = []) ∧
    (∀ step len count, x.loops.length = 4 → count ≠ 0 → len ≠ 0 → Ready s i (tileWord 0x004 (loopWord step len count)) →
      Completes (.loop i (loopWord step len count)) s fun t => HaltedWith s t i.tile i.stream x.pc 0x03)) ∧
  (∀ (x : StreamCtx) (f : LoopFrame) (fs : List LoopFrame), x.loops = f :: fs → x.pc + 32 = f.stop →
    (f.iter + 1 < f.count → advance1 x = { x with loops := { f with iter := f.iter + 1 } :: fs, pc := f.start }) ∧
    (f.count ≤ f.iter + 1 → advance1 x = goTo { x with loops := fs } f.stop))

/-- `END` (R134, R410): with no chain open the stream issues no further instruction, and the module leaves `RUNNING` for `LOADED` with the
last stream of the program. -/
def Obligations.EndStopsTheStream : Prop :=
  ∀ (s : State) (i : Issue), Ready s i (tileWord 0x001 0) → openChains (atIssue s i) i.tile = [] →
    Completes (.endStream i 0) s fun t =>
      (strm t i.tile i.stream).run = .ended ∧ (∀ w, ¬ Ready t i w) ∧
      (t.firm.state = .running ∨ t.firm.state = .loaded) ∧ (t.firm.state = .loaded ↔ allEnded t = true) ∧ SameStorage s t

/-- The seal rules (R147, R148) in their order, for a consumer that expects seal n and a producer that stamps it, on a page with seal g: a
seal precedes another when it is 1 to 7 behind it modulo 16. One that passes joins the page's uses in flight. -/
def Obligations.PagesAreCheckedBySeals : Prop :=
  ∀ (s : State) (p slot n page : Nat), n < 16 →
    let g := sealOf s p page
    let behind := fun (a b : Nat) => (b + 16 - a) % 16
    let want := (n + 15) % 16
    let consumers := usesOf s p page false
    let producers := usesOf s p page true
    let c := consumerCheck s p slot n page
    let d := producerCheck s p slot n false page
    (g = n → producers = [] → c.bad = false) ∧
    (g = n → producers ≠ [] → c.bad = true ∧ c.reason = 0x06) ∧
    (1 ≤ behind g n → behind g n ≤ 7 → c.bad = true ∧ c.reason = 0x05) ∧
    (8 ≤ behind g n → c.bad = true ∧ c.reason = 0x06) ∧
    (consumers ≠ [] → d.bad = true ∧ d.reason = 0x06) ∧
    (consumers = [] → producers ≠ [] → d.bad = true ∧ d.reason = 0x05) ∧
    (consumers = [] → producers = [] →
      (g = want → d.bad = false) ∧
      (1 ≤ behind g want → behind g want ≤ 7 → d.bad = true ∧ d.reason = 0x05) ∧
      (8 ≤ behind g want → d.bad = true ∧ d.reason = 0x06)) ∧
    ∀ (owner : Nat) (st : Stream) (seq : BitVec 32) (cend : Option Nat) (o : Operand), o.ptile = p → page < 1024 →
      page ∈ pagesOf o.ranges → (∀ e ∈ cend, s.time.cycle < e) →
      ∃ u ∈ usesOf (register s owner st seq cend [o]) p page o.producer, u.owner = owner ∧ u.stream = st ∧ u.seq = seq ∧
        u.sealed.toNat = o.named % 16

/-- `SLD`, `SST` and `SEALSET` (R134, R135, R147-R149): a consumer finds the seal it names and no producer in flight; a producer
the seal before its own and nobody in flight. The 8 bytes move in little-endian order, and no other byte of any storage changes. -/
def Obligations.ScratchpadScalarsMoveEightBytes : Prop :=
  ∀ (s : State) (i : Issue),
    let x := strm s i.tile i.stream
    let p := ptileOf s i.tile
    let now := beforeIssue s i
    (∀ sd addr rel g, addr.toNat % 8 = 0 → sealOf s p (addr.toNat / 4096) = effSeal x rel g.toNat →
      usesOf now p (addr.toNat / 4096) true = [] → spError (tileAt s i.tile).ctx addr.toNat 8 = none →
      Ready s i (tileWord 0x00C (sldWord sd addr rel g)) →
      Completes (.sld i (sldWord sd addr rel g)) s fun t =>
        (∀ n, sReg (strm t i.tile i.stream) n =
          if n = sd.toNat then BitVec.ofNat 64 (rdNat (tileAt s i.tile).ctx.sp addr.toNat 8) else sReg x n) ∧
        (∀ n, aReg (strm t i.tile i.stream) n = aReg x n) ∧ SameStorage s t ∧ SameShared s t) ∧
    (∀ sa addr rel g, addr.toNat % 8 = 0 → (sealOf s p (addr.toNat / 4096) + 1) % 16 = effSeal x rel g.toNat →
      usesOf now p (addr.toNat / 4096) true = [] → usesOf now p (addr.toNat / 4096) false = [] →
      devTile s p = i.tile.val →
      Ready s i (tileWord 0x00D (sstWord sa addr rel g)) →
      Completes (.sst i (sstWord sa addr rel g)) s fun t =>
        (∀ k < 8, rd 0 (tileAt t i.tile).ctx.sp (addr.toNat + k) = ((sReg x sa.toNat) >>> (8 * k)).setWidth 8) ∧
        (∀ a, a < addr.toNat ∨ addr.toNat + 8 ≤ a → rd 0 (tileAt t i.tile).ctx.sp a = rd 0 (tileAt s i.tile).ctx.sp a) ∧
        (∀ n : Nat, n ≠ i.tile.val → (tileAt t n).ctx.sp = (tileAt s n).ctx.sp) ∧
        sealOf t p (addr.toNat / 4096) = effSeal x rel g.toNat ∧
        (∀ q, q ≠ addr.toNat / 4096 → sealOf t p q = sealOf s p q) ∧ t.mem = s.mem) ∧
    (∀ first count v, first.toNat + count.toNat ≤ 1024 →
      (∀ q, first.toNat ≤ q → q < first.toNat + count.toNat → usesOf now p q true = [] ∧ usesOf now p q false = []) →
      devTile s p = i.tile.val →
      Ready s i (tileWord 0x011 (sealsetWord first count v)) →
      Completes (.sealset i (sealsetWord first count v)) s fun t =>
        (∀ q, sealOf t p q = if first.toNat ≤ q ∧ q < first.toNat + count.toNat then v.toNat else sealOf s p q) ∧
        (∀ n : Nat, (tileAt t n).ctx.sp = (tileAt s n).ctx.sp) ∧ t.mem = s.mem)

/-! ### Counters and barriers (R136, R145, R310-R323) -/

/-- `WAIT` and `WAIT_SATISFIED` (R136, R145, R311): with the threshold reached and the named units free, which no earlier stream takes in the same
cycle, the counter loses the threshold, the stream holds the units and goes on; else the head waits and nothing is subtracted. -/
def Obligations.WaitSubtractsItsThreshold : Prop :=
  (∀ (s : State) (i : Issue) (scope : BitVec 2) (index : BitVec 6) (threshold : BitVec 16) (units : BitVec 4) (vec rel : Bool),
    let x := strm s i.tile i.stream
    let w := waitWord scope index threshold units vec rel
    let mask : BitVec 5 := flag1 vec ++ units
    let now := if rel then releaseUnits (atIssue s i) i.tile i.stream fun u => x.held.getLsbD u else atIssue s i
    let k := scope.toNat
    let tgt := ctrTarget k (ptileOf s i.tile)
    let head : Waiting := ⟨.sync, scope, index, threshold, mask, 0⟩
    scope ≠ 3 → (scope = 1 → index.toNat ≤ 31) →
    (∀ u, mask.getLsbD u = true → (maskOf s i.tile i.stream u).testBit (sc i.stream) = true ∧ sharedMask (maskOf s i.tile i.stream u) = true) →
    Ready s i (tileWord 0x040 w) →
    (threshold.toNat ≤ ctrVal s k tgt index.toNat → (∀ u, mask.getLsbD u = true → unitFree now i.tile u = true) →
      earlierTakes now i.tile i.stream head = false →
      Completes (.wait i w) s fun t =>
        ctrVal t k tgt index.toNat = ctrVal s k tgt index.toNat - threshold.toNat ∧
        (strm t i.tile i.stream).wait = none ∧ (strm t i.tile i.stream).pc = (advance1 x).pc ∧
        (strm t i.tile i.stream).held = (if rel then 0 else x.held) ||| mask ∧ SameStorage s t) ∧
    ((ctrVal s k tgt index.toNat < threshold.toNat ∨ (∃ u, mask.getLsbD u = true ∧ unitFree now i.tile u = false) ∨
        earlierTakes now i.tile i.stream head = true) →
      openChains (atIssue s i) i.tile = [] →
      Completes (.wait i w) s fun t =>
        (strm t i.tile i.stream).wait = some head ∧
        (strm t i.tile i.stream).pc = x.pc ∧ ctrVal t k tgt index.toNat = ctrVal s k tgt index.toNat ∧ SameStorage s t)) ∧
  (∀ (s : State) (tile : Fin 64) (st : Stream) (w : Waiting),
    let x := strm s tile st
    let tgt := ctrTarget w.scope.toNat (ptileOf s tile)
    x.wait = some w → w.kind = .sync → goesOn s = true → x.run = .active → x.paused = false →
    (tileAt s tile).loaded.isSome = true → waitReady s tile w = true → earlierTakes s tile st w = false →
    Completes (.waitSatisfied tile st) s fun t =>
      ctrVal t w.scope.toNat tgt w.index.toNat = ctrVal s w.scope.toNat tgt w.index.toNat - w.threshold.toNat ∧
      (strm t tile st).wait = none ∧ (strm t tile st).pc = (advance1 x).pc ∧
      (strm t tile st).held = x.held ||| w.acquire ∧ SameStorage s t)

/-- `SIGNAL` and `SIGNAL_ARRIVAL` (R136, R312-R314): a counter of the own tile takes the increment at issue, any other when the latency of
its scope has passed; an increment that does not fit leaves the counter and halts the signaller. -/
def Obligations.SignalReachesItsCounter : Prop :=
  (∀ (s : State) (i : Issue) (scope : BitVec 2) (index : BitVec 6) (inc : BitVec 16) (peer : BitVec 9),
    let w := signalWord scope index inc peer
    let p := ptileOf s i.tile
    (scope = 1 → index.toNat ≤ 31) → (scope = 3 → peer.toNat < progP s) → Ready s i (tileWord 0x041 w) →
    (scope = 0 → ctrVal s 0 p index.toNat + inc.toNat ≤ 0xFFFF →
      Completes (.signal i w) s fun t =>
        ctrVal t 0 p index.toNat = ctrVal s 0 p index.toNat + inc.toNat ∧
        (tileAt t i.tile).signals = (tileAt s i.tile).signals ∧ SameStorage s t) ∧
    (scope ≠ 0 → inc ≠ 0 →
      Completes (.signal i w) s fun t =>
        (∃ g, (tileAt t i.tile).signals = (tileAt s i.tile).signals ++ [g] ∧ g.scope = scope ∧ g.index = index ∧ g.inc = inc ∧
          g.stream = i.stream ∧ g.due = t.time.cycle + (if scope = 1 then 8 else 32) ∧
          g.target = (if scope = 1 then p / 4 else if scope = 3 then peer.toNat else p)) ∧
        t.cluster = s.cluster ∧ t.dieSync = s.dieSync ∧ SameStorage s t) ∧
    (scope ≠ 0 → inc = 0 →
      Completes (.signal i w) s fun t => (tileAt t i.tile).signals = (tileAt s i.tile).signals ∧ SameStorage s t)) ∧
  (∀ (s : State) (tile : Fin 64) (st : Stream) (g : SignalFlight),
    let k := if g.scope = 3 then 0 else g.scope.toNat
    nextSignal s tile st = some g →
    (ctrVal s k g.target g.index.toNat + g.inc.toNat ≤ 0xFFFF →
      Completes (.signalArrival tile st) s fun t =>
        ctrVal t k g.target g.index.toNat = ctrVal s k g.target g.index.toNat + g.inc.toNat ∧
        (tileAt t tile).signals = (tileAt s tile).signals.erase g ∧ g.due ≤ t.time.cycle ∧ SameStorage s t) ∧
    (0xFFFF < ctrVal s k g.target g.index.toNat + g.inc.toNat →
      Completes (.signalArrival tile st) s fun t =>
        ctrVal t k g.target g.index.toNat = ctrVal s k g.target g.index.toNat ∧ (tileAt t tile).halt.valid = true ∧
        ((tileAt s tile).halt.valid = false → (tileAt t tile).halt.reason = 0x09 ∧ (tileAt t tile).halt.addr = g.addr)))

/-- `ARRIVE`, `BARRIER_UP`, `BARRIER_DOWN` and `BARRIER_UP_REPEAT` (R51, R317, R318, R319, R320, R322): an arrival joins its round with its payload
and waits if it holds; a step mark moves the Nutmeg counters to the next step. A child's report of the current round counts once, one of
the round before is answered with `DOWN` again. The last arrival or report ends the round. `DOWN` of the current round releases it: held
streams go on, with the sum in the registers of a payload, other arrivals count up their counters, and the children get `DOWN`. -/
def Obligations.BarrierRoundsCountArrivals : Prop :=
  (∀ (s : State) (i : Issue) (tree : BitVec 4) (step pay : Bool) (sn : BitVec 5) (hold : Bool) (ctr : BitVec 6) (d : TreeDecl),
    let x := strm s i.tile i.stream
    let w := arriveWord tree step pay sn hold ctr
    let k := tree.toNat
    let old := rd {} s.trees k
    let payload : BitVec 128 := if pay then sReg x (sn.toNat + 1) ++ sReg x sn.toNat else 0
    let full := old.who.length + 1 = expected d ∧ old.sentUp = false ∧ ∀ p ∈ myChildren s, Fin.ofNat 8 p ∈ old.heard
    treeDecl s k = some d → d.step = step → (pay = true → sn ≠ 31 ∧ step = false) →
    (step = true → (cloveOf s i.tile i.stream).window = false) → inTree d (ptileOf s i.tile) i.stream = true →
    (∀ a ∈ old.who, ¬ (a.ptile = ptileOf s i.tile ∧ a.stream = i.stream)) →
    openChains (atIssue s i) i.tile = [] → Ready s i (tileWord 0x042 w) →
    (¬ full → Completes (.arrive i w) s fun t =>
      rd {} t.trees k = { old with
        who := old.who ++ [⟨ptileOf s i.tile, i.stream, hold, if pay then some sn else none, ctr⟩], acc := old.acc + payload } ∧
      (strm t i.tile i.stream).wait.isSome = hold ∧
      (strm t i.tile i.stream).pc = (if hold then x.pc else (advance1 x).pc) ∧
      (strm t i.tile i.stream).nutStep = (if step then x.nutStep + 1 else x.nutStep) ∧
      (strm t i.tile i.stream).nutElem = (if step then 0 else x.nutElem) ∧ SameStorage s t) ∧
    (full → Completes (.arrive i w) s fun t => RoundEnds s t k d old (old.acc + payload))) ∧
  (∀ (s : State) (port : Fin 8) (m : BarrierMsg) (d : TreeDecl),
    let old := rd {} s.trees m.tree.val
    let acc := if d.step then old.acc else old.acc + m.value
    let full := old.who.length = expected d ∧ old.sentUp = false ∧ ∀ p ∈ myChildren s, Fin.ofNat 8 p ∈ old.heard ++ [port]
    treeDecl s m.tree.val = some d → (myChildren s).contains port.val = true →
    (m.round = old.round → old.heard.contains port = false → ¬ full → Completes (.barrierUp port m) s fun t =>
      rd {} t.trees m.tree.val = { old with heard := old.heard ++ [port], acc := acc }) ∧
    (m.round = old.round → old.heard.contains port = false → full → Completes (.barrierUp port m) s fun t =>
      RoundEnds s t m.tree.val d old acc) ∧
    (m.round = old.round → old.heard.contains port = true → Completes (.barrierUp port m) s fun t =>
      t.trees = s.trees ∧ t.out = s.out) ∧
    (m.round = old.round - 1 → Completes (.barrierUp port m) s fun t => t.trees = s.trees ∧
      ∃ r, SentTwice s t port.val false r ∧ r.tree = m.tree ∧ r.round = m.round ∧ r.value = old.lastDown) ∧
    (m.round ≠ old.round → m.round ≠ old.round - 1 → Completes (.barrierUp port m) s fun t =>
      t.trees = s.trees ∧ t.out = s.out)) ∧
  (∀ (s : State) (port : Fin 8) (m : BarrierMsg) (d : TreeDecl),
    let old := rd {} s.trees m.tree.val
    let sum : BitVec 128 := if d.step then 0 else m.value
    treeDecl s m.tree.val = some d → (old.who.map fun a => (a.ptile, a.stream)).Nodup →
    (m.round = old.round → Completes (.barrierDown port m) s fun t =>
      rd {} t.trees m.tree.val = { round := old.round + 1, lastDown := m.value } ∧
      (∀ a ∈ old.who, a.hold = true →
        let x := ctxS (ctxOf s a.ptile) a.stream
        let y := ctxS (ctxOf t a.ptile) a.stream
        y.wait = none ∧ y.pc = (advance1 x).pc ∧
        match a.payload with
        | none => ∀ n, sReg y n = sReg x n
        | some k => ∀ n, sReg y n = if n = k.toNat + 1 then sum.extractLsb' 64 64 else if n = k.toNat then sum.extractLsb' 0 64 else sReg x n) ∧
      (∀ p i, ctrVal s 0 p i + arrivalsOn old.who p i ≤ 0xFFFF → ctrVal t 0 p i = ctrVal s 0 p i + arrivalsOn old.who p i) ∧
      ∀ p ∈ myChildren s, ∃ r, SentTwice s t p false r ∧ r.tree = m.tree ∧ r.round = old.round ∧ r.value = m.value) ∧
    (m.round ≠ old.round → Completes (.barrierDown port m) s fun t => t.trees = s.trees)) ∧
  (∀ (s : State) (tree : Fin 16) (d : TreeDecl) (port : Nat) (l1 l2 : StrandId),
    let old := rd {} s.trees tree.val
    treeDecl s tree.val = some d → myParent s = some port → old.sentUp = true →
    firstPath s port = some l1 → secondPath s port = some l2 →
    Completes (.barrierUpRepeat tree) s fun t =>
      ∃ m1 m2 : BarrierMsg, t.out = s.out ++ [.barrier l1 true m1, .barrier l2 true m2] ∧
        m1.tree = tree ∧ m1.round = old.round ∧ m1.value = (if d.step then 0 else old.acc) ∧
        m1.second = false ∧ m2 = { m1 with second := true })

/-! ### Training instructions of the sequencer (R209, R210, R214) -/

/-- `NPACK` and `NCLIP` (R209, R210): the payload pair, and the clip factor with its norm overflow. -/
def Obligations.NormInstructionsWriteTheirResults : Prop :=
  ∀ (s : State) (i : Issue),
    let x := strm s i.tile i.stream
    (∀ (sd : BitVec 5) (d : BitVec 64),
      let w := npackWord sd d
      let l := linOf d.toNat
      let c := (tileAt s i.tile).ctx
      let acc := rdNat c.sp l.addr 16
      let flags := rdNat c.sp (l.addr + 16) 8
      let v := if flags / 2 % 8 = 0 ∧ acc < 2 ^ 74 then acc else 2 ^ 101
      firstBad (reservedChecks w [(244, 240), (191, 128)] ++ [ckRange (decide (sd.toNat = 31)) 0 sd.toNat] ++
        fixedLin 1 l 9 (some 3) ++ [ckAlign (decide (l.addr % 8 ≠ 0)) 1 l.addr] ++
        sealChecks (beforeIssue s i) [linOperand (beforeIssue s i) i 1 false l]) = none →
      spError c l.addr 24 = none → Ready s i (tileWord 0x244 w) →
      Completes (.npack i w) s fun t =>
        (∀ n, sReg (strm t i.tile i.stream) n =
          if n = sd.toNat + 1 then BitVec.ofNat 64 (v / 2 ^ 64) else if n = sd.toNat then BitVec.ofNat 64 v else sReg x n) ∧
        SameStorage s t ∧ SameShared s t) ∧
    (∀ (sd ss st : BitVec 5) (lsb : BitVec 12),
      let tau := (sReg x st.toNat).toNat % 2 ^ 32
      let sum := (sReg x (ss.toNat + 1) ++ sReg x ss.toNat).toNat
      ss ≠ 31 → posFinite tau = true → Ready s i (tileWord 0x245 (nclipWord sd ss st lsb)) →
      Completes (.nclip i (nclipWord sd ss st lsb)) s fun t =>
        (∀ n, sReg (strm t i.tile i.stream) n = if n = sd.toNat then BitVec.ofNat 64 (nclipValue sum tau lsb.toInt).1 else sReg x n) ∧
        -- a sum of 2^101 or more says so in bit 62, and the step is noted for its one event
        (2 ^ 101 ≤ sum → sReg (strm t i.tile i.stream) sd.toNat = 0x4000000000000000 ∧ x.nutStep ∈ t.normStep) ∧
        (sum < 2 ^ 101 → t.normStep = s.normStep) ∧ SameStorage s t)

/-- `SOPEN`, `SSTEP` and `SKADDR` (R212-R214): a slot goes FREE, FORWARD, HELD, BACKWARD and back to FREE, which counts as a closed sample;
a keep address is the base plus the entries before it, each rounded up to 4 KiB. -/
def Obligations.SampleSlotsFollowTheirStates : Prop :=
  ∀ (s : State) (i : Issue),
    let x := strm s i.tile i.stream
    (∀ sn tag k, k.toNat < sampleSlots s → (rd {} s.samples k.toNat).state = 0 → Ready s i (tileWord 0x248 (sopenWord sn tag k)) →
      Completes (.sopen i (sopenWord sn tag k)) s fun t =>
        (∀ n, rd {} t.samples n = if n = k.toNat then ⟨sReg x sn.toNat, 0, tag, 1⟩ else rd {} s.samples n) ∧
        t.closed = s.closed ∧ SameStorage s t) ∧
    (∀ dst k, k.toNat < sampleSlots s → (dst = 0 ∨ dst = 2 ∨ dst = 3) →
      (rd {} s.samples k.toNat).state = (if dst = 2 then 1 else if dst = 3 then 2 else 3) →
      Ready s i (tileWord 0x249 (sstepWord dst k)) →
      Completes (.sstep i (sstepWord dst k)) s fun t =>
        (∀ n, rd {} t.samples n = if n = k.toNat then { rd {} s.samples n with state := dst } else rd {} s.samples n) ∧
        t.closed = s.closed + (if dst = 0 then 1 else 0) ∧ SameStorage s t) ∧
    (∀ ad read entry k, k.toNat < sampleSlots s → entry.toNat < (keepMap s).length →
      (if read then (rd {} s.samples k.toNat).state = 3 ∧ (rd {} s.samples k.toNat).kept.getLsbD entry.toNat = true
       else (rd {} s.samples k.toNat).state = 1) →
      Ready s i (tileWord 0x24A (skaddrWord ad read entry k)) →
      Completes (.skaddr i (skaddrWord ad read entry k)) s fun t =>
        (∀ n, aReg (strm t i.tile i.stream) n =
          if n = ad.toNat then BitVec.ofNat 48 (keepAddr s k.toNat entry.toNat) else aReg x n) ∧
        (∀ e, (rd {} t.samples k.toNat).kept.getLsbD e =
          ((rd {} s.samples k.toNat).kept.getLsbD e || (!read && decide (e = entry.toNat)))) ∧
        (rd {} t.samples k.toNat).state = (rd {} s.samples k.toNat).state ∧ SameStorage s t)

/-! ### The vector unit (R167-R173, R196) -/

/-- The 44 vector instructions of R173 and the five training instructions of the vector queue (R167, R194): one that passes its
checks joins the queue as an unstarted item with the stream's next number, and its stream holds the unit. -/
def Obligations.VectorInstructionsJoinTheQueue : Prop :=
  ∀ (s : State) (i : Issue) (w : BitVec 246),
    (∀ e ∈ vectorRows, Ready s i (tileWord e.2.op w) → firstBad (vecChecks e.2 (beforeIssue s i) i w) = none →
      (vElems e.2 (vword w) ≠ 0 → Completes (e.1 i w) s fun t => JoinsVectorQueue s t i e.2.op w) ∧
      (vElems e.2 (vword w) = 0 → Completes (e.1 i w) s fun t => DoneAtOnce s t i)) ∧
    (Ready s i (tileWord 0x250 w) → firstBad (tupdChecks (beforeIssue s i) i w) = none →
      ((vword w).vl ≠ 0 → Completes (.tupd i w) s fun t => JoinsVectorQueue s t i 0x250 w ∧
        (strm t i.tile i.stream).nutElem = (strm s i.tile i.stream).nutElem + BitVec.ofNat 64 (vword w).vl) ∧
      ((vword w).vl = 0 → Completes (.tupd i w) s fun t => DoneAtOnce s t i)) ∧
    (Ready s i (tileWord 0x251 w) → firstBad (recChecks (beforeIssue s i) i w 1 [(135, 128)]) = none →
      Completes (.tclose i w) s fun t => JoinsVectorQueue s t i 0x251 w) ∧
    (Ready s i (tileWord 0x252 w) →
      (let d := linOf (fld w 63 0)
       firstBad (recChecks (beforeIssue s i) i w 2 [(71, 64), (63, 0)] ++ fixedLin 3 d 6 (some 64) ++
         sealChecks (beforeIssue s i) [linOperand (beforeIssue s i) i 3 true d]) = none) →
      Completes (.trecrd i w) s fun t => JoinsVectorQueue s t i 0x252 w) ∧
    (Ready s i (tileWord 0x253 w) →
      (let d := linOf (fld w 191 128)
       firstBad (recChecks (beforeIssue s i) i w 2 [(191, 128), (71, 64)] ++ fixedLin 1 d 6 (some 16) ++
         sealChecks (beforeIssue s i) [linOperand (beforeIssue s i) i 1 false d]) = none) →
      Completes (.trecwr i w) s fun t => JoinsVectorQueue s t i 0x253 w) ∧
    (Ready s i (tileWord 0x254 w) → firstBad (tscaleChecks (beforeIssue s i) i w) = none →
      ((linOf (fld w 191 128)).count ≠ 0 → Completes (.tscale i w) s fun t => JoinsVectorQueue s t i 0x254 w) ∧
      ((linOf (fld w 191 128)).count = 0 → Completes (.tscale i w) s fun t => DoneAtOnce s t i))

/-- `VECTOR_START` and `VECTOR_COMPLETE` (R168-R170, R191, R196, R223): the head of the queue starts when it has issued and the datapath is
free, holds it for its occupancy, the splits of its own accesses and the cycles lost to others, fails where its start meets an error, and
else its results stand in the registers at once. The first started instruction due completes: its bytes are written and no other, and its
record says DONE. -/
def Obligations.VectorItemsStartAndComplete : Prop :=
  (∀ (s : State) (tile : Fin 64) (lost : Nat) (e : VectorFault) (it : Item) (q : List Item),
    let now := toFree 4096 s tile it
    let occ := itemOccupancy it
    let rs := itemReads it
    let bad := vecFault (tileAt now tile).ctx e rs.1 rs.2
    let met := noteVecFault now tile e bad
    let run := itemRun met tile it
    let x := (tileAt (if bad.isSome then met else run.1) tile).vec
    let start := max it.issued x.freeAt
    let took := occ.1 + ownSplits it + lost
    (tileAt s tile).vec.queue = it :: q → s.firm.held = false →
    Completes (.vectorStart tile lost e) s fun t =>
      (tileAt t tile).vec.queue = q ∧ (tileAt t tile).vec.freeAt = start + took ∧
      (tileAt t tile).vec.busy = x.busy + took ∧ (tileAt t tile).vec.bankLoss = x.bankLoss + ownSplits it + lost ∧
      ((tileAt s tile).vec.access = [] → x.freeAt = (tileAt s tile).vec.freeAt ∧ start ≤ t.time.cycle) ∧
      (∃ it', (tileAt t tile).vec.started = x.started ++ [it'] ∧ it'.seq = it.seq ∧ it'.stream = it.stream ∧
        it'.due = start + took + occ.2 ∧ it'.raised = run.2.raised ∧
        it'.failed = (bad.or run.2.fail).map fun f => BitVec.ofNat 8 f.1) ∧
      (bad = none → run.2.fail = none → ∀ n, vReg (tileAt t tile).ctx n =
        vReg (run.2.regs.foldl putPiece (tileAt run.1 tile).ctx) n)) ∧
  (∀ (s : State) (tile : Fin 64) (it : Item),
    let p := ptileOf s tile
    nextDone (tileAt (toVectorDone 4096 s tile) tile).vec.started = some it → it.failed = none → s.firm.draining = none →
    partWords s p it.writes = [] → (it.writes.map fun y => (y.1, y.2.1)).Nodup →
    Completes (.vectorComplete tile) s fun t =>
      it.due ≤ t.time.cycle ∧ (∀ j ∈ (tileAt t tile).vec.started, ¬ (j.stream = it.stream ∧ j.seq = it.seq)) ∧
      (∃ r : Record, t.firm.records = s.firm.records ++ [r] ∧ r.kind = 1 ∧ r.done = true ∧ r.number = it.seq) ∧
      (∀ y ∈ it.writes, rd 0 (ctxOf t (p + y.1)).sp y.2.1 = y.2.2) ∧
      (∀ n a, (∀ y ∈ it.writes, ¬ (p + y.1 = n ∧ y.2.1 = a)) → rd 0 (ctxOf t n).sp a = rd 0 (ctxOf s n).sp a))

/-! ### The tile DMA engine (R137, R138) -/

/-- `DMA`, `DMA_DESCRIPTOR_START` and `DMA_COMPLETE` (R133, R137, R138): a descriptor joins the queue or, empty, is DONE at once; up to four run
in issue order; a row from the tile's own scratchpad to its own scratchpad moves byte by byte and nothing else changes. -/
def Obligations.DmaQueuesStartsAndCopies : Prop :=
  (∀ (s : State) (i : Issue) (w : BitVec 246),
    let x := strm s i.tile i.stream
    Ready s i (tileWord 0x060 w) → firstBad (dmaChecks (beforeIssue s i) i w) = none →
    (dmaRows w (dmaSrc x w) (dmaDst x w) ≠ [] → Completes (.dma i w) s fun t =>
      ∃ it, (tileAt t i.tile).dmaQ = (tileAt s i.tile).dmaQ ++ [it] ∧ (tileAt t i.tile).items = (tileAt s i.tile).items ++ [it] ∧
        it.kind = .dma ∧ it.w = w ∧ it.stream = i.stream ∧ it.seq = x.seq ∧ it.scalar.toNat = dmaSrc x w ∧
        it.draw.toNat = dmaDst x w ∧ (strm t i.tile i.stream).seq = x.seq + 1 ∧ SameStorage s t) ∧
    (dmaRows w (dmaSrc x w) (dmaDst x w) = [] → Completes (.dma i w) s fun t => DoneAtOnce s t i)) ∧
  (∀ (s : State) (tile : Fin 64) (it : Item) (q : List Item),
    (tileAt s tile).dmaQ = it :: q → (tileAt s tile).dmaRun.length < 4 → s.firm.state ≠ .checkpoint → s.firm.held = false →
    Completes (.dmaDescriptorStart tile) s fun t =>
      (tileAt t tile).dmaQ = q ∧ (tileAt t tile).dmaRun = (tileAt s tile).dmaRun ++ [{ it with started := true }] ∧
      SameStorage s t ∧ SameShared s t) ∧
  (∀ (s : State) (tile : Fin 64) (it : Item) (src dst n : Nat),
    let p := ptileOf s tile
    (tileAt s tile).dmaRun.find? (fun i => i.stream == it.stream && i.seq == it.seq) = some it →
    fld it.w 244 242 = 0 → fld it.w 241 239 = 0 → fld it.w 236 235 = 0 →
    dmaRows it.w it.scalar.toNat it.draw.toNat = [((src : Int), (dst : Int), n)] → (src + n ≤ dst ∨ dst + n ≤ src) →
    (ctxOf s p).spUe = [] → it.failed = none → s.firm.draining = none →
    Completes (.dmaComplete tile it.stream it.seq .clean) s fun t =>
      (∀ k < n, rd 0 (ctxOf t p).sp (dst + k) = rd 0 (ctxOf s p).sp (src + k)) ∧
      (∀ a, a < dst ∨ dst + n ≤ a → rd 0 (ctxOf t p).sp a = rd 0 (ctxOf s p).sp a) ∧
      (∀ q, q ≠ p → ∀ a, rd 0 (ctxOf t q).sp a = rd 0 (ctxOf s q).sp a) ∧ t.mem.dev = s.mem.dev ∧
      (∃ r : Record, t.firm.records = s.firm.records ++ [r] ∧ r.done = true ∧ r.number = it.seq) ∧
      findItem t tile it.stream it.seq = none)

/-! ### The arrays (R98, R103, R105, R114, R139-R142) -/

/-- `MMA` (R133, R139, R142): an instruction of no product is DONE at once, any other becomes a work item. It is due no earlier than its span
and the fill and drain of R98 after its issue. With cout it leaves an open chain on each of its arrays, and no output is written. -/
def Obligations.MmaIssuesAnArrayItem : Prop :=
  ∀ (s : State) (i : Issue) (w : BitVec 246),
    let x := strm s i.tile i.stream
    let m := mmaWord w
    Ready s i (tileWord 0x080 w) → firstBad (mmaChecks (beforeIssue s i) i w) = none →
    (m.k = 0 → Completes (.mma i w) s fun t => DoneAtOnce s t i) ∧
    (m.k ≠ 0 → Completes (.mma i w) s fun t =>
      (∃ it, (tileAt t i.tile).items = (tileAt s i.tile).items ++ [it] ∧ it.kind = .array ∧ it.w = w ∧ it.seq = x.seq ∧
        it.due = t.time.cycle + mmaSpan m + (if m.cout then fillDrain m - 68 else fillDrain m) ∧
        (m.cout = true → it.writes = [])) ∧
      (strm t i.tile i.stream).seq = x.seq + 1 ∧ (strm t i.tile i.stream).pc = (advance1 x).pc ∧ SameStorage s t) ∧
    (m.cout = true → Completes (.mma i w) s fun t => ∀ q ∈ gangCells m,
      ∃ c, chainAt t (i.tile + q.1) q.2 = some c ∧ c.stream = i.stream ∧ c.seq = x.seq ∧ c.owner = ptileOf s i.tile ∧
        c.afmt.toNat = m.a.fmt ∧ c.bfmt.toNat = m.b.fmt)

/-- `MMA_COUT_COMPLETE` and `MMA_DRAIN_COMPLETE` (R98, R111, R114, R142): an item whose flow is over completes in that cycle. It is DONE,
and a drain writes its output bytes and no other; with a residue mismatch the physical array is fenced, the item leaves the ledger for
the firmware, and the tile halts. -/
def Obligations.MmaItemsComplete : Prop :=
  ∀ (s : State) (tile : Fin 64) (st : Stream) (seq : BitVec 32) (it : Item) (c : Nat),
    let p := ptileOf s tile
    let now := toArrayDone 4096 s tile st seq
    findItem s tile st seq = some it → it.kind = .array → it.failed = none → s.firm.draining = none →
    arrayDone now tile it = some c → c ≤ now.time.cycle →
    ((mmaWord it.w).cout = true → Completes (.mmaCoutComplete tile st seq .sound) s fun t =>
      t.time.cycle = now.time.cycle ∧
      (∃ r : Record, t.firm.records = s.firm.records ++ [r] ∧ r.done = true ∧ r.number = seq) ∧
      findItem t tile st seq = none ∧ ∀ n a, rd 0 (ctxOf t n).sp a = rd 0 (ctxOf s n).sp a) ∧
    ((mmaWord it.w).cout = false → partWords s p it.writes = [] → (it.writes.map fun y => (y.1, y.2.1)).Nodup →
      Completes (.mmaDrainComplete tile st seq .sound) s fun t =>
        t.time.cycle = now.time.cycle ∧
        (∃ r : Record, t.firm.records = s.firm.records ++ [r] ∧ r.done = true ∧ r.number = seq) ∧
        findItem t tile st seq = none ∧
        (∀ y ∈ it.writes, rd 0 (ctxOf t (p + y.1)).sp y.2.1 = y.2.2) ∧
        (∀ n a, (∀ y ∈ it.writes, ¬ (p + y.1 = n ∧ y.2.1 = a)) → rd 0 (ctxOf t n).sp a = rd 0 (ctxOf s n).sp a)) ∧
    (∀ (g array : Fin 4) col idx, isRef (mmaWord it.w) = false → isGang4 it = false → openChains s tile = [] →
      ∀ cmd ∈ (if (mmaWord it.w).cout then [Instr.mmaCoutComplete tile st seq (.residue g array col idx)]
        else [Instr.mmaDrainComplete tile st seq (.residue g array col idx)]),
      Completes cmd s fun t =>
        (tileAt t tile).fenced = (tileAt s tile).fenced ||| BitVec.ofNat 4 (2 ^ physOf (tileAt s tile).fenced array) ∧
        HaltedWith s t tile st it.addr 0x0E ∧ findItem t tile st seq = none ∧
        (∃ j ∈ (tileAt t tile).reissue, j.stream = st ∧ j.seq = seq ∧ j.failed = some 0x0E) ∧
        t.firm.records = s.firm.records)

/-- `WITHY_OVERFLOW`, `DRAIN_TIMEOUT`, `STREAM_WATCHDOG` and `ILLEGAL_OPCODE` (R103, R105, R128, R154, R157, R160): the tile halts with the reason, its
first halt since program load stays recorded, no stream of it goes on, and the item is FAILED. `FENCED_REISSUE` (R114) takes the
tile into fenced mode and does its failed items again. -/
def Obligations.TileFaultsHaltTheTile : Prop :=
  ∀ (s : State) (tile : Fin 64) (st : Stream),
    let x := strm s tile st
    (∀ seq it e c, findItem s tile st seq = some it → overflowOf s tile it = some (e, c) → s.firm.draining = none →
      Completes (.withyOverflow tile st seq) s fun t => HaltedWith s t tile st it.addr 0x07 ∧
        ((tileAt s tile).halt.valid = false → (tileAt t tile).halt.detail.toNat = edgeDetail e (c - it.issued)) ∧
        ∃ r : Record, t.firm.records = s.firm.records ++ [r] ∧ r.done = false ∧ r.reason = 0x07 ∧ r.number = it.seq) ∧
    (∀ seq at_ it, findItem s tile st seq = some it → it.kind = .array → 2 ≤ at_.edge.val → s.firm.draining = none →
      Completes (.drainTimeout tile st seq at_) s fun t => HaltedWith s t tile st it.addr 0x08 ∧
        ∃ r : Record, t.firm.records = s.firm.records ++ [r] ∧ r.done = false ∧ r.reason = 0x08 ∧ r.number = it.seq) ∧
    (∀ w, x.wait = some w → (tileAt s tile).watchdog ≠ 0 → s.firm.state = .running → s.firm.held = false → x.run = .active →
      (tileAt s tile).loaded.isSome = true →
      Completes (.streamWatchdog tile st) s fun t => HaltedWith s t tile st x.pc 0x0F ∧
        t.time.cycle = s.time.cycle + ((tileAt s tile).watchdog.toNat + 1 - w.count) ∧ t.firm.state = .faulted) ∧
    (∀ cycle word, opcodeAssigned (wordOpcode word) = false → Ready s ⟨tile, st, cycle⟩ word →
      Completes (.illegalOpcode ⟨tile, st, cycle⟩ word) s fun t => HaltedWith s t tile st x.pc 0x01 ∧
        ((tileAt s tile).halt.valid = false → (tileAt t tile).halt.detail.toNat = wordOpcode word) ∧ t.firm.state = .faulted) ∧
    ((tileAt s tile).reissue ≠ [] → (tileAt s tile).items = [] → s.firm.state = .running →
      (∀ it ∈ (tileAt s tile).reissue, reissuable s tile it = true) →
      Completes (.fencedReissue tile) s fun t => (tileAt t tile).fencedMode = true ∧ (tileAt t tile).reissue = [] ∧
        (∀ q, (strm t tile q).run ≠ .halted) ∧
        ∀ it ∈ (tileAt s tile).reissue, ∃ r ∈ t.firm.records, r.kind = 1 ∧ r.number = it.seq)

/-! ### Contexts and fetch (R30-R33, R124) -/

/-- `CONTEXT_SWITCH` and `CONTEXT_TAKE_UP` (R30-R33): the loaded context is set aside and the picked one loaded, with its scratchpad,
registers and stream states; the instruction buffers are not kept, and outside the save slot that the old context takes no byte of device
memory changes. `FETCH_LINE_ARRIVAL` (R124): the line's 64 bytes stand in the stream's buffer. -/
def Obligations.ContextsSwitchAndLinesArrive : Prop :=
  (∀ (s : State) (tile : Fin 64) (p old : Nat), groupSwitchable s tile p = true → gangCluster s (ptileOf s tile) = false →
    gangCluster s p = false → nextContext s tile = some p → (tileAt s tile).loaded = some old →
    saveSlots s * saveSlot ≤ hbmSize → (∀ e ∈ s.slots, e.2 ≤ saveSlots s) →
    let c := asideContext s p
    ∀ cmd ∈ [Instr.contextSwitch tile, Instr.contextTakeUp tile], Completes cmd s fun t =>
      (tileAt t tile).loaded = some p ∧ (tileAt t tile).ibuf = [] ∧ (tileAt t tile).switches = (tileAt s tile).switches + 1 ∧
      (tileAt t tile).ctx = c ∧ rd {} t.saved old = (tileAt s tile).ctx ∧ rd {} t.saved p = {} ∧
      (∀ n : Nat, n ≠ tile.val → tileAt t n = tileAt s n) ∧
      (rd 0 t.slots old = 0 → t.mem.dev = s.mem.dev) ∧
      (∀ k, rd 0 t.slots old = k + 1 →
        ∀ a, a < saveBase s + k * saveSlot ∨ saveBase s + (k + 1) * saveSlot ≤ a → rd 0 t.mem.dev a = rd 0 s.mem.dev a)) ∧
  (∀ (s : State) (tile : Fin 64) (st : Stream) (line : BitVec 42),
    let a := line.toNat * 64
    (tileAt s tile).loaded.isSome = true → codeAddr s a = true →
    (∀ l ∈ (tileAt s tile).ibuf, ¬ (l.stream = st ∧ l.line = line)) → heldLines s [(a, 64)] [] = [] →
    Completes (.fetchLineArrival tile st line) s fun t =>
      lineOf t tile st (line ++ (0 : BitVec 6)) =
        some ⟨st, line, BitVec.ofNat 512 (leNat (devRead s a 64)), (devMark s a 64).isSome⟩ ∧
      ((strm s tile st).pc.extractLsb' 6 42 = line → (strm t tile st).bubble = false) ∧
      ((tileAt t tile).ibuf.filter fun l => l.stream == st).length ≤ max 1024 ((tileAt s tile).ibuf.filter fun l => l.stream == st).length ∧
      SameStorage s t ∧ SameShared s t)

/-! ### Collective engines (R326-R339) -/

/-- `CRS`, `CAR`, `CAG` and `CXCH` (R51, R133, R326-R329, R338): the item joins its channel under the channel's next number; a Q8 item draws
32 Nutmeg values for each block. -/
def Obligations.CollectiveInstructionsJoinTheirChannel : Prop :=
  ∀ (s : State) (i : Issue) (w : BitVec 246),
    ∀ e ∈ [((Instr.crs : Issue → BitVec 246 → Instr), 0x200), (Instr.car, 0x201), (Instr.cag, 0x202), (Instr.cxch, 0x203)],
      let x := strm s i.tile i.stream
      let c := ceWord w
      let old := chanAt s c.axis c.channel
      Ready s i (tileWord e.2 w) → firstBad (ceChecks e.2 (beforeIssue s i) i w) = none →
      (c.count ≠ 0 → Completes (e.1 i w) s fun t =>
        (∃ it : CeItem, (chanAt t c.axis c.channel).items = old.items ++ [it] ∧ it.number = old.next ∧ it.item.op.toNat = e.2 ∧
          it.item.w = w ∧ it.item.seq = x.seq ∧ it.fire = (if c.fireEn then some (sReg x c.sF) else none) ∧ it.started = false ∧
          (tileAt t i.tile).items = (tileAt s i.tile).items ++ [it.item]) ∧
        (chanAt t c.axis c.channel).next = old.next + 1 ∧ (strm t i.tile i.stream).seq = x.seq + 1 ∧
        (strm t i.tile i.stream).nutElem = x.nutElem + (if e.2 < 0x202 then BitVec.ofNat 64 (32 * c.count) else 0) ∧
        SameStorage s t) ∧
      (c.count = 0 → Completes (e.1 i w) s fun t => DoneAtOnce s t i ∧ t.ces = s.ces)

/-- `COLLECTIVE_ITEM_START`, `COLLECTIVE_HOP`, `COLLECTIVE_ITEM_COMPLETE` and `COLLECTIVE_TIMEOUT` (R298, R329, R332, R337-R339, R346): an item
starts when its predecessors have sent their last byte, and fails if they have not at its epoch; a `CXCH` sends its units in order on its
circuits; a partial block goes on with this member's contribution; a received unit is written, and nothing else; a finished item has its
record, one that gets no byte in time fails. -/
def Obligations.CollectiveItemsRunOnTheRing : Prop :=
  ∀ (s : State) (ax : Fin 4) (ch : Fin 8) (it : CeItem),
    let c := chanAt s ax ch
    let cw := ceWord it.item.w
    let scales := if isQ8 it.item.op.toNat then [(cw.scales, 2 * cw.count)] else []
    let noSnoop := heldLines s ([(cw.src, ceSrcBytes it.item.op.toNat cw)] ++ scales)
      ([(cw.dst, ceDstBytes it.item.op.toNat c.n cw)] ++ scales) = []
    let unmarked := s.mem.poison = [] ∧ s.mem.ue = [] ∧ s.mem.retired = []
    (c.items.find? (fun i => !i.started) = some it → s.firm.state ≠ .checkpoint → s.firm.held = false →
      (∀ f ∈ it.fire, f.toNat ≤ (fec s).toNat) →
      ((∀ x ∈ c.items, x.started = true → ceSent s ax ch x = true) → noSnoop →
        Completes (.collectiveItemStart ax ch) s fun t =>
          (∃ x, ceFind t ax ch it.number = some x ∧ x.started = true) ∧
          (it.item.op = 0x203 → 2 ≤ c.n → unmarked → (∀ u < cw.count, farDown s (cw.src + 64 * u) 64 = false) →
            (handlesOf c cw.policy).Nodup → ∀ l d x, (handlesOf c cw.policy)[l]? = some d → circuitAt s d = some x →
            let lanes := (handlesOf c cw.policy).length
            let unit := fun (u : Nat) =>
              (⟨.raw, cw.policy, c.pos, u, it.number.setWidth 16, if u = 0 then some (hopHeader it c.n .raw) else none, rawUnit s cw u, 0, 0⟩ : Hop)
            ∃ y ws, circuitAt t d = some y ∧ y.staged = x.staged ++ ws ∧
              ws.map (fun w => (w.item, w.data)) = ((List.range cw.count).filter fun u => u % lanes = l).map fun u =>
                (hopTag ch l (unit u), hopWire (unit u) (decide (u + 1 = cw.count))))) ∧
      ((∃ x ∈ c.items, x.started = true ∧ ceSent s ax ch x = false) → it.fire.isSome = true → it.failed = none → s.firm.draining = none →
        Completes (.collectiveItemStart ax ch) s fun t =>
          (∃ r : Record, t.firm.records = s.firm.records ++ [r] ∧ r.kind = 2 ∧ r.done = false ∧ r.reason = 0x03 ∧ r.number = it.number) ∧
          (chanAt t ax ch).items = c.items.filter (fun x => x.number ≠ it.number))) ∧
    (∀ h : Hop, nextHop s ax ch = some (h, it) → 2 ≤ c.n → hopInRange c it h = true → noSnoop →
      (h.phase = .raw → it.item.op = 0x203 → h.minus = cw.policy → regionAt s (cw.dst + 64 * h.block) = .hbm → unmarked →
        Completes (.collectiveHop ax ch) s fun t =>
          (∀ k < 64, rd 0 t.mem.dev (cw.dst + 64 * h.block + k) = (h.p >>> (8 * k)).setWidth 8) ∧
          (∀ a, a < cw.dst + 64 * h.block ∨ cw.dst + 64 * h.block + 64 ≤ a → rd 0 t.mem.dev a = rd 0 s.mem.dev a) ∧
          (chanAt t ax ch).rx = c.rx.erase h) ∧
      (h.phase = .reduce → ringNext c.n h.seg h.minus ≠ c.pos → h.seg ≠ c.pos →
        ∀ d x, (handlesOf c h.minus)[h.block % (handlesOf c h.minus).length]? = some d → circuitAt s d = some x →
        Completes (.collectiveHop ax ch) s fun t =>
          let half := halfOf cw.count c.n h.seg h.minus
          let m := contributionOf s it (half.1 + h.block) (scaleEntry s cw (half.1 + h.block)).1
          let r := hopBlock h.block (unpackBlock h.p) h.level.toNat m.1 m.2
          (∃ (g : Hop) (y : Circuit) (w : Codeword), circuitAt t d = some y ∧ y.staged = x.staged ++ [w] ∧
            w.data = hopWire g (decide (h.block + 1 = half.2)) ∧ g.phase = .reduce ∧ g.seg = h.seg ∧ g.block = h.block ∧ g.minus = h.minus ∧
            g.p = packBlock r.1 ∧ g.level = BitVec.ofNat 8 r.2.1) ∧
          t.mem.dev = s.mem.dev ∧ (chanAt t ax ch).rx = c.rx.erase h)) ∧
    (c.items.find? (ceFinished s ax ch) = some it → s.firm.draining = none →
      Completes (.collectiveItemComplete ax ch) s fun t =>
        (∃ r : Record, t.firm.records = s.firm.records ++ [r] ∧ r.kind = 2 ∧ r.done = it.failed.isNone ∧ r.number = it.number) ∧
        (chanAt t ax ch).items = c.items.filter (fun x => x.number ≠ it.number) ∧ t.mem.dev = s.mem.dev) ∧
    (c.items.find? (fun i => i.started && !ceWritten s ax ch i) = some it → 2 ≤ c.n → it.failed = none → s.firm.draining = none →
      Completes (.collectiveTimeout ax ch) s fun t =>
        (∃ r : Record, t.firm.records = s.firm.records ++ [r] ∧ r.kind = 2 ∧ r.done = false ∧ r.reason = 0x0F ∧ r.number = it.number) ∧
        (chanAt t ax ch).items = c.items.filter (fun x => x.number ≠ it.number))

/-! ### The router (R284-R295, R340) -/

/-- `FPUT`, `FGET` and `FSIG` (R133, R287, R292, R340): a node outside the slice is refused with reason 3; an item without a packet is DONE at
once; else, with room in the window of 4,096, its packets enter the injection queue of the instructions in order with the next sequence numbers. -/
def Obligations.FabricInstructionsQueueTheirPackets : Prop :=
  ∀ (s : State) (i : Issue) (w : BitVec 246),
    ∀ e ∈ [((Instr.fput : Issue → BitVec 246 → Instr), 0x210), (Instr.fget, 0x211), (Instr.fsig, 0x212)],
      let op := e.2
      let n := fabNode op w
      let dst := BitVec.ofNat 16 n
      let total := fabTotal (BitVec.ofNat 10 op) w
      let o := orderAt s dst
      Ready s i (tileWord op w) → firstBad (fabChecks op (beforeIssue s i) i w) = none →
      (inSlice s.fab.extent (ownSlice s) n = false → Completes (e.1 i w) s fun t =>
        ∃ r : Record, t.firm.records = s.firm.records ++ [r] ∧ r.done = false ∧ r.reason = 0x03 ∧ r.number = (strm s i.tile i.stream).seq) ∧
      (inSlice s.fab.extent (ownSlice s) n = true → total = 0 → Completes (e.1 i w) s fun t => DoneAtOnce s t i) ∧
      (inSlice s.fab.extent (ownSlice s) n = true → total ≠ 0 →
        -- no other item or served read has packets to queue
        (∀ x ∈ s.fab.items, x.1 ≠ s.fab.nextItem ∧ x.2.queued = fabTotal x.2.item.op x.2.item.w) → s.fab.serving = [] →
        (o.send - o.acked).toNat + total ≤ 4096 →
        (op = 0x210 → s.mem.poison = [] ∧ s.mem.ue = [] ∧ s.mem.retired = [] ∧
          ∀ k < total, heldLines s [(localAddr w 1 + 512 * k, min 512 (fabLen w - 512 * k))] [] = []) →
        Completes (e.1 i w) s fun t =>
          (∃ ps : List FabPacket, rd [] t.fab.inject 1 = rd [] s.fab.inject 1 ++ ps ∧ ps.length = total ∧
            ∀ k (h : k < ps.length),
              hDst ps[k].header = dst ∧ hSrc ps[k].header = s.fab.node ∧ hSlice ps[k].header = s.fab.own ∧
              hSeq ps[k].header = o.send + BitVec.ofNat 24 k ∧
              (op = 0x210 → hType ps[k].header = 1 ∧ hOrder ps[k].header = fbit w 244 ∧
                ps[k].payload = BitVec.ofNat 4096 (leNat (devRead s (localAddr w 1 + 512 * k) (min 512 (fabLen w - 512 * k))))) ∧
              (op = 0x211 → hType ps[k].header = 3) ∧ (op = 0x212 → hType ps[k].header = 2)) ∧
          (orderAt t dst).send = o.send + BitVec.ofNat 24 total ∧
          (∃ f : FabItem, t.fab.items = s.fab.items ++ [(s.fab.nextItem, f)] ∧ f.queued = total ∧ f.waiting.length = total ∧ f.dst = dst) ∧
          (strm t i.tile i.stream).seq = (strm s i.tile i.stream).seq + 1 ∧ SameStorage s t)

/-- The accepted packets (R286, R293-R295) in their turn: a `WRITE` and read data put their bytes at the address, a `SIGNAL` adds to its counter, a `MESSAGE` is
delivered, an `ACK` frees what it covers, a `BOUNCE` fails the item with its reason, a reserved type is tallied, and a `READ` is
served. -/
def Obligations.AcceptedPacketsTakeEffect : Prop :=
  ∀ (s : State) (p : FabPacket), p ∈ s.fab.arrived → behind s p = false →
    let a := 8 * (hArg p.header % 2 ^ 45)
    let bs := payloadBytes p
    let plainHbm := s.mem.poison = [] ∧ s.mem.ue = [] ∧ s.mem.retired = [] ∧ regionAt s a = .hbm
    let stored := fun (t : State) => (∀ k < bs.length, rd 0 t.mem.dev (a + k) = nth 0 bs k) ∧
      (∀ b, b < a ∨ a + bs.length ≤ b → rd 0 t.mem.dev b = rd 0 s.mem.dev b)
    (hType p.header = 1 → heldLines s [] [(a, bs.length)] = [] → packetRange s a bs.length = true → plainHbm →
      Completes (.packetWrite p) s fun t => stored t ∧ t.fab.arrived = s.fab.arrived.erase p ∧ t.fab.inject = s.fab.inject) ∧
    (hType p.header = 1 → heldLines s [] [(a, bs.length)] = [] → packetRange s a bs.length = false →
      Completes (.packetWrite p) s fun t => t.mem.dev = s.mem.dev ∧ t.fab.bounced = s.fab.bounced + 1 ∧
        ∃ b, rd [] t.fab.inject 0 = rd [] s.fab.inject 0 ++ [b] ∧ hType b.header = 7 ∧ hDst b.header = hSrc p.header ∧ hArg b.header % 256 = 3) ∧
    (let x := hArg p.header
     let scope := bitsN x 35 2
     let tgt := ctrTarget scope (bitsN x 37 9)
     hType p.header = 2 → scope ≠ 3 → (scope < 2 → bitsN x 37 9 < progP s) → (scope = 1 → bitsN x 29 6 < 32) →
      ctrVal s scope tgt (bitsN x 29 6) + bitsN x 13 16 ≤ 0xFFFF →
      Completes (.packetSignal p) s fun t =>
        ctrVal t scope tgt (bitsN x 29 6) = ctrVal s scope tgt (bitsN x 29 6) + bitsN x 13 16 ∧
        t.fab.arrived = s.fab.arrived.erase p ∧ SameStorage s t) ∧
    (let n := bitsN p.payload.toNat 64 32
     let o := orderAt s (hSrc p.header)
     let piece := fun (k : Nat) => (a + 512 * k, min 512 (n - 512 * k))
     hType p.header = 3 → packetRange s a n = true → s.mem.poison = [] → s.mem.ue = [] → s.mem.retired = [] →
      (∀ x ∈ s.fab.items, x.2.queued = fabTotal x.2.item.op x.2.item.w) → s.fab.serving = [] → 0 < n →
      (∀ k < (n + 511) / 512, heldLines s [piece k] [] = []) → (o.send - o.acked).toNat + (n + 511) / 512 ≤ 4096 →
      Completes (.packetRead p) s fun t =>
        (∃ qs : List FabPacket, rd [] t.fab.inject 2 = rd [] s.fab.inject 2 ++ qs ∧ qs.length = (n + 511) / 512 ∧
          ∀ k (h : k < qs.length), hType qs[k].header = 4 ∧ hDst qs[k].header = hSrc p.header ∧
            hSeq qs[k].header = o.send + BitVec.ofNat 24 k ∧
            qs[k].payload = BitVec.ofNat 4096 (leNat (devRead s (piece k).1 (piece k).2))) ∧ t.fab.serving = [] ∧ SameStorage s t) ∧
    (∀ key it, hType p.header = 4 → heldLines s [] [(a, bs.length)] = [] → packetRange s a bs.length = true → plainHbm →
      (s.fab.items.map (·.1)).Nodup → s.fab.items.find? (fun x => getsInto (hSrc p.header) a x.2) = some (key, it) →
      it.got + bs.length < fabLen it.item.w →
      Completes (.packetReadData p) s fun t => stored t ∧
        t.fab.items = s.fab.items.map fun x => if x.1 = key then (key, { it with got := it.got + bs.length }) else x) ∧
    (hType p.header = 5 → Completes (.packetMessage p) s fun t =>
      t.fab.messages = s.fab.messages ++ [(BitVec.ofNat 32 (hArg p.header % 2 ^ 32), p.payload)] ∧ t.fab.arrived = s.fab.arrived.erase p) ∧
    (∀ key it, hType p.header = 6 → s.fab.items = [(key, it)] → s.fab.serving = [] → it.dst = hSrc p.header → it.item.op ≠ 0x211 →
      it.queued = fabTotal it.item.op it.item.w → s.firm.draining = none →
      (∀ q ∈ it.waiting, precedes 24 q.toNat (hArg p.header % 2 ^ 24) = true) →
      Completes (.packetAck p) s fun t => t.fab.items = [] ∧
        (orderAt t (hSrc p.header)).acked = (let e := BitVec.ofNat 24 (hArg p.header % 2 ^ 24)
          if precedes 24 (orderAt s (hSrc p.header)).acked.toNat e.toNat then e else (orderAt s (hSrc p.header)).acked) ∧
        ∃ r : Record, t.firm.records = s.firm.records ++ [r] ∧ r.done = true ∧ r.number = it.item.seq) ∧
    (let h : BitVec 128 := BitVec.ofNat 128 (p.payload.toNat % 2 ^ 128)
     ∀ key it, hType p.header = 7 → s.fab.items = [(key, it)] → s.fab.serving = [] → it.dst = hDst h →
      it.seqs.contains (BitVec.ofNat 24 (bitsN (hArg p.header) 8 24)) = true → s.firm.draining = none →
      Completes (.packetBounce p) s fun t => t.fab.items = [] ∧
        ∃ r : Record, t.firm.records = s.firm.records ++ [r] ∧ r.done = false ∧ r.reason.toNat = hArg p.header % 256) ∧
    (8 ≤ hType p.header → Completes (.packetReservedType p) s fun t =>
      t.fab.proto = tallyAdd s.fab.proto 1 ∧ t.fab.arrived = s.fab.arrived.erase p)

/-- `ACK_SEND` and `FAB_ACK_TIMEOUT` (R294): with 32 packets accepted or 1 µs past, e goes to the source once all that it counts has taken effect; an item whose packets stay
unacknowledged fails with reason 0x0F and an event. -/
def Obligations.AcknowledgementsGoOutAndTimeOut : Prop :=
  ∀ (s : State),
    (∀ src, (orderAt s src).e ≠ (orderAt s src).ackSent →
      (32 ≤ (orderAt s src).accepted ∨ (orderAt s src).since + 1000 ≤ s.time.elapsed) →
      (∀ p ∈ s.fab.arrived, ¬ (hSrc p.header = src ∧ 1 ≤ hType p.header ∧ hType p.header ≤ 5)) →
      Completes (.ackSend src) s fun t =>
        (∃ b, rd [] t.fab.inject 0 = rd [] s.fab.inject 0 ++ [b] ∧ hType b.header = 6 ∧ hDst b.header = src ∧ hSeq b.header = 0 ∧
          hArg b.header = (orderAt s src).e.toNat) ∧ (orderAt t src).ackSent = (orderAt s src).e) ∧
    (∀ key it, s.fab.items = [(key, it)] → s.fab.serving = [] → it.waiting ≠ [] → s.firm.draining = none →
      Completes (.fabAckTimeout key) s fun t => t.fab.items = [] ∧
        ∃ r : Record, t.firm.records = s.firm.records ++ [r] ∧ r.done = false ∧ r.reason = 0x0F ∧ r.number = it.item.seq)

/-- `ROUTING_CYCLE`, `CONTAINER_ARRIVAL`, `NAK_REPEAT` and `REPLAY_PENDING_TIMEOUT` (R271, R283, R285, R289-R291): a packet of an injection queue
leaves on the best free productive strand, which keeps a copy; a good container that follows in sequence enters the buffer, one whose
codeword cannot be corrected is absent and tallied; four frames on, missing sequence numbers are named again; a strand whose replay stays
pending for 64 frames fails. -/
def Obligations.ContainersAreRoutedAndReplayed : Prop :=
  ∀ (s : State),
    (∀ (cyc : Fin 32) (p : FabPacket) (k : Nat), cyc ≠ 31 → s.fab.quench.on = false → s.fab.reroute = [] →
      (∀ o < 32, (strandAt s o).inbuf = []) → s.fab.turn < 3 → (∀ q < 3, rd [] s.fab.inject q = if q = s.fab.turn then [p] else []) →
      deadTo s p.header = false → hDst p.header ≠ s.fab.node →
      bestOut s p.header ((List.range 32).filter (outOk s)) true = some k → (strandAt s k).replay.length < 64 →
      Completes (.routingCycle cyc) s fun t =>
        (∀ q < 3, rd [] t.fab.inject q = []) ∧ t.fab.injected = s.fab.injected + 1 ∧
        (strandAt t k).txLseq = (strandAt s k).txLseq + 1 ∧
        (∃ r, (strandAt t k).replay = (strandAt s k).replay ++ [r] ∧ r.lseq = (strandAt s k).txLseq + 1 ∧ r.c = ⟨p.header, p.payload, 0⟩ ∧
          r.wanted = false ∧ r.frame = frameNo s) ∧
        ∃ c rest, t.out = s.out ++ .container (strandOf k) c :: rest ∧ c.header = p.header ∧ c.payload = p.payload) ∧
    (∀ (l : StrandId) (first : BitVec 32) (cws : List (List Byte)) (off : Nat),
      let k := strandKey l
      let x := strandAt s k
      let rs := cws.map fun w => readCodeword (padTo 2048 w)
      let c := containerOf (sub (rs.flatMap fun r => r.payload.getD []) off 544)
      portUp s l.port.val = true → eMode x.entry = 1 → eFailed x.entry = false →
      (rs.any (·.payload.isNone) = true → Completes (.containerArrival l first cws off) s fun t =>
        (strandAt t k).inbuf = x.inbuf ∧ (strandAt t k).rxLseq = x.rxLseq ∧
        (cws.length = 1 → precedes 32 x.rxCw.toNat first.toNat = true →
          (portAt t l.port.val).cwUncorr = tallyAdd (portAt s l.port.val).cwUncorr (1 + bn (rs.all (·.control.isNone))))) ∧
      (rs.any (·.payload.isNone) = false → off + 544 ≤ 2000 * cws.length → crcOk c = false →
        Completes (.containerArrival l first cws off) s fun t => (strandAt t k).inbuf = x.inbuf ∧ (strandAt t k).rxLseq = x.rxLseq) ∧
      (rs.any (·.payload.isNone) = false → off + 544 ≤ 2000 * cws.length →
        crcOk c = true → hType c.header ≠ 0 → x.taken = [] → x.inbuf.length < 4 →
        BitVec.ofNat 16 (bitsN c.trailer.toNat 88 16) = x.rxLseq + 1 →
        Completes (.containerArrival l first cws off) s fun t =>
          (strandAt t k).inbuf = x.inbuf ++ [(ageContainer s c).2] ∧ (strandAt t k).rxLseq = x.rxLseq + 1)) ∧
    (∀ l : StrandId, (strandAt s (strandKey l)).namedAt + 4 ≤ frameNo s → Completes (.nakRepeat l) s fun t =>
      (∀ v ∈ gapsTo (strandAt s (strandKey l)) (strandAt s (strandKey l)).rxHigh, v ∈ (strandAt t (strandKey l)).toName) ∧
      (strandAt t (strandKey l)).inbuf = (strandAt s (strandKey l)).inbuf) ∧
    (∀ l : StrandId, let x := strandAt s (strandKey l)
      (∃ r ∈ x.replay, r.frame + 64 ≤ frameNo s) → eFailed x.entry = false → x.out = none → x.inn = none →
      Completes (.replayPendingTimeout l) s fun t =>
        eFailed (strandAt t (strandKey l)).entry = true ∧ (strandAt t (strandKey l)).replay = [] ∧
        t.fab.reroute = s.fab.reroute ++ x.replay.map (·.c) ++ x.inbuf ∧ Out.strandFailed (strandOf (strandKey l)) ∈ t.out)

/-! ### Links (R273, R276, R281, R282, R302-R304) -/

/-- Link symbols and faults (R273, R276, R277, R281, R282, R303, R304): credits count to two buffers, the table is compared and sent, a mode change takes
its frame, is confirmed by its echo, acts at the end of frame F + 3 and is given up, a lane is spared once, a strand fails. -/
def Obligations.LinkSymbolsActOnTheirPort : Prop :=
  ∀ (s : State) (l : StrandId) (port : Fin 8) (lane : Fin 16),
    let k := strandKey l
    let x := strandAt s k
    let p := portAt s port.val
    (∀ kind : BitVec 8, 7 ≤ kind.toNat → Completes (.reservedControlSymbol port kind) s fun t =>
      t = { s with fab := { s.fab with proto := tallyAdd s.fab.proto 1 } }) ∧
    (∀ q : BitVec 8, qAssigned q = false →
      (Completes (.unassignedQtype port none q) s fun t => t = { s with fab := { s.fab with proto := tallyAdd s.fab.proto 1 } }) ∧
      ∀ vc, Completes (.unassignedQtype port (some vc) q) s fun t =>
        t.fab.proto = tallyAdd s.fab.proto 1 ∧ t.out = s.out ++ [.linkCredit port vc 1]) ∧
    (∀ (vc : Fin 2) (n : BitVec 8), (∀ w ∈ s.fab.qWait, ¬ (w.port = port ∧ w.vc = vc)) →
      Completes (.linkCredit port vc n) s fun t => rd 0 (portAt t port.val).credits vc.val = min 2 (rd 0 p.credits vc.val + n.toNat)) ∧
    (∀ entry, x.change = none → x.entry = entry → Completes (.linkTable l entry) s fun t =>
      (strandAt t k).differ = 0 ∧ (strandAt t k).entry = x.entry) ∧
    (∀ entry, x.change = none → x.entry ≠ entry → x.differ < 2 → Completes (.linkTable l entry) s fun t =>
      (strandAt t k).differ = x.differ + 1 ∧ (strandAt t k).entry = x.entry) ∧
    (∀ entry, x.change = none → x.entry ≠ entry → 2 ≤ x.differ → x.out = none → x.inn = none →
      Completes (.linkTable l entry) s fun t => eMode (strandAt t k).entry = 0 ∧ (strandAt t k).replay = [] ∧
        t.fab.reroute = s.fab.reroute ++ x.replay.map (·.c)) ∧
    (portUp s l.port.val = true → Completes (.linkTableTimer l) s fun t => t.out = s.out ++ [.linkTable l x.entry]) ∧
    (∀ entry frame, x.change = none → Completes (.linkModeChange l entry frame) s fun t =>
      (strandAt t k).change = some ⟨entry, frame, false, true, none⟩ ∧ t.out = s.out ++ [.linkMode l entry frame]) ∧
    (∀ entry frame c, x.change = some c → c.initiator = true → c.confirmed = false → c.entry = entry → c.frame = frame →
      Completes (.linkModeChange l entry frame) s fun t =>
        (strandAt t k).change = some { c with confirmed := true, next := none } ∧
        (c.next = none → t.out = s.out) ∧ ∀ q m, c.next = some (q, m) → PathSent t q (hopStrand (nth 0 m.hops m.pos)) m) ∧
    (∀ c, x.change = some c → c.confirmed = true → frameReached s (c.frame + 4) = true → Completes (.modeChangeFrame l) s fun t =>
      eMode (strandAt t k).entry = eMode c.entry ∧ eSlice (strandAt t k).entry = eSlice c.entry ∧ (strandAt t k).change = none ∧
      (strandAt t k).replay = [] ∧ t.fab.reroute = s.fab.reroute ++ x.replay.map (·.c)) ∧
    (∀ c, x.change = some c → c.confirmed = false → frameReached s (c.frame - 4) = true → c.next = none → Completes (.modeChangeAbandon l) s fun t =>
      (strandAt t k).change = none ∧ (strandAt t k).entry = x.entry) ∧
    (p.txSpared = 0x1F → Completes (.linkSpareRequest port lane) s fun t =>
      (portAt t port.val).txSpared.toNat = lane.val ∧
      t.out = s.out ++ [.spareSwitch port lane (BitVec.ofNat 32 (codewordCount s port.val + 1))]) ∧
    (∀ cw, Completes (.linkSpareSwitch port lane cw) s fun t =>
      (portAt t port.val).rxSpared.toNat = lane.val ∧ (portAt t port.val).rxFrom = cw) ∧
    (p.rxAsked = 0x1F → ∀ c ∈ [Instr.laneLossOfLock port lane, Instr.laneErrorRate port lane], Completes c s fun t =>
      (portAt t port.val).rxAsked.toNat = lane.val ∧ t.out = s.out ++ [.spareRequest port lane]) ∧
    (eFailed x.entry = false → x.out = none → x.inn = none → Completes (.linkStrandFailed l) s fun t =>
      eFailed (strandAt t k).entry = true ∧ t.fab.reroute = s.fab.reroute ++ x.replay.map (·.c) ++ x.inbuf) ∧
    (portUp s port.val = true → (∀ j ∈ strandsOf port.val, (strandAt s j).out = none ∧ (strandAt s j).inn = none) →
      (∃ j ∈ strandsOf port.val, eFailed (strandAt s j).entry = false) → s.firm.draining = none →
      Completes (.fabricLinkDown port false) s fun t => (∀ j ∈ strandsOf port.val, eFailed (strandAt t j).entry = true) ∧
        portUp t port.val = false)

/-! ### Messages between modules (R27, R274-R277, R408) -/

/-- Routed, command and quench messages (R27, R276, R277, R302, R370, R408): a message for another node leaves on its dimension-order port while
that holds a credit; a generation's state is taken over; a member's last answer ends the gather, a missing one of another module counts as FAILED; the
anchor raises a member's event; a quench whose number follows is adopted, and the current number lifts it. -/
def Obligations.MessagesReachTheirModule : Prop :=
  ∀ (s : State),
    (∀ (port : Fin 8) (vc : Fin 2) (m : QMsg) (p v : Nat), m.body.length ≤ 4096 → hopListType m.qtype = false →
      qHop s.fab.extent s.fab.node.toNat m.dst.toNat (some (port.val / 2, vc.val)) = some (p, v) → rd 0 (portAt s p).credits v ≠ 0 →
      Completes (.qMessageForward port vc m) s fun t =>
        t.out = s.out ++ [.qfrag (Fin.ofNat 8 p) (Fin.ofNat 2 v) m, .linkCredit port vc 1] ∧
        rd 0 (portAt t p).credits v = rd 0 (portAt s p).credits v - 1 ∧ (portAt t p).qSent = (portAt s p).qSent + qCount m.body.length) ∧
    (∀ (port : Fin 8) (vc : Fin 2) (m : QMsg) (p v : Nat), m.body.length ≤ 4096 → hopListType m.qtype = false →
      qHop s.fab.extent s.fab.node.toNat m.dst.toNat (some (port.val / 2, vc.val)) = some (p, v) → rd 0 (portAt s p).credits v = 0 →
      Completes (.qMessageForward port vc m) s fun t => t.out = s.out ∧
        t.fab.qWait = s.fab.qWait ++ [⟨Fin.ofNat 8 p, Fin.ofNat 2 v, .msg m, some (port, vc)⟩]) ∧
    (∀ (via : QVia) (src : BitVec 16) (gen : BitVec 32) (st : BitVec 8) (g : Gen), fwRuns s = true → genAt s gen = some g →
      st = 1 ∨ st = 3 ∨ st = 4 → g.state ≠ genOfCode st.toNat → g.state ≠ .incomplete →
      Completes (.commandMsg via src (.genState gen st)) s fun t =>
        (∃ g', genAt t gen = some g' ∧ g'.state = genOfCode st.toNat) ∧
        (∃ r, t.hamper.journal = s.hamper.journal ++ [r] ∧ r.type = 0x05 ∧ r.gen = gen) ∧
        EventRaised s t 0x09 1 (unitPath s 0 0)) ∧
    -- a command that its unit path brings here is taken like one of the window (R408)
    (∀ (via : QVia) (src : BitVec 16) (op : BitVec 16) (c : CmdDef) (p : Packet), fwRuns s = true → cmdOf op = some c →
      exec (.commandMsg via src (.packet op p)) s = done s (takePacket c { p with route := .fabric src } (consumeQ s via))) ∧
    (∀ (via : QVia) (src : BitVec 16) (r : MemberReply) (g : Gather) (w : Word), fwRuns s = true → gatherOf s src r = some g → g.forward = true →
      r.member = none → r.status ≠ 1 → g.answers = [(0, w, none)] → s.firm.draining = none →
      Completes (.replyMsg via src r) s fun t =>
        (∀ x ∈ t.firm.gathers, ¬ (x.p.tag = g.p.tag ∧ x.opcode = g.opcode ∧ x.p.route = g.p.route)) ∧
        (g.replied = false → Replied s t g.p.route
          ⟨g.p.tag, r.status, g.opcode, r.detail, fec s, BitVec.ofNat 32 (g.records + g.late.length), r.result, r.data⟩)) ∧
    (∀ (tag : BitVec 32) (g : Gather) (w : Word),
      s.firm.gathers.find? (fun g => g.p.tag == tag && g.answers.any fun a => a.2.2.isNone && !memberHere s a.2.1) = some g → g.forward = true →
      g.replied = false → g.answers = [(0, w, none)] → s.firm.draining = none →
      Completes (.memberReplyTimeout tag) s fun t =>
        (∀ x ∈ t.firm.gathers, ¬ (x.p.tag = g.p.tag ∧ x.opcode = g.opcode ∧ x.p.route = g.p.route)) ∧
        Replied s t g.p.route ⟨g.p.tag, 9, g.opcode, BitVec.allOnes 64, fec s, BitVec.ofNat 32 (g.records + g.late.length), [], []⟩) ∧
    (∀ (via : QVia) (src : BitVec 16) (e : EventBody), isAnchor s = true →
      Completes (.eventMsg via src s.fab.own e) s fun t => EventRaised s t e.code.toNat e.cls.toNat e.path) ∧
    -- a quench whose number follows is adopted, and its own number lifts it (R302)
    (∀ (port : Fin 8) (q : QuenchMsg), q.slice = s.fab.own → q.slice ≠ 0 →
      precedes 16 s.fab.quench.number.toNat q.number.toNat = true → q.deadValid = false → q.reason = 0 → s.firm.draining = none →
      Completes (.quenchMsg port q) s fun t =>
        t.fab.quench = { s.fab.quench with on := true, number := q.number, origin := q.origin } ∧ t.firm = s.firm) ∧
    (∀ (port : Fin 8), s.fab.quench.on = true → Completes (.unquenchMsg port s.fab.own s.fab.quench.number) s fun t =>
      t.fab.quench = { s.fab.quench with on := false }) ∧
    (∀ (port : Fin 8) (q : QuenchMsg), q.slice ≠ s.fab.own → Completes (.quenchMsg port q) s fun t => t = s)

/-! ### Circuits (R297-R301) -/

/-- Circuits (R296-R301): a setup is checked and reserved hop by hop and answered by the last module; the source learns of success, failure and
the timeout; codewords pass an intermediate module unchanged and arrive in order at the destination; acknowledgements free
them. -/
def Obligations.CircuitsOpenCarryAndClose : Prop :=
  ∀ (s : State),
    (∀ (l : StrandId) (m : PathMsg) (d : SliceDecl), pathOk m = true → m.pos = m.hops.length → m.dst = s.fab.node →
      sliceNo s m.slice.toNat = some d → inSlice s.fab.extent d s.fab.node.toNat = true → inCause s m.slice (strandKey l) = 0 →
      Completes (.circuitSetup l m) s fun t =>
        (strandAt t (strandKey l)).inn = some (resvOf m) ∧
        t.fab.circuits = s.fab.circuits ++
          [({ handle := handleOf m, source := false, slice := m.slice, dst := m.dst, hops := [], isOpen := true, tag := m.tag } : Circuit)]) ∧
    (∀ (l : StrandId) (m : PathMsg), pathOk m = true → m.pos < m.hops.length →
      let o := hopStrand (nth 0 m.hops m.pos)
      inCause s m.slice (strandKey l) = 0 → outCause s m.slice o = 0 →
      Completes (.circuitSetup l m) s fun t =>
        (strandAt t (strandKey l)).inn = some (resvOf m) ∧ (strandAt t o).out = some (resvOf m) ∧
        (eMode (strandAt s o).entry ≠ 1 → PathSent t 0x04 o m) ∧
        -- a strand that carried packets changes to mode 2 first (R296)
        (eMode (strandAt s o).entry = 1 → (strandAt s o).change = none →
          ∃ c, (strandAt t o).change = some c ∧ eMode c.entry = 2 ∧ eSlice c.entry = m.slice ∧ c.initiator = true ∧ c.confirmed = false ∧
            c.next = some (0x04, m) ∧ Out.linkMode (strandOf o) c.entry c.frame ∈ t.out)) ∧
    (∀ (via : QVia) (tag : BitVec 32) (c : Circuit) (a : PendCmd),
      s.fab.circuits.find? (fun c => c.source && !c.isOpen && c.tag = tag) = some c → c.mirror = false → acceptedTag s 0x0401 tag = some a →
      a.p.route ≠ .fabric s.fab.node →
      Completes (.circuitReady via tag) s fun t =>
        (∃ c', circuitAt t c.handle = some c' ∧ c'.isOpen = true) ∧ a ∉ t.firm.accepted ∧
        ∃ r : Record, t.firm.records = s.firm.records ++ [r] ∧ r.kind = 4 ∧ r.done = true ∧ r.who = a.p.tag) ∧
    (∀ (via : QVia) (tag : BitVec 32) (hop cause : BitVec 8) (c : Circuit) (a : PendCmd),
      s.fab.circuits.find? (fun c => c.source && !c.isOpen && c.tag = tag) = some c → c.mirror = false → c.handle.node = s.fab.node →
      s.firm.accepted.find? (fun a => a.opcode = 0x0401 && a.p.tag = tag) = some a → a.p.route ≠ .fabric s.fab.node →
      (Completes (.circuitFail via tag hop cause) s fun t => circuitAt t c.handle = none ∧ a ∉ t.firm.accepted ∧
        ∃ r : Record, t.firm.records = s.firm.records ++ [r] ∧ r.done = false ∧ r.reason = 0x04 ∧
          r.detail = hopDetail hop.toNat cause.toNat) ∧
      (Completes (.circuitSetupTimeout tag) s fun t => circuitAt t c.handle = none ∧ a ∉ t.firm.accepted ∧
        ∃ r : Record, t.firm.records = s.firm.records ++ [r] ∧ r.done = false ∧ bitsN r.detail.toNat 48 8 = 6)) ∧
    (∀ (l : StrandId) (m : PathMsg) (r : Resv) (o : Nat), 1 ≤ m.hops.length → m.hops.length ≤ 64 → m.src ≠ s.fab.node →
      (strandAt s (strandKey l)).inn = some r → r.handle = handleOf m → outOf s (handleOf m) = some o →
      Completes (.circuitRelease l m) s fun t => outOf t (handleOf m) = none ∧ innOf t (handleOf m) = none ∧
        PathSent t 0x07 o m) ∧
    (∀ (l : StrandId) (cw : List Byte) (r : Resv) (o : Nat),
      (strandAt s (strandKey l)).inn = some r → outOf s r.handle = some o →
      Completes (.circuitCodeword l cw) s fun t => t = { s with out := s.out ++ [.circuit (strandOf o) (padTo 2048 cw)] }) ∧
    (∀ (l : StrandId) (cw : List Byte) (r : Resv) (x : Circuit) (c : List Byte) (b : List Byte) (w : Codeword),
      (strandAt s (strandKey l)).inn = some r → outOf s r.handle = none → circuitAt s r.handle = some x →
      (readCodeword (padTo 2048 cw)).control = some c → (readCodeword (padTo 2048 cw)).payload = some b → circuitOf c b = some w →
      crc32c (w.data.take w.valid.toNat) = w.crc.toNat → w.flags.getLsbD 0 = false → w.cseq = x.cseqRx →
      Completes (.circuitCodeword l cw) s fun t =>
        let bs := (if w.flags.getLsbD 1 then [] else x.received) ++ w.data.take w.valid.toNat
        let ch := bitsN w.item.toNat 28 3
        (∃ y, circuitAt t r.handle = some y ∧ y.cseqRx = x.cseqRx + 1 ∧ y.missing = false ∧
          (w.item.getLsbD 31 = true → if w.flags.getLsbD 2 then y.received = [] ∧ y.inbox = x.inbox ++ [(w.item, bs)]
            else y.received = bs ∧ y.inbox = x.inbox)) ∧
        (w.item.getLsbD 31 = false →
          ∃ h, (chanAt t (l.port.val / 2) ch).rx = (chanAt s (l.port.val / 2) ch).rx ++ [h])) ∧
    (∀ (via : QVia) (h : Handle) (cum : BitVec 32) (c : Circuit), circuitAt s h = some c → c.source = true → c.mirror = false →
      precedes 32 c.cseqAck.toNat cum.toNat = true → s.fab.quench.on = true →
      Completes (.circuitAck via h cum none) s fun t =>
        ∃ y, circuitAt t h = some y ∧ y.cseqAck = cum ∧
          y.staged = c.staged.filter (fun w => !(w.cseq == cum || precedes 32 w.cseq.toNat cum.toNat))) ∧
    (∀ (h : Handle) (c : Circuit), circuitAt s h = some c → c.source = false →
      (Completes (.circuitAckTimer h) s fun t => t = sendCircuitAck s c) ∧
      (c.missing = true → Completes (.circuitNakRepeat h) s fun t => t = sendCircuitAck s c)) ∧
    (∀ (via : QVia) (h : Handle) (c : Circuit), circuitAt s h = some c → c.source = false → s.hamper.mirrorRx = none →
      Completes (.circuitBroken via h) s fun t => circuitAt t h = none ∧ outOf t h = none ∧ innOf t h = none ∧
        EventRaised s t 0x06 1 (unitPath s 0 0)) ∧
    (∀ (l : StrandId) (m : PathMsg), pathOk m = true → m.slice ≠ 0 → m.pos = m.hops.length → eMode (strandAt s (strandKey l)).entry = 0 →
      Completes (.transitSet l m) s fun t =>
        eMode (strandAt t (strandKey l)).entry = 3 ∧ eSlice (strandAt t (strandKey l)).entry = m.slice)

/-! ### Discovery and placement (R305, R306) -/

/-- Discovery (R305, R306): a `HELLO` names the far module and its lowest serial; the election makes the root, probes size the
axes, `COORD` places a module from its neighbour, `DISC_DONE` floods, and phase 8 ends with the place taken; a wrong far
port, extents outside the limits, a disagreeing `COORD` and the timeout are failures of phase 8. The W coordinate of a CKL-CT1-64T
is 0 (R3), and where the W extent is 1 the W ports are down (R8). -/
def Obligations.DiscoveryPlacesTheModule : Prop :=
  ∀ (s : State) (port : Fin 8),
    let p := port.val
    (∀ m : HelloSym, hears s p = true → m.port.toNat = farEnd p → s.fab.discPhase = 0 → Completes (.hello port m) s fun t =>
      (portAt t p).farPort = some m.port ∧ (portAt t p).farSerial = m.serial ∧ t.out = s.out ∧
      t.fab.lowest.toNat = min s.fab.lowest.toNat m.lowest.toNat) ∧
    (∀ m : HelloSym, hears s p = true → m.port.toNat ≠ farEnd p →
      (inPhase s 8 = false → Completes (.hello port m) s fun t => (portAt t p).state = 5 ∧ t.fab.lowest = s.fab.lowest) ∧
      (inPhase s 8 = true → Completes (.hello port m) s fun t => StartFailed t 8 0x84 (BitVec.ofNat 64 p))) ∧
    (portUp s p = true → Completes (.helloTimer port) s fun t => t.out = s.out ++ [.hello port
      ⟨s.serial, BitVec.ofNat 8 p, s.grade.setWidth 8, s.fab.discPhase, s.fab.lowest, s.fab.hops⟩]) ∧
    (discovering s = true → s.fab.discPhase = 0 → s.fab.lowest = s.serial → (∃ a < 4, portUp s (2 * a) = true) →
      Completes .discoveryElection s fun t => t.fab.root = true ∧ t.fab.discPhase = 1 ∧ ∀ a < 4,
        rd 0 t.fab.probes a = (if portUp s (2 * a) then 0 else 1) ∧
        (portUp s (2 * a) = true → Out.probe (Fin.ofNat 8 (2 * a)) 1 ∈ t.out)) ∧
    (∀ n : BitVec 8, discovering s = true → portUp s p = true → p % 2 = 1 → s.fab.root = false → portUp s (p - 1) = true →
      n ≠ 0xFF → Completes (.ringProbe port n) s fun t => t.out = s.out ++ [.probe (Fin.ofNat 8 (p - 1)) (n + 1)]) ∧
    (∀ n : BitVec 8, discovering s = true → portUp s p = true → p % 2 = 1 → s.fab.root = true → s.fab.discPhase = 1 →
      (∃ a < 4, a ≠ p / 2 ∧ rd 0 s.fab.probes a = 0) → Completes (.ringProbe port n) s fun t =>
        rd 0 t.fab.probes (p / 2) = n.toNat ∧ t.out = s.out) ∧
    (∀ (c : Coords) (n : Extents), inPhase s 8 = true → portUp s p = true → ownPlace s = none → slathVal s 13 ≠ 1 →
      extentFault s n = none →
      Completes (.coord port c n) s fun t => t.fab.coords = homeCoords s (derived p c n) ∧ t.fab.extent = n ∧ t.fab.discPhase = 2 ∧
        (∀ q < 8, portUp s q = true → Out.coord (Fin.ofNat 8 q) t.fab.coords n ∈ t.out) ∧
        (1 ≤ extOn n (p / 2) → extOn n (p / 2) ≤ (if p / 2 = 3 then 16 else 32) → coordOn t.fab.coords (p / 2) =
          (coordOn c (p / 2) + (if p % 2 = 1 then 1 else extOn n (p / 2) - 1)) % extOn n (p / 2)) ∧
        (∀ a < 4, a ≠ p / 2 → coordOn t.fab.coords a = if s.grade = 3 ∧ a = 3 then 0 else coordOn c a)) ∧
    (∀ (c : Coords) (n : Extents), inPhase s 8 = true → portUp s p = true → ownPlace s = none → slathVal s 13 ≠ 1 →
      (∀ a < 4, (if a = 3 then (if s.grade = 3 then 1 else 16) else 32) < extOn n a →
        (∀ b < a, extOn n b ≤ 32) → Completes (.coord port c n) s fun t => StartFailed t 8 0x81 (BitVec.ofNat 64 a)) ∧
      ((∀ a < 4, extOn n a ≤ if a = 3 then (if s.grade = 3 then 1 else 16) else 32) →
        65536 < extOn n 0 * extOn n 1 * extOn n 2 * extOn n 3 →
        Completes (.coord port c n) s fun t => StartFailed t 8 0x82 0)) ∧
    (∀ (c : Coords) (n : Extents) (x : Coords × Extents), inPhase s 8 = true → portUp s p = true → ownPlace s = some x →
      (x ≠ (homeCoords s (derived p c n), n) → Completes (.coord port c n) s fun t => StartFailed t 8 0x83 (BitVec.ofNat 64 p)) ∧
      (x = (homeCoords s (derived p c n), n) → s.fab.root = false → Completes (.coord port c n) s fun t =>
        p ∈ t.fab.coordFrom ∧ t.fab.coords = s.fab.coords ∧ t.out = s.out)) ∧
    (discovering s = true → portUp s p = true → s.fab.discPhase = 2 → Completes (.discDone port) s fun t =>
      t.fab.discPhase = 3 ∧ ∀ q < 8, q ≠ p → portUp s q = true → Out.discDone (Fin.ofNat 8 q) ∈ t.out) ∧
    (inPhase s 8 = true → Completes .discoveryTimeout s fun t => StartFailed t 8 0x85 0) ∧
    (∀ w : Coords × Extents, inPhase s 8 = true → cabledWrong s = none → slathVal s 13 = 1 → s.fab.written = some w → extentFault s w.2 = none →
      Completes .coordinatePlacement s fun t => t.fab.coords = homeCoords s w.1 ∧ t.fab.extent = w.2 ∧ t.fab.method = 1 ∧
        t.fab.placed = true ∧ (let c := coordOn t.fab.coords
          t.fab.node = BitVec.ofNat 16 (c 0 + extOn w.2 0 * (c 1 + extOn w.2 1 * (c 2 + extOn w.2 2 * c 3)))) ∧
        t.firm.phase = 8 ∧ (w.2.nw.toNat ≤ 1 → portUp t 6 = false ∧ portUp t 7 = false)) ∧
    (inPhase s 8 = true → cabledWrong s = none → slathVal s 13 ≠ 1 → s.fab.discPhase = 3 →
      Completes .coordinatePlacement s fun t => t.fab.coords = homeCoords s s.fab.coords ∧ t.fab.method = 2 ∧ t.fab.placed = true ∧
        t.firm.phase = 8 ∧ (s.fab.extent.nw.toNat ≤ 1 → portUp t 6 = false ∧ portUp t 7 = false)) ∧
    (∀ (c : Coords) (n : Extents), s.phys.mainOn = true → s.firm.phase.toNat < 8 → Completes (.mctpCoordinateWrite c n) s fun t =>
      t = { s with fab := { s.fab with written := some (homeCoords s c, n) } })

/-! ### Time (R341-R348, R353, R444) -/

/-- Time transfer (R341-R345, R353, R444): a symbol carries the counter and echoes; a follower halves the difference of the legs,
steps beyond 1 µs where it may and slews otherwise; a PPS edge makes a master; a lost source is holdover, and the drift
bit follows with its event. Which way an odd half goes is the model's free choice (log 4). -/
def Obligations.TheCounterFollowsItsSource : Prop :=
  ∀ (s : State) (port : Fin 8),
    let p := port.val
    (∀ l, portUp s p = true → firstPath s p = some l → Completes (.timeSymbolTimer port) s fun t => ∃ m, t.out = s.out ++ [.time l m] ∧
      m.stratum = s.time.stratum ∧ m.tTx.toNat = stampNow s % 2 ^ 40 ∧ m.echoTx = (portAt s p).lastTx ∧
      m.echoRx = (portAt s p).lastRx ∧ m.hi.extractLsb' 0 36 = s.time.fec.extractLsb' 28 36 ∧
      m.hi.getLsbD 36 = (portAt s p).echoValid ∧ (m.hi.getLsbD 37 = true ↔ s.time.state = 2) ∧ m.hi.getLsbD 38 = s.time.drift ∧
      (m.hi.getLsbD 39 = true ↔ s.time.state = 3)) ∧
    (∀ (m : TimeSym) (r : BitVec 40), portUp s p = true → s.time.pps = true → Completes (.timeSymbol port m r) s fun t =>
      t.time = s.time ∧ (portAt t p).stratum = m.stratum ∧ (portAt t p).lastTx = m.tTx ∧ (portAt t p).lastRx = r ∧
      (portAt t p).echoValid = true) ∧
    (∀ (m : TimeSym) (r : BitVec 40), portUp s p = true → s.time.pps = false → s.time.master = false → s.time.upValid = true →
      s.time.upstream.toNat = p → s.time.state ≠ 3 → m.hi.getLsbD 36 = true →
      bestUpstream (modPort s p fun x => { x with stratum := m.stratum, lastTx := m.tTx, lastRx := r, echoValid := true }) = some p →
      let th := diff40 r m.tTx - diff40 m.echoRx m.echoTx
      (th.natAbs ≤ 32000 → Completes (.timeSymbol port m r) s fun t =>
        t.time.fec = s.time.fec ∧ t.time.stratum.toNat = min 254 (m.stratum.toNat + 1) ∧
        (∃ off : Int, (2 * off - th).natAbs = th.natAbs % 2 ∧ t.time.offset = BitVec.ofInt 32 off ∧ t.time.slew = - off) ∧
        t.time.good = (if th.natAbs ≤ 64 then s.time.good + 1 else 0) ∧
        t.time.state = if 16 ≤ t.time.good then 2 else s.time.state) ∧
      (32000 < th.natAbs → mayStep s = true → s.time.epochQ = [] → Completes (.timeSymbol port m r) s fun t =>
        t.time.state = 1 ∧ t.time.good = 0 ∧ t.time.slew = 0 ∧
        ∃ off : Int, (2 * off - th).natAbs = th.natAbs % 2 ∧
          let n := BitVec.ofInt 64 (((stampNow s : Int) - off) / 16)
          (n.extractLsb' 28 36 = m.hi.extractLsb' 0 36 → t.time.fec = n) ∧ t.time.fec.extractLsb' 0 28 = n.extractLsb' 0 28 ∧
          t.time.fec.extractLsb' 28 36 = m.hi.extractLsb' 0 36) ∧
      (32000 < th.natAbs → mayStep s = false → Completes (.timeSymbol port m r) s fun t =>
        t.time.fec = s.time.fec ∧ EventRaised s t 0x08 1 (unitPath s 0 0))) ∧
    (s.phys.mainOn = true → s.time.epochQ = [] → s.time.fec.toNat + 500000000 < 2 ^ 64 → Completes .ppsInEdge s fun t =>
      t.time.fec.toNat % 1000000000 = 0 ∧ t.time.master = true ∧ t.time.pps = true ∧ t.time.stratum = 0 ∧
      ((t.time.fec.toNat : Int) - s.time.fec.toNat).natAbs ≤ 500000000) ∧
    (s.time.pps = true → Completes .ppsLoss s fun t => t.time.pps = false ∧ t.time.master = false ∧
      match bestUpstream s with
      | some b => t.time.upValid = true ∧ t.time.upstream = BitVec.ofNat 3 b ∧ t.time.stratum.toNat = min 254 ((portAt s b).stratum.toNat + 1)
      | none => t.time.state = 3 ∧ t.time.stratum = 0xFF) ∧
    (s.phys.mainOn = true → s.time.pps = false → s.time.master = false → s.time.state ≠ 3 → Completes .holdoverEntry s fun t =>
      t.time.state = 3 ∧ t.time.stratum = 0xFF ∧ t.time.fec = s.time.fec) ∧
    (s.time.state = 3 → s.time.drift = false → Completes .drift s fun t => t.time.drift = true ∧ EventRaised s t 0x08 1 (unitPath s 0 0)) ∧
    (s.time.state = 2 ∨ (s.time.state = 3 ∧ s.time.drift = false) →
      s.time.fec.toNat % 1000000000 ≤ 2 ∨ 999999998 ≤ s.time.fec.toNat % 1000000000 →
      Completes .ppsOutPulse s fun t => t.out = s.out ++ [.pulse]) ∧
    (s.time.state ≠ 2 → s.time.state ≠ 3 ∨ s.time.drift = true → Completes .ppsOutPulse s fun t => t.out = s.out) ∧
    (Completes .timeFecRead s fun t => t = { s with time := { s.time with latched := s.time.fec } }) ∧
    (inPhase s 9 = true → s.time.given = true → s.time.state = 2 → s.firm.accepted = [] → s.firm.taken = [] → s.firm.resetTag = none →
      Completes .timeLock s fun t => t.firm.state = .idle ∧ t.firm.phase = 10) ∧
    (inPhase s 9 = true → s.time.given = false → Completes .timeSetTimeout s fun t => StartFailed t 9 0x91 0) ∧
    (inPhase s 9 = true → s.time.given = true → timeLocked s = false → Completes .timeLockTimeout s fun t =>
      StartFailed t 9 0x92 (s.time.offset.signExtend 64))

/-- `EPOCH_QUEUE_ACT` and a counter that steps over an epoch (R20, R346-R348): an entry acts at its epoch, completes
`WRONG_STATE` where its command is no longer legal, and `BAD_PARAM` with detail 3 where a forward step passed it. That an entry
which its epoch has left behind fails with detail 1 is the model's reading (log 78). -/
def Obligations.EntriesActAtTheirEpoch : Prop :=
  ∀ (s : State) (e : EpochEntry) (c : CmdDef), cmdOf e.opcode = some c → s.firm.gathers = [] → s.firm.draining = none →
    (∀ src, e.p.route ≠ .fabric src) → e.opcode ≠ 0x0602 → e.opcode ≠ 0x0700 → s.time.epochQ = [e] →
    let s1 := { s with time := { s.time with epochQ := [] } }
    (fwRuns s = true → s.time.fec.toNat < e.epoch.toNat → Completes .epochQueueAct s fun t => t = s) ∧
    (fwRuns s = true → e.epoch.toNat + 1 < s.time.fec.toNat → Completes .epochQueueAct s fun t =>
      t.time.epochQ = [] ∧ ∃ r : Record, t.firm.records = s.firm.records ++ [r] ∧ r.kind = 4 ∧ r.done = false ∧ r.reason = 9 ∧
        r.who = e.p.tag ∧ r.detail = 1) ∧
    (fwRuns s = true → e.epoch.toNat ≤ s.time.fec.toNat → s.time.fec.toNat ≤ e.epoch.toNat + 1 → stateFault s c = true → Completes .epochQueueAct s fun t =>
      t.time.epochQ = [] ∧ ∃ r : Record, t.firm.records = s.firm.records ++ [r] ∧ r.kind = 4 ∧ r.done = false ∧ r.reason = 5 ∧
        r.who = e.p.tag ∧ r.detail = BitVec.ofNat 64 (stateCode s.firm.state)) ∧
    (fwRuns s = true → e.epoch.toNat ≤ s.time.fec.toNat → s.time.fec.toNat ≤ e.epoch.toNat + 1 → stateFault s c = false → c.check s1 e.p (tgtOf e.p.path) = none →
      exec .epochQueueAct s =
        done s (finishDrain (settle (c.act s1 e.p (tgtOf e.p.path)).1 (pendOf c e.p) (c.act s1 e.p (tgtOf e.p.path)).2))) ∧
    (s.phys.mainOn = true → s.time.fec.toNat + 500000000 < 2 ^ 64 →
      stampNow s ≤ 16 * ((s.time.fec.toNat + 500000000) / 1000000000 * 1000000000) →
      e.epoch.toNat ≤ (s.time.fec.toNat + 500000000) / 1000000000 * 1000000000 →
      Completes .ppsInEdge s fun t => t.time.epochQ = [] ∧
        ∃ r : Record, t.firm.records = s.firm.records ++ [r] ∧ r.kind = 4 ∧ r.done = false ∧ r.reason = 4 ∧ r.who = e.p.tag ∧ r.detail = 3)

/-! ### The Hamper (R358-R387) -/

/-- `CHECKPOINT_WRITE_START` and `EXTENT_COMMIT` (R368, R373, R378, R386): the generation is laid out from the program and begun in the
journal; each extent is committed with its digest and its first stripe, or recorded as failed; the manifest, whose digest is that of its
entries, ends the write. -/
def Obligations.CheckpointsAreWrittenExtentByExtent : Prop :=
  ∀ (s : State) (j : HJob), s.hamper.write = some j →
    (∀ p : Prog, s.prog = some p → itemsRunning s = false → genAt s j.gen = none →
      Completes .checkpointWriteStart s fun t =>
        (∃ g, genAt t j.gen = some g ∧ g.state = .writing ∧ g.extents = planExtents p ∧ g.image = p.digest ∧ g.seed = p.seed) ∧
        t.hamper.state = 2 ∧ (∃ r : JRec, t.hamper.journal = s.hamper.journal ++ [r] ∧ r.type = 1 ∧ r.gen = j.gen ∧ r.number = s.hamper.jnum) ∧
        t.mem = s.mem ∧ t.firm = s.firm) ∧
    (∀ g : Gen, genAt s j.gen = some g → j.paused = false → j.next + 1 < g.extents.length →
      let x := nth noExtent g.extents j.next
      let s1 := modHamper s fun h => { h with write := some { j with next := j.next + 1 } }
      heldLines s (extRange x) [] = [] → extError s x = false →
      (∀ r, programExtent s1 j.gen false j.next x.len = some r → Completes (.extentCommit .programmed) s fun t =>
        (∃ g' x', genAt t j.gen = some g' ∧ g'.extents = setNth g.extents j.next x' ∧ x'.kind = x.kind ∧ x'.status = 1 ∧
          x'.digest = sha3Word (extBytes x') ∧ x'.stripe = r.2) ∧
        t.hamper.write = some { j with next := j.next + 1 } ∧
        (∃ r : Record, t.firm.records = s.firm.records ++ [r] ∧ r.kind = 3 ∧ r.done = true ∧ r.who = j.gen ∧ r.number = BitVec.ofNat 32 j.next) ∧
        (∃ r : JRec, t.hamper.journal = s.hamper.journal ++ [r] ∧ r.type = 2 ∧ r.gen = j.gen)) ∧
      (∀ e why, (e = .noSpace ∧ why = 3) ∨ (e = .programmed ∧ programExtent s1 j.gen false j.next x.len = none ∧ why = 3) ∨
          (∃ a, e = .sourceEcc a ∧ extHolds s x a.toNat = true ∧ why = 2) → Completes (.extentCommit e) s fun t =>
        (∃ g' x', genAt t j.gen = some g' ∧ g'.extents = setNth g.extents j.next x' ∧ x'.status = 2 ∧ x'.reason = why ∧ g'.failed = g.failed + 1) ∧
        t.hamper.write = some { j with next := j.next + 1 } ∧ (why = 2 → t.hamper.eccAfter = true) ∧
        (∃ r : JRec, t.hamper.journal = s.hamper.journal ++ [r] ∧ r.type = 3 ∧ r.reason = why ∧ r.gen = j.gen) ∧
        ∃ r : Record, t.firm.records = s.firm.records ++ [r] ∧ r.kind = 3 ∧ r.done = false ∧ r.reason = why ∧ r.who = j.gen)) ∧
    (∀ g : Gen, genAt s j.gen = some g → j.paused = false → j.next + 1 = g.extents.length → g.state = .writing → g.failed = 0 →
      g.lost = false → isAnchor s = false → s.firm.state = .checkpoint → s.firm.draining = none → s.hamper.faultAfter = false →
      s.hamper.eccAfter = false → mirrorCircuit s = none → heldLines s (extRange (nth noExtent g.extents j.next)) [] = [] →
      (programExtent (modHamper s fun h => { h with write := some { j with next := j.next + 1 } }) j.gen false j.next
        (nth noExtent g.extents j.next).len).isSome = true →
      Completes (.extentCommit .programmed) s fun t => t.hamper.write = none ∧ t.firm.state = .running ∧
        ∃ g' x', genAt t j.gen = some g' ∧ g'.state = .local_ ∧ g'.extents = setNth g.extents j.next x' ∧ x'.status = 1 ∧
          x'.digest = sha3Word (manifestEntries g))

/-- `MIRROR_START`, `MIRROR_CIRCUIT_RETRY`, `MIRROR_TIMEOUT` and `MIRROR_EXTENT_RECEIVE` (R376, R386): a mirror takes up its oldest
generation and asks for a circuit; the sender's remaining extents fail on a timeout; the buddy keeps an extent that its circuit has
brought whole and whose digest matches, and fails one whose digest does not; with no such extent nothing happens. -/
def Obligations.MirrorsAreSentAndReceived : Prop :=
  ∀ (s : State), s.firm.draining = none →
    (∀ (e : Nat × Gen) (b : Nat × Nat) (k : Nat), s.hamper.mirrorTx = none → s.hamper.write = none →
      s.hamper.gens.find? (fun e => e.2.mirror && !e.2.sent && (e.2.state == .local_ || e.2.state == .complete)) = some e →
      buddyOf s e.2.buddy = some b → (strandsOf b.2).find? (fun k => outCause s s.fab.own k = 0) = some k →
      Completes .mirrorStart s fun t => (∃ j, t.hamper.mirrorTx = some j ∧ j.gen = BitVec.ofNat 32 e.1 ∧ j.next = 0) ∧
        (∀ g ∈ genAt t (BitVec.ofNat 32 e.1), g.sent = true) ∧ t.firm = s.firm) ∧
    (∀ (j : HJob) (b : Nat × Nat), s.hamper.mirrorTx = some j → mirrorCircuit s = none → ((genAt s j.gen).bind fun g => buddyOf s g.buddy) = some b →
      ((∀ k ∈ strandsOf b.2, outCause s s.fab.own k ≠ 0) → (∃ k ∈ strandsOf b.2, outCause s s.fab.own k = 2 ∨ outCause s s.fab.own k = 3) →
        Completes .mirrorCircuitRetry s fun t => t = s) ∧
      (∀ (k : Nat) (d : SliceDecl), k < 32 → (strandsOf b.2).find? (fun k => outCause s s.fab.own k = 0) = some k → sliceNo s s.fab.own.toNat = some d →
        inSlice s.fab.extent d s.fab.node.toNat = true → inSlice s.fab.extent d (BitVec.ofNat 16 b.1).toNat = true →
        Completes .mirrorCircuitRetry s fun t =>
          (∃ c, t.fab.circuits = s.fab.circuits ++ [c] ∧ c.mirror = true ∧ c.source = true ∧ c.tag = j.gen ∧ c.dst = BitVec.ofNat 16 b.1) ∧
          t.hamper = s.hamper)) ∧
    (∀ (j : HJob) (g : Gen), s.hamper.mirrorTx = some j → genAt s j.gen = some g → isAnchor s = false → s.firm.accepted = [] →
      Completes .mirrorTimeout s fun t => t.hamper.mirrorTx = none ∧ ∀ i, j.next ≤ i → i < g.extents.length →
        ∃ r ∈ t.firm.records, r.kind = 3 ∧ r.done = false ∧ r.reason = 9 ∧ r.who = j.gen ∧ r.number = BitVec.ofNat 32 i) ∧
    (∀ m : MirrorExtent, takeInbox s m.index = none → Completes (.mirrorExtentReceive m) s fun t => t = s) ∧
    (∀ (m : MirrorExtent) (g : Gen) (data : List Byte) (s1 : State), takeInbox s m.index = some (data, s1) →
      s.hamper.mirrorRx = some m.gen → mirrorAt s m.gen = some g → m.index < g.extents.length → m.last = false →
      (sha3Word data = m.digest → (programExtent s1 m.gen true m.index data.length).isSome = true →
        Completes (.mirrorExtentReceive m) s fun t =>
          (∃ g' x', mirrorAt t m.gen = some g' ∧ g'.extents = setNth g.extents m.index x' ∧ x'.status = 1 ∧ x'.digest = m.digest ∧
            x'.len = data.length ∧ (x'.kind ≠ 0x0F → rdBytes x'.data 0 x'.len = data)) ∧
          ∃ r : Record, t.firm.records = s.firm.records ++ [r] ∧ r.kind = 3 ∧ r.done = true ∧ r.who = m.gen ∧ r.number = BitVec.ofNat 32 m.index) ∧
      (sha3Word data ≠ m.digest → Completes (.mirrorExtentReceive m) s fun t =>
        (∃ g' x', mirrorAt t m.gen = some g' ∧ g'.extents = setNth g.extents m.index x' ∧ x'.status = 2 ∧ x'.reason = 6) ∧
        ∃ r : Record, t.firm.records = s.firm.records ++ [r] ∧ r.done = false ∧ r.reason = 6))

/-- Flash upkeep (R358-R362, R364, R378): reads count and join the refresh list at the limits, soft reads and lost pages are tallied, a
failed block is retired, folds, refreshes and wear levelling move data to the least-worn free block, compaction keeps exactly the
live records, and a codeword as it is programmed passes its check. -/
def Obligations.FlashBlocksAreKept : Prop :=
  ∀ (s : State),
    (∀ (b : BlockId) (page : Fin 768) (step : Fin 13), let k := blockKey b; let x := blockAt s k
      x.mode ≠ 0 → x.bad = false →
      (step.val < 9 → Completes (.pageReadComplete b page step) s fun t => (blockAt t k).reads = x.reads + 1 ∧ t.hamper.soft = s.hamper.soft ∧
        (x.reads + 1 = (if x.mode = 2 then 1000000 else 200000) → k ∈ t.hamper.refresh)) ∧
      (step.val = 12 → Completes (.pageReadComplete b page step) s fun t => t.hamper.lost = tallyAdd s.hamper.lost 1 ∧
        (blockAt t k).reads = x.reads + 1 ∧ ∀ (w : Nat × FlashPage) (g : Gen) (i o : Nat), x.pages.find? (fun w => w.1 = page.val) = some w →
          w.2.use = .data i o → w.2.owner % 2 = 0 → genAt s (BitVec.ofNat 32 (w.2.owner / 2)) = some g → i < g.extents.length →
          ∃ g', genAt t (BitVec.ofNat 32 (w.2.owner / 2)) = some g' ∧ (nth noExtent g'.extents i).lost = true) ∧
      (9 ≤ step.val → step.val < 11 → Completes (.pageReadComplete b page step) s fun t =>
        t.hamper.soft = tallyAdd s.hamper.soft 1 ∧ k ∈ t.hamper.refresh) ∧
      (step.val = 11 → 1 ≤ x.rebuilt → Completes (.pageReadComplete b page step) s fun t => (blockAt t k).bad = true)) ∧
    (∀ b : BlockId, (blockAt s (blockKey b)).bad = false → Completes (.programOrEraseFail b) s fun t =>
      (blockAt t (blockKey b)).bad = true ∧ t.hamper.grownBad = s.hamper.grownBad + 1 ∧
      ∃ r : JRec, t.hamper.journal = s.hamper.journal ++ [r] ∧ r.type = 9) ∧
    (∀ k ks n, mayWork s = true → foldSet s = k :: ks → (∃ j ∈ foldSet s, (blockAt s j).pages ≠ []) → lowestWear s (k / chanBlocks) = some n →
      n ∉ foldSet s → Completes .fold s fun t => BlocksMoved s t (foldSet s) n 1) ∧
    (s.hamper.state ≠ 0 → Completes .refreshCheck s fun t => ∀ k, k ∈ t.hamper.refresh ↔ k ∈ s.hamper.refresh ∨
      ∃ e ∈ s.hamper.blocks, e.1 = k ∧ e.2.mode ≠ 0 ∧ e.2.bad = false ∧ (s.time.fec.toNat < e.2.epoch.toNat ∨
        e.2.epoch.toNat + (if e.2.mode = 2 then 7 else s.hamper.age.toNat) * dayNs < s.time.fec.toNat)) ∧
    (∀ k ks n, mayWork s = true → s.hamper.refresh = k :: ks → (blockAt s k).pages ≠ [] → lowestWear s (k / chanBlocks) = some n → n ≠ k →
      s.hamper.slot = 0 ∨ k ∉ s.hamper.openBlocks →
      Completes .blockRefresh s fun t => k ∉ t.hamper.refresh ∧ BlocksMoved s t [k] n (blockAt s k).mode) ∧
    (∀ e n, mayWork s = true → wearPick s = some e → (blockAt s e.1).pages ≠ [] → lowestWear s (e.1 / chanBlocks) = some n → n ≠ e.1 →
      (2000 < wearSpread s → (∀ m ∈ s.hamper.wearAt, m + 1000000000 ≤ s.time.elapsed) → Completes .wearLevelMove s fun t =>
        BlocksMoved s t [e.1] n 1 ∧ t.hamper.wearAt = some s.time.elapsed) ∧
      (wearSpread s ≤ 2000 ∨ (∃ m ∈ s.hamper.wearAt, s.time.elapsed < m + 1000000000) → Completes .wearLevelMove s fun t => t = s)) ∧
    (s.hamper.state ≠ 0 → Completes .journalCompaction s fun t =>
      let live := s.hamper.journal.filter (isLive s)
      t.hamper.journal.length = live.length + 1 ∧ t.hamper.gens = s.hamper.gens ∧
      (∀ i < live.length, nth ⟨0, 0, 0, 0, 0, 0, []⟩ t.hamper.journal i =
        { nth ⟨0, 0, 0, 0, 0, 0, []⟩ live i with number := s.hamper.jnum + BitVec.ofNat 32 i }) ∧
      (nth ⟨0, 0, 0, 0, 0, 0, []⟩ t.hamper.journal live.length).type = 0x0A) ∧
    (∀ (gen index offset : Nat) (data : List Byte), data.length = 4096 →
      (flashCodeword gen index offset data).length = 4608 ∧ codewordPasses (flashCodeword gen index offset data) = true)

/-- `RESTORE_EXTENT_READ`, `RESTORE_COMPLETE` and `EXPORT_EXTENT` (R382, R383, R387): a good extent goes to its place; one that is lost
and has no buddy ends the restore at the member, which returns to `LOADED`; a finished restore empties the caches and pauses the module;
a lost extent ends an export, else the next piece is recorded, and the last one completes it. That an extent which cannot be written
ends a restore with reason 4, and an export with reason 5, is the model's choice (log 93). -/
def Obligations.RestoresAndExportsEndRight : Prop :=
  ∀ (s : State) (j : HJob), s.firm.draining = none → (∀ src, j.route ≠ .fabric src) →
    (s.hamper.restore = some j → let x := nth noExtent (restoreExtents s j.gen) j.next
      (j.next < (restoreExtents s j.gen).length → heldLines s [] (extRange x) = [] → restoreLocal s j.gen = true →
        x.lost = false → loadFails s x = false → (x.kind = 0x0F ∨ sha3Word (extBytes x) = x.digest) → ∀ buddy,
        Completes (.restoreExtentRead false buddy) s fun t => t.hamper.restore = some { j with next := j.next + 1 } ∧
          (∃ r : Record, t.firm.records = s.firm.records ++ [r] ∧ r.kind = 3 ∧ r.done = true ∧ r.who = j.gen ∧ r.number = BitVec.ofNat 32 j.next) ∧
          (x.kind = 2 → ∀ c, x.ctx = some c → ctxOf t x.source = c) ∧
          (x.kind = 1 → ∀ d, x.die = some d → t.cluster = d.cluster ∧ t.dieSync = d.die ∧ t.trees = d.trees ∧ t.samples = d.samples) ∧
          (x.kind = 3 ∨ x.kind = 4 ∨ x.kind = 5 → tableWf 0 x.data = true → ∀ a < x.len, rd 0 t.mem.dev (extAddr x + a) = rd 0 x.data a)) ∧
      (∀ lost buddy, (lost = true ∧ buddy = none) ∨ (lost = false ∧ restoreLocal s j.gen = true ∧ x.lost = false ∧ loadFails s x = true ∧
          (x.kind = 0x0F ∨ sha3Word (extBytes x) = x.digest)) →
        j.next < (restoreExtents s j.gen).length → heldLines s [] (extRange x) = [] →
        Completes (.restoreExtentRead lost buddy) s fun t => t.hamper.restore = none ∧
          (s.firm.state = .restore → t.firm.state = .loaded) ∧
          ∃ r1 r2 : Record, t.firm.records = s.firm.records ++ [r1, r2] ∧ r1.kind = 3 ∧ r1.reason = 4 ∧ r1.done = false ∧
            r2.kind = 4 ∧ r2.reason = 9 ∧ r2.who = j.tag) ∧
      ((restoreExtents s j.gen).length ≤ j.next → s.firm.state = .restore → Completes .restoreComplete s fun t =>
        t.firm.state = .paused ∧ t.hamper.restore = none ∧
        (∀ k, (rd {} t.mem.slices k).dirty = [] ∧ (rd {} t.mem.slices k).tags = []) ∧ t.mem.dev = s.mem.dev ∧
        ∃ r : Record, t.firm.records = s.firm.records ++ [r] ∧ r.kind = 4 ∧ r.done = true ∧ r.who = j.tag)) ∧
    (∀ g : Gen, s.hamper.copyOut = some j → genAt s j.gen = some g → s.hamper.write = none → j.host = false →
      let a := j.base + exportOffset g j.next
      let bs := exportPiece s j.gen g j.next
      let w := devWrite (touch 3 true s a bs.length) a bs
      let x := nth noExtent (dataExtents g) (if j.next = 0 then (dataExtents g).length else j.next - 1)
      heldLines s [] [(a, bs.length)] = [] →
      (farDown s a bs.length = false → w.2 = none → (j.next ≠ 0 → x.lost = false) →
        (j.next < (dataExtents g).length → Completes (.exportExtent false) s fun t =>
          t.hamper.copyOut = some { j with next := j.next + 1 } ∧ t.hamper.bytesR = s.hamper.bytesR + bs.length ∧ t.mem = w.1.mem ∧
          ∃ r : Record, t.firm.records = s.firm.records ++ [r] ∧ r.kind = 3 ∧ r.done = true ∧ r.who = j.gen) ∧
        ((dataExtents g).length ≤ j.next → Completes (.exportExtent false) s fun t => t.hamper.copyOut = none ∧ t.mem = w.1.mem ∧
          ∃ r1 r2 : Record, t.firm.records = s.firm.records ++ [r1, r2] ∧ r1.kind = 3 ∧ r1.done = true ∧ r2.kind = 4 ∧ r2.done = true ∧
            r2.who = j.tag)) ∧
      (∀ lost reason, (lost = true ∧ reason = 4) ∨ (lost = false ∧ j.next ≠ 0 ∧ x.lost = true ∧ reason = 4) ∨
          (lost = false ∧ (j.next ≠ 0 → x.lost = false) ∧ w.2.isSome = true ∧ reason = 5) →
        Completes (.exportExtent lost) s fun t => t.hamper.copyOut = none ∧ t.mem = s.mem ∧
          ∃ r1 r2 : Record, t.firm.records = s.firm.records ++ [r1, r2] ∧ r1.kind = 3 ∧ r1.done = false ∧ r1.reason = reason ∧
            r2.kind = 4 ∧ r2.reason = 9 ∧ r2.who = j.tag))

/-! ### Memory events (R225, R226, R230, R234, R237-R242, R249, R253-R256, R263) -/

/-- Scrubs and write-backs (R225, R226, R234, R237, R238, R253, R254): a scrub reads the bank's or stack's next word, tallies a correction, and
leaves an uncorrectable word as it is with its tally, address and mark; a corrected word, an LLM line and an HBM line are written back
in their turn. The order within a scrub pass of a stack is the model's choice (log 87). -/
def Obligations.ScrubsAndWritebacksTallyErrors : Prop :=
  ∀ (s : State),
    (∀ (tile : Fin 64) (bank : Fin 32), let x := tileAt s tile; let n := 2048 + 8 * rd 0 x.spares bank.val
      let place := scrubPlace s [0] tile.val bank.val 2048 (rd 0 x.scrubPos bank.val)
      let word := fun (a : BitVec 48) => bankAddr bank.val place.1 place.2 + a.toNat % 64 / 8 * 8
      tile.val < tilesOn s → x.scrubEn = true → s.mem.onchip = true →
      (∀ e, Completes (.tilePatrolScrub tile bank e) s fun t => rd 0 (tileAt t tile).scrubPos bank.val = (rd 0 x.scrubPos bank.val + 1) % n ∧
        (tileAt t tile).ctx.sp = x.ctx.sp) ∧
      (Completes (.tilePatrolScrub tile bank .clean) s fun t => (tileAt t tile).spCe = x.spCe ∧ (tileAt t tile).ctx = x.ctx) ∧
      (∀ a, Completes (.tilePatrolScrub tile bank (.corrected a)) s fun t => (tileAt t tile).spCe = tallyAdd x.spCe 1 ∧
        (tileAt t tile).ctx = x.ctx ∧ (tileAt t tile).spCorrected = x.spCorrected ++ [BitVec.ofNat 22 (word a)]) ∧
      (∀ a, Completes (.tilePatrolScrub tile bank (.uncorrectable a)) s fun t => (tileAt t tile).spUeTally = tallyAdd x.spUeTally 1 ∧
        (tileAt t tile).spUeAddr = some (BitVec.ofNat 22 (word a)) ∧ word a ∈ (tileAt t tile).ctx.spUe ∧
        EventRaised s t 0x05 2 (tilePath s tile))) ∧
    (∀ tile : Fin 64, Completes (.spCorrectedWriteback tile) s fun t =>
      (tileAt t tile).spCorrected = (tileAt s tile).spCorrected.drop 1 ∧ (tileAt t tile).ctx = (tileAt s tile).ctx) ∧
    (∀ (sl : Fin 16) (bank : Fin 32), let x := rd {} s.mem.slices sl.val
      let place := scrubPlace s [1] sl.val bank.val 40960 (rd 0 x.scrubPos bank.val)
      let word := fun (a : BitVec 48) => sliceOff bank.val place.1 place.2 + a.toNat % 64 / 8 * 8
      x.scrubEn = true → s.mem.onchip = true →
      (∀ a, Completes (.llmPatrolScrub sl bank (.corrected a) none) s fun t =>
        (rd {} t.mem.slices sl.val).ce = tallyAdd x.ce 1 ∧ t.mem.dev = s.mem.dev ∧
        (x.disabled = 0 →
          rd 0 (rd {} t.mem.slices sl.val).scrubPos bank.val = (rd 0 x.scrubPos bank.val + 1) % (40960 + 8 * rd 0 x.spares bank.val))) ∧
      (∀ a, inService x (rd 0 x.scrubPos bank.val) = true → inScratch s sl.val (word a / wayGroup) = true →
        Completes (.llmPatrolScrub sl bank (.uncorrectable a) none) s fun t =>
          (rd {} t.mem.slices sl.val).ue = tallyAdd x.ue 1 ∧ (rd {} t.mem.slices sl.val).ueOff = some (BitVec.ofNat 27 (word a)) ∧
          llmBase + sl.val * 16 * wayGroup + word a ∈ t.mem.ue ∧ t.mem.dev = s.mem.dev) ∧
      (∀ e : TagError, e.double = false → Completes (.llmPatrolScrub sl bank .clean (some e)) s fun t =>
        (rd {} t.mem.slices sl.val).ce = tallyAdd x.ce 1 ∧ (rd {} t.mem.slices sl.val).tags = x.tags)) ∧
    (∀ (sl : Fin 16) (line : BitVec 42), let x := rd {} s.mem.slices sl.val
      line.toNat ∈ x.dirty → homeSlice (64 * line.toNat) = sl.val → Completes (.llmWritebackComplete sl line) s fun t =>
        line.toNat ∉ (rd {} t.mem.slices sl.val).dirty ∧ (rd {} t.mem.slices sl.val).tags = x.tags ∧
        (rd {} t.mem.slices sl.val).writebacks = x.writebacks + 1 ∧ t.mem.dev = s.mem.dev ∧ 64 * line.toNat ∉ t.mem.poison ∧
        ∃ r ∈ (rd {} t.mem.chans (channelOf s line.toNat).1).reqs, r.write = true ∧ r.line = line.toNat) ∧
    (∀ k : Fin 8, let x := rd {} s.mem.hbm k.val; let l := scrubLine k.val x.scrubPos
      (Completes (.hbmCorrectedWriteback k) s fun t => (rd {} t.mem.hbm k.val).corrected = x.corrected.drop 1 ∧ t.mem.dev = s.mem.dev) ∧
      (x.scrubEn = true → x.trained = true → stackOf (64 * l) = k.val → ∀ (bad : Fin 73) (ondie : Nat),
        (Completes (.hbmPatrolScrub k bad ondie) s fun t =>
          (rd {} t.mem.hbm k.val).scrubPos = (x.scrubPos + 1) % 2 ^ 30 ∧ t.mem.dev = s.mem.dev) ∧
        (linePoison s l = true → Completes (.hbmPatrolScrub k bad ondie) s fun t =>
          t.mem.poison = s.mem.poison ∧ (rd {} t.mem.hbm k.val).ue = x.ue ∧ (rd {} t.mem.hbm k.val).ce = x.ce) ∧
        (linePoison s l = false → 1 ≤ bad.val → bad.val ≤ 2 → Completes (.hbmPatrolScrub k bad ondie) s fun t =>
          (rd {} t.mem.hbm k.val).ce = tallyAdd x.ce 1 ∧ t.mem.poison = s.mem.poison) ∧
        (linePoison s l = false → 3 ≤ bad.val → Completes (.hbmPatrolScrub k bad ondie) s fun t => 64 * l ∈ t.mem.poison ∧
          (rd {} t.mem.hbm k.val).ue = tallyAdd x.ue 1 ∧ (rd {} t.mem.hbm k.val).ueAddr = some (BitVec.ofNat 42 l) ∧
          EventRaised s t 0x05 2 (unitPath s 0 0))))

/-- HBM reads, slots, row repairs and the far tier (R249, R251-R256, R263): up to two wrong symbols are corrected, a poisoned or
uncorrectable line is marked and named and its descriptor fails, a slot goes by the grant rule and moves a request, a candidate row
is soft-repaired or its granules retired, a CXL link without a response goes down with its dirty lines poisoned. What three or
more wrong symbols do is the model's choice (log 87). -/
def Obligations.HbmAndFarTierFollowTheirRules : Prop :=
  ∀ (s : State),
    (∀ (line : BitVec 42) (bad : Fin 73) (ondie : Nat) (reader : HbmReader), s.mem.offchip = true → 64 * line.toNat < hbmSize →
      let k := stackOf (64 * line.toNat)
      let x := rd {} s.mem.hbm k
      (linePoison s line.toNat = true → Completes (.hbmReadComplete line bad ondie reader) s fun t =>
        (rd {} t.mem.hbm k).poison = tallyAdd x.poison 1 ∧ (rd {} t.mem.hbm k).ue = x.ue ∧ (rd {} t.mem.hbm k).ueAddr = some line) ∧
      (linePoison s line.toNat = false → 3 ≤ bad.val → Completes (.hbmReadComplete line bad ondie reader) s fun t =>
        (rd {} t.mem.hbm k).ue = tallyAdd x.ue 1 ∧ (rd {} t.mem.hbm k).ueAddr = some line ∧ linePoison t line.toNat = true) ∧
      (linePoison s line.toNat = true ∨ 3 ≤ bad.val → ∀ (tile : Fin 64) (st : Stream) (seq : BitVec 32), reader = .dma tile st seq →
        Completes (.hbmReadComplete line bad ondie reader) s fun t =>
          ∀ i ∈ (tileAt t tile).dmaRun, i.stream = st → i.seq = seq → i.failed.isSome = true) ∧
      (linePoison s line.toNat = false → bad = 0 → Completes (.hbmReadComplete line bad ondie reader) s fun t =>
        (rd {} t.mem.hbm k).ondie = tallyAdd x.ondie ondie ∧ (rd {} t.mem.hbm k).ce = x.ce ∧ t.mem.poison = s.mem.poison) ∧
      (linePoison s line.toNat = false → 1 ≤ bad.val → bad.val ≤ 2 → Completes (.hbmReadComplete line bad ondie reader) s fun t =>
        (rd {} t.mem.hbm k).ce = tallyAdd x.ce 1 ∧ t.mem.poison = s.mem.poison ∧ (rd {} t.mem.hbm k).corrected =
          if (rd {} s.mem.chans (channelOf s line.toNat).1).reqs.any (fun r => r.write && r.line == line.toNat) then x.corrected
          else x.corrected ++ [line])) ∧
    (∀ (ch : Fin 516) (busy : List (BitVec 42)), let c := rd {} s.mem.chans ch.val
      (Completes (.hbmSlotGrant ch busy) s fun t => (rd {} t.mem.chans ch.val).slot = (c.slot + 1) % 20 ∧
        (c.reqs = [] → (rd {} t.mem.chans ch.val).reqs = [] ∧ t.mem.bytesP = s.mem.bytesP) ∧
        (c.slot = 0 → (rd {} t.mem.chans ch.val).prio = prioWord s.mem)) ∧
      (c.slot ≠ 0 → queued c 0 ≠ [] → rd 0 c.used 0 < c.prio % 32 → Completes (.hbmSlotGrant ch busy) s fun t =>
        rd 0 (rd {} t.mem.chans ch.val).used 0 = rd 0 c.used 0 + 1 ∧
        ∀ r, c.reqs.find? (fun r => (queued c 0).contains r && servable c busy r) = some r →
          (rd {} t.mem.chans ch.val).reqs = c.reqs.erase r ∧ (ch.val < 512 → rd 0 t.mem.bytesP 0 = rd 0 s.mem.bytesP 0 + 64)) ∧
      (∀ k ∈ [1, 2, 3], c.slot ≠ 0 → queued c 0 = [] → queued c k ≠ [] →
        (∀ j ∈ [1, 2, 3], j ≠ k → queued c j ≠ [] → let w := fun j => c.prio / 32 ^ j % 32
          (rd 0 c.used k + 1) * w j < (rd 0 c.used j + 1) * w k ∨ ((rd 0 c.used k + 1) * w j = (rd 0 c.used j + 1) * w k ∧ k < j)) →
        Completes (.hbmSlotGrant ch busy) s fun t => rd 0 (rd {} t.mem.chans ch.val).used k = rd 0 c.used k + 1 ∧
          ∀ r, c.reqs.find? (fun r => (queued c k).contains r && servable c busy r) = some r →
            (rd {} t.mem.chans ch.val).reqs = c.reqs.erase r ∧ (ch.val < 512 → rd 0 t.mem.bytesP k = rd 0 s.mem.bytesP k + 64))) ∧
    (∀ (k : Fin 8) (r : RowRepair), let row := r.pc.val * 2 ^ 20 + r.row.toNat
      isCandidate (rd {} s.mem.hbm k.val) row = true →
      (r.spare = true → Completes (.hbmRowRepair k r) s fun t => (rd {} t.mem.hbm k.val).softRepairs = inc8 (rd {} s.mem.hbm k.val).softRepairs ∧
        row ∈ (rd {} t.mem.hbm k.val).soft ∧ isCandidate (rd {} t.mem.hbm k.val) row = false ∧ t.mem.retired = s.mem.retired ∧
        ∀ i < 16, r.lost.getLsbD i = true → 64 * nth 0 (rowLines k.val r.pc.val r.row.toNat) i ∈ t.mem.poison) ∧
      (r.spare = false → s.mem.retired.length + 4 ≤ 4096 → Completes (.hbmRowRepair k r) s fun t =>
        (∀ g ∈ rowGranules k.val r.pc.val r.row.toNat, g ∈ t.mem.retired) ∧ t.mem.retOvf = s.mem.retOvf) ∧
      (r.spare = false → s.mem.retired.length = 4096 → (∃ g ∈ rowGranules k.val r.pc.val r.row.toNat, g ∉ s.mem.retired) →
        Completes (.hbmRowRepair k r) s fun t =>
          t.mem.retired = s.mem.retired ∧ t.mem.retOvf.toNat = min 0xFFF (s.mem.retOvf.toNat + 1))) ∧
    (∀ (line : BitVec 42) (poison : Bool) (n : Nat), regionAt s (64 * line.toNat) = .far → farDown s (64 * line.toNat) 64 = false →
      Completes (.cxlResponse line poison n) s fun t => t.mem.cxlRetry = tallyAdd s.mem.cxlRetry n ∧
        (poison = true → 64 * line.toNat ∈ t.mem.poison) ∧ (poison = false → t.mem.poison = s.mem.poison)) ∧
    (∀ link : Fin 4, (rd {} s.mem.cxl link.val).present = true → link.val < cxlLinks s → s.mem.cxlDown.getLsbD link.val = false →
      inLoaded s = false → s.firm.state ≠ .faulted → s.firm.draining = none → Completes (.cxlRequestTimeout link) s fun t =>
        t.mem.cxlDown.getLsbD link.val = true ∧ EventRaised s t 0x05 2 (unitPath s 0 0) ∧
        ∀ sl < 16, ∀ l ∈ (rd {} s.mem.slices sl).dirty, regionAt s (64 * l) = .far → farLink s (64 * l) = link.val → 64 * l ∈ t.mem.poison) ∧
    (∀ link : Fin 4, (rd {} s.mem.cxl link.val).present = true → link.val < cxlLinks s → s.mem.cxlDown.getLsbD link.val = false →
      s.firm.state = .running → (itemsInFlight s || extentsInFlight s || commandsInFlight s) = true → Completes (.cxlRequestTimeout link) s fun t =>
        t.firm.state = .faulted ∧ t.firm.draining = some .faulted ∧ t.firm.faultCause = 5)

/-- `LLM_MODE_CHANGE_DONE`, `MARCH_COMPLETE` and `CXL_RETRAIN_COMPLETE` (R230, R239-R242, R263): the masks hold and the command completes; a run
clears what it must, repairs each failing row by the bank's next spare with a log entry, or shows it unrepairable; a retrained
link is up. -/
def Obligations.MemoryCommandsCompleteWithTheirEvents : Prop :=
  ∀ (s : State), s.firm.draining = none →
    (∀ a : PendCmd, acceptedOf s 0x0303 = some a → (∀ src, a.p.route ≠ .fabric src) → Completes .llmModeChangeDone s fun t =>
      (∀ sl < 16, ∀ g < 16, (rd {} s.mem.slices sl).disabled.getLsbD g = false →
        (rd {} t.mem.slices sl).scratch.getLsbD g = (nth 0 (masksOf a.p.payload) sl).getLsbD g) ∧
      (∀ b, b < llmBase ∨ llmBase + 256 * wayGroup ≤ b → rd 0 t.mem.dev b = rd 0 s.mem.dev b) ∧
      ∃ r : Record, t.firm.records = s.firm.records ++ [r] ∧ r.kind = 4 ∧ r.done = true ∧ r.who = a.p.tag) ∧
    (∀ tile : Fin 64, acceptedOf s 0x0901 = none → (tileAt s tile).march.state = 1 →
      ((tileAt s tile).march.mode = 1 → (tileAt s tile).march.unrepaired = 0 → Completes (.marchComplete (.tile tile) []) s fun t =>
        (tileAt t tile).march.state = 2 ∧ (∀ a, rd 0 (tileAt t tile).ctx.sp a = 0) ∧ (tileAt t tile).ctx.spUe = []) ∧
      ((tileAt s tile).march.mode = 2 → (tileAt s tile).march.unrepaired = 0 → ∀ r : BankRow, rd 0 (tileAt s tile).spares r.bank.val < 4 →
        s.mem.repair.length < 4096 → Completes (.marchComplete (.tile tile) [r]) s fun t =>
          (tileAt t tile).march.state = 2 ∧ (tileAt t tile).ctx = (tileAt s tile).ctx ∧
          rd 0 (tileAt t tile).spares r.bank.val = rd 0 (tileAt s tile).spares r.bank.val + 1 ∧
          (tileAt t tile).march.repaired = inc8 (tileAt s tile).march.repaired ∧
          ∃ e : RepairEntry, t.mem.repair = s.mem.repair ++ [e] ∧ e.kind = 0 ∧ e.unit = BitVec.ofNat 8 tile.val ∧ e.row = r.row ∧
            e.bank.toNat = r.bank.val ∧ e.result = 0 ∧ e.spare.toNat = rd 0 (tileAt s tile).spares r.bank.val)) ∧
    (∀ (sl : Fin 16) (r : BankRow), acceptedOf s 0x0901 = none → (rd {} s.mem.slices sl.val).march.state = 1 →
      (rd {} s.mem.slices sl.val).march.unrepaired = 0 → 32 ≤ rd 0 (rd {} s.mem.slices sl.val).spares r.bank.val → r.tag = false →
      Completes (.marchComplete (.llm sl) [r]) s fun t => (rd {} t.mem.slices sl.val).march.state = 3 ∧
        (rd {} t.mem.slices sl.val).disabled.getLsbD (min 15 (r.row.toNat / 320)) = true) ∧
    (∀ (a : PendCmd) (up : List CxlDevice) (d : CxlDevice), acceptedOf s 0x0304 = some a → (∀ src, a.p.route ≠ .fabric src) →
      pn a.p 0 1 = 2 ^ d.link.val → up = [d] → d.ok = true → d.link.val < cxlLinks s → Completes (.cxlRetrainComplete up) s fun t =>
        t.mem.cxlDown.getLsbD d.link.val = false ∧ (rd {} t.mem.cxl d.link.val) = ⟨d.capacity, d.lanes, d.speed, true⟩ ∧
        ∃ r : Record, t.firm.records = s.firm.records ++ [r] ∧ r.kind = 4 ∧ r.done = true ∧ r.who = a.p.tag)

/-! ### The Vorkiux Link (R389-R397) -/

/-- The link layer (R390, R391, R397, R398): a bad flit is discarded with a nak, a good one in sequence acknowledges, returns credits and
advances; a loss of lock or a timeout retrains; the third failure in a row loses the link with the host's copies. -/
def Obligations.FlitsAcknowledgeAndRetrain : Prop :=
  ∀ (s : State),
    (∀ (f : BitVec 2048), linkUp s = true →
      (Completes (.flitReceived f false) s fun t => t.vkx.crcErr = tallyAdd s.vkx.crcErr 1 ∧ t.out = s.out ++ [.nak s.vkx.rxSeq] ∧
        t.vkx.rxSeq = s.vkx.rxSeq) ∧
      (flitCrcOk f = true → bitsN f.toNat 12 4 = 0 → BitVec.ofNat 12 (bitsN f.toNat 0 12) = s.vkx.rxSeq + 1 → s.vkx.waitQ = [] →
        Completes (.flitReceived f true) s fun t => t.vkx.rxSeq = s.vkx.rxSeq + 1 ∧ t.out = s.out ∧
          t.vkx.unacked = s.vkx.unacked.filter (fun q => precedes 12 (BitVec.ofNat 12 (bitsN f.toNat 16 12)).toNat q.toNat) ∧
          t.vkx.reqCredit = min 128 (s.vkx.reqCredit + bitsN f.toNat 32 8) ∧ t.vkx.snpCredit = min 64 (s.vkx.snpCredit + bitsN f.toNat 40 8) ∧
          t.vkx.rspCredit = min 256 (s.vkx.rspCredit + bitsN f.toNat 48 8) ∧ t.vkx.datCredit = min 256 (s.vkx.datCredit + bitsN f.toNat 56 8))) ∧
    (linkUp s = true → Completes .vkxRetrain s fun t => t.vkx.state = 1 ∧ t.vkx.retrain = tallyAdd s.vkx.retrain 1) ∧
    (∀ txid, linkUp s = true → txUsed s.vkx txid = true → Completes (.vkxRequestTimeout txid) s fun t =>
      t.vkx.state = 1 ∧ t.vkx.retrain = tallyAdd s.vkx.retrain 1) ∧
    (s.phys.mainOn = true → 2 ≤ s.firm.phase.toNat → s.vkx.state = 0 → Completes .vkxDownRetrainTimer s fun t => t.vkx.state = 1) ∧
    (∀ v : LinkTrain, s.vkx.state = 1 → v.ok = true → s.vkx.en = false → s.vkx.waitQ = [] → Completes (.vkxRetrainComplete v) s fun t =>
      t.vkx.state = (if v.lanes = 16 ∧ v.speed = 64 then 2 else 3) ∧ t.vkx.reqCredit = 128 ∧ t.vkx.snpCredit = 64 ∧
      t.vkx.rspCredit = 256 ∧ t.vkx.datCredit = 256) ∧
    (∀ v : LinkTrain, s.vkx.state = 1 → v.ok = false →
      (s.vkx.badTrains < 2 → Completes (.vkxRetrainComplete v) s fun t => t.vkx.state = 1 ∧ t.vkx.badTrains = s.vkx.badTrains + 1 ∧
        t.vkx.retrain = tallyAdd s.vkx.retrain 1) ∧
      (s.vkx.badTrains = 2 → s.vkx.posts = [] → s.hamper.copyOut = none → s.firm.accepted = [] → inLoaded s = false →
        s.firm.state ≠ .faulted → s.firm.draining = none → Completes (.vkxRetrainComplete v) s fun t =>
          t.vkx.state = 0 ∧ t.vkx.asked = [] ∧ t.vkx.lines = [] ∧ EventRaised s t 0x0C 2 (unitPath s 0 0) ∧
          (∀ e ∈ t.mem.slices, e.2.snoop = []) ∧ ∀ e ∈ s.mem.slices, ∀ x ∈ e.2.snoop, x.2 = 2 → 64 * x.1 ∈ t.mem.poison))

/-- Requests of the host (R392-R396): a read gives the bytes at the address or its error, a write changes exactly its bytes, a line read is
noted in the snoop filter, a line written or given up leaves it. -/
def Obligations.HostRequestsAreServed : Prop :=
  ∀ (s : State) (m : HostReq) (d : BitVec 512), linkUp s = true →
    let a := m.addr.toNat
    let n := m.len.val + 1
    let plain := regionAt s a ≠ .reg ∧ regionAt s a ≠ .hole
    let mem := regionAt s a = .hbm ∨ regionAt s a = .far ∨ regionAt s a = .llm
    (a % 64 + m.len.val < 64 →
      ((hostTarget s a n).2 = 0 → plain → devMark s a n = none → Completes (.rdUc m) s fun t =>
        Responded t 0x30 m.txid 0 0 (List.replicate (a % 64) 0 ++ devRead s a n ++ List.replicate (64 - a % 64 - (devRead s a n).length) 0) ∧
        t.mem.dev = s.mem.dev ∧ t.mem.host = s.mem.host ∧ t.tiles = s.tiles) ∧
      ((hostTarget s a n).2 = 0 → plain → devMark s a n ≠ none → Completes (.rdUc m) s fun t => ∃ bs, Responded t 0x30 m.txid 3 0 bs) ∧
      ((hostTarget s a n).2 ≠ 0 → Completes (.rdUc m) s fun t => (∃ bs, Responded t 0x30 m.txid (BitVec.ofNat 4 (hostTarget s a n).2) 0 bs) ∧ t.mem = s.mem) ∧
      ((hostTarget s a n).2 = 0 → mem → writeMark s a (writeBytes m d) = none → Completes (.wrUc m d) s fun t =>
        OnlyBytes s t a (writeBytes m d) ∧ Responded t 0x20 m.txid 0 0 []) ∧
      ((hostTarget s a n).2 = 0 → mem → writeMark s a (writeBytes m d) ≠ none → Completes (.wrUc m d) s fun t =>
        t.mem.dev = s.mem.dev ∧ Responded t 0x20 m.txid 3 0 [])) ∧
    (cacheable s a = true → farDown s a 64 = false → devMark s a 64 = none → (∀ x ∈ s.vkx.snooped, x.2.1 ≠ a / 64) →
      (hostHolds s (a / 64) = true ∨ (rd {} s.mem.slices (homeSlice a)).snoop.length < filterSize) →
      (Completes (.rdS m) s fun t => Responded t 0x30 m.txid 0 1 (devRead s a 64) ∧ hostHolds t (a / 64) = true ∧ t.mem.dev = s.mem.dev) ∧
      (Completes (.rdX m) s fun t => Responded t 0x30 m.txid 0 2 (devRead s a 64) ∧ hostHolds t (a / 64) = true ∧ t.mem.dev = s.mem.dev)) ∧
    (cacheable s a = true → (hostTarget s a 64).2 = 0 → writeMark s a (natLe 64 d.toNat) = none → m.poison = false →
      (Completes (.wrLine m d) s fun t => OnlyBytes s t a (natLe 64 d.toNat) ∧ hostHolds t (a / 64) = false ∧ Responded t 0x20 m.txid 0 0 []) ∧
      (hostHolds s (a / 64) = true → (∀ x ∈ s.vkx.snooped, x.2.1 ≠ a / 64) → s.vkx.held = [] → Completes (.wb m d) s fun t =>
        OnlyBytes s t a (natLe 64 d.toNat) ∧ hostHolds t (a / 64) = false ∧ Responded t 0x20 m.txid 0 0 [])) ∧
    (cacheable s a = true → farDown s a 64 = false → retiredIn s a 64 = [] → m.poison = true → Completes (.wrLine m d) s fun t =>
      a ∈ t.mem.poison ∧ t.mem.dev = s.mem.dev ∧ Responded t 0x20 m.txid 0 0 []) ∧
    (cacheable s a = true → s.vkx.held = [] → Completes (.evict m) s fun t =>
      hostHolds t (a / 64) = false ∧ t.mem.dev = s.mem.dev ∧ Responded t 0x20 m.txid 0 0 [])

/-- Snoops and responses (R394-R397, R403): the host-line cache gives a line up, a read brings its line into the model's copy of host memory, a
write's `CMP` finishes the reply or ring entry that waited, an answered snoop sets the filter and brings modified data home. -/
def Obligations.SnoopsAndResponsesEndTheirTransactions : Prop :=
  ∀ (s : State) (m : HostReq) (r : HostRsp) (d : BitVec 512), linkUp s = true →
    let l := m.addr.toNat / 64
    (s.vkx.en = false ∨ lineState s (64 * l) = 0 → Completes (.snpInv m) s fun t => (∀ x ∈ t.vkx.lines, x.1 ≠ l) ∧ Responded t 0x21 m.txid 0 0 []) ∧
    (Completes (.snpSh m) s fun t => t.vkx.lines = s.vkx.lines ∧ Responded t 0x21 m.txid 0 (if lineState s m.addr.toNat = 0 then 0 else 1) []) ∧
    ((∃ x ∈ s.vkx.asked, x.1 = r.txid ∧ 4 ≤ x.2.2.toNat) →
      (s.vkx.posts = [] → Completes (.cmp r) s fun t => (∀ x ∈ t.vkx.asked, x.1 ≠ r.txid) ∧ t.out = s.out) ∧
      (∀ k rep, s.vkx.posts = [⟨[r.txid], .reply k rep⟩] → Completes (.cmp r) s fun t => t.vkx.posts = [] ∧ t.vkx.replies = s.vkx.replies ++ [(k, rep)]) ∧
      (∀ e, s.vkx.posts = [⟨[r.txid], .entry e⟩] → s.vkx.replyQ = [] → Completes (.cmp r) s fun t => t.vkx.posts = [] ∧ t.vkx.tail = s.vkx.tail + 1)) ∧
    (∀ x, s.vkx.asked.find? (fun x => x.1 = r.txid && x.2.2.toNat < 4) = some x → x.2.2 = 1 → s.vkx.toAsk = [] → s.firm.accepted = [] →
      let a := x.2.1 / 64 * 64
      (r.resp = 0 → r.poison = false → Completes (.data r d) s fun t => t.mem.host = wrBytes s.mem.host a (natLe 64 d.toNat) ∧
        a ∉ t.mem.hostBad ∧ ∀ y ∈ t.vkx.asked, y.1 ≠ r.txid) ∧
      (r.resp ≠ 0 ∨ r.poison = true → Completes (.data r d) s fun t => t.mem.host = s.mem.host ∧ a ∈ t.mem.hostBad)) ∧
    (∀ x, s.vkx.snooped.find? (fun x => x.1 = r.txid) = some x → s.vkx.held = [] → s.fab.items = [] → s.fab.serving = [] →
      (Completes (.snpAck r) s fun t => (hostHolds t x.2.1 = true ↔ r.state ≠ 0) ∧ (∀ y ∈ t.vkx.snooped, y.1 ≠ r.txid) ∧ t.mem.dev = s.mem.dev) ∧
      (r.poison = false → (regionAt s (64 * x.2.1) = .hbm ∨ regionAt s (64 * x.2.1) = .far) → writeMark s (64 * x.2.1) (natLe 64 d.toNat) = none →
        Completes (.snpData r d) s fun t => OnlyBytes s t (64 * x.2.1) (natLe 64 d.toNat) ∧ (hostHolds t x.2.1 = true ↔ r.state ≠ 0)) ∧
      (r.poison = true → Completes (.snpData r d) s fun t => 64 * x.2.1 ∈ t.mem.poison ∧ t.mem.dev = s.mem.dev))

/-! ### The command window and MCTP (R399-R403, R408) -/

/-- The window's operations (R399-R404, R408): a slot is read as the packet that its bytes spell, a ring entry is written at the tail's slot, the
head, the status copy and the valid word take effect, MCTP takes eight commands at most and fails the CRC of a short one (log 5). -/
def Obligations.TheWindowCarriesPacketsAndEntries : Prop :=
  ∀ (s : State),
    (∀ (k : Fin 64) (c : CmdDef), let a := winAt s (0x1000 * k.val); let h := hostRead s a 32; let bs := hostRead s (a + 32) (headLen h)
      fwRuns s = true → anyState s = true → linkUp s = true → s.vkx.en = true → queueFull s = false → slotBusy s k = false →
      leNat (sub h 24 8) ≠ 0 → headLen h ≤ 4064 → hostPending s a (32 + headLen h) = false → hostMark s a 64 = none →
      hostMark s a (32 + headLen h) = none →
      (crc32c (h.take 28 ++ bs) = leNat (sub h 28 4) → cmdOf (BitVec.ofNat 16 (leNat (sub h 24 2))) = some c →
        exec (.commandSlotTake k) s = done s (takePacket c ⟨.slot k, BitVec.ofNat 64 (leNat (sub h 0 8)), BitVec.ofNat 64 (leNat (sub h 8 8)),
          BitVec.ofNat 32 (leNat (sub h 16 4)), BitVec.ofNat 16 (leNat (sub h 26 2)), bs⟩ s)) ∧
      (crc32c (h.take 28 ++ bs) ≠ leNat (sub h 28 4) → Completes (.commandSlotTake k) s fun t =>
        Replied s t (.slot k) ⟨BitVec.ofNat 32 (leNat (sub h 16 4)), 4, BitVec.ofNat 16 (leNat (sub h 24 2)), refusal 28 1, fec s, 0, [], []⟩)) ∧
    (∀ e s', linkUp s = true → s.vkx.en = true → entryOut s = false → (s.vkx.tail - s.vkx.head).toNat < 2 ^ s.vkx.order.toNat →
      nextEntry s = some (e, s') → Completes .ringEntryWrite s fun t => (∃ p ∈ t.vkx.posts, p.what = .entry e) ∧ t.vkx.tail = s.vkx.tail ∧
        rdBytes t.mem.host (winAt s (0x42000 + 64 * (s.vkx.tail.toNat % 2 ^ s.vkx.order.toNat))) 64 = entryBytes e ++ natLe 8 s.vkx.tail.toNat) ∧
    (∀ head, Completes (.ringHeadAdvance head) s fun t => t.vkx.head = head ∧ t.vkx.tail = s.vkx.tail) ∧
    (linkUp s = true → s.vkx.en = true → Completes .statusCopy s fun t => rdBytes t.mem.host (winAt s 0x41000) 8 = natLe 8 (dieStatus s).toNat) ∧
    (∀ k, Completes (.replyValidWordClear k) s fun t => (∀ x ∈ t.vkx.replies, x.1 ≠ k) ∧ ∀ x ∈ s.vkx.replies, x.1 ≠ k → x ∈ t.vkx.replies) ∧
    (∀ ep bytes, bytes.length < 32 → Completes (.mctpMessage ep bytes) s fun t => t = s) ∧
    (∀ ep bytes, 32 ≤ bytes.length → fwRuns s = true → 8 ≤ s.firm.mctpOpen → Completes (.mctpMessage ep bytes) s fun t =>
      (∃ r, t.out = s.out ++ [.mctp ep r] ∧ r.status = 7 ∧ r.tag = BitVec.ofNat 32 (leNat (sub bytes 16 4))) ∧
      t.firm.accepted = s.firm.accepted ∧ ∃ r : Record, t.firm.records = s.firm.records ++ [r] ∧ r.kind = 4 ∧ r.reason = 7 ∧ r.done = false) ∧
    (∀ ep bytes, 32 ≤ bytes.length → fwRuns s = true → s.firm.mctpOpen < 8 → headLen bytes ≤ 4064 →
      bytes.length < 32 + headLen bytes ∨ crc32c (bytes.take 28 ++ sub bytes 32 (headLen bytes)) ≠ leNat (sub bytes 28 4) →
      Completes (.mctpMessage ep bytes) s fun t => t.out = s.out ++ [.mctp ep ⟨BitVec.ofNat 32 (leNat (sub bytes 16 4)), 4,
        BitVec.ofNat 16 (leNat (sub bytes 24 2)), refusal 28 1, fec s, 0, [], []⟩] ∧ t.firm.accepted = s.firm.accepted) ∧
    (∀ ep bytes c, 32 + headLen bytes ≤ bytes.length → fwRuns s = true → s.firm.mctpOpen < 8 → headLen bytes ≤ 4064 →
      crc32c (bytes.take 28 ++ sub bytes 32 (headLen bytes)) = leNat (sub bytes 28 4) → cmdOf (BitVec.ofNat 16 (leNat (sub bytes 24 2))) = some c →
      exec (.mctpMessage ep bytes) s = done s (takePacket c ⟨.mctp ep, BitVec.ofNat 64 (leNat (sub bytes 0 8)), BitVec.ofNat 64 (leNat (sub bytes 8 8)),
        BitVec.ofNat 32 (leNat (sub bytes 16 4)), BitVec.ofNat 16 (leNat (sub bytes 26 2)), sub bytes 32 (headLen bytes)⟩
        { s with firm := { s.firm with endpoint := ep, mctpOpen := s.firm.mctpOpen + 1 } }))

/-! ### Control registers (R65, R119, R227, R245, R259, R264-R266, R308, R352, R388, R398) -/

/-- Register writes (R65, R119, R160, R161, R189, R227, R245, R259, R264-R266, R308, R352, R388, R398): flags clear where a 1 is written, but
for what was raised in the same cycle, limits go to the nearer end of their range, scrub intervals to at least 64, the window's
base is fixed while it is on. -/
def Obligations.RegisterWritesKeepTheirRanges : Prop :=
  ∀ (s : State) (v : BitVec 64),
    let lo := fun (a n : Nat) => bitsN v.toNat a n
    let limit := fun (a b : Nat) => max a (min b (bitsN v.toNat 0 32))
    (∀ (tile : Fin 64), tile.val < tilesOn s →
      (∀ st, Completes (.cvtFlagsWrite tile st v) s fun t => let x := rd {} (tileAt s tile).cvt (sc st); let y := rd {} (tileAt t tile).cvt (sc st)
        let new := freshOf s tile (sc st)
        y.nonfinite = (x.nonfinite && !v.getLsbD 0 || new.cvt.nonfinite) ∧ y.sat = (x.sat && !v.getLsbD 1 || new.cvt.sat) ∧
        y.underflow = (x.underflow && !v.getLsbD 2 || new.cvt.underflow) ∧ y.poisonIn = (x.poisonIn && !v.getLsbD 3 || new.cvt.poisonIn) ∧
        y.poisonOut = (x.poisonOut && !v.getLsbD 4 || new.cvt.poisonOut) ∧ (v.getLsbD 7 = true → y.tally.toNat = min new.nonfinite 0xFFFFFFFF) ∧
        (tileAt t tile).ctx = (tileAt s tile).ctx) ∧
      (∀ st, Completes (.registerWrite (BitVec.ofNat 48 (0x0F0001000400 + 0x10000 * tile.val + 8 * sc st)) 8 v) s fun t =>
        let x := rd {} (tileAt s tile).ieee (sc st); let y := rd {} (tileAt t tile).ieee (sc st); let new := (freshOf s tile (sc st)).ieee
        y.inexact = (x.inexact && !v.getLsbD 0 || new.inexact) ∧ y.underflow = (x.underflow && !v.getLsbD 1 || new.underflow) ∧
        y.overflow = (x.overflow && !v.getLsbD 2 || new.overflow) ∧ y.divzero = (x.divzero && !v.getLsbD 3 || new.divzero) ∧
        y.invalid = (x.invalid && !v.getLsbD 4 || new.invalid) ∧ y.fxsat = (x.fxsat && !v.getLsbD 5 || new.fxsat)) ∧
      (Completes (.registerWrite (BitVec.ofNat 48 (0x0F0001000018 + 0x10000 * tile.val)) 8 v) s fun t => (tileAt t tile).brkEn = v.getLsbD 0) ∧
      (Completes (.registerWrite (BitVec.ofNat 48 (0x0F0001000020 + 0x10000 * tile.val)) 8 v) s fun t =>
        (tileAt t tile).watchdog = v.setWidth 48) ∧
      (∀ n : Fin 4, v.getLsbD 63 = true → Completes (.arrayLagClear tile n v) s fun t => let y := rd {} (tileAt t tile).phys n.val
        y.a = 0 ∧ y.b = 0 ∧ y.drain = 0 ∧ y.busy = (rd {} (tileAt s tile).phys n.val).busy) ∧
      (Completes (.spScrubWrite tile v) s fun t => (tileAt t tile).scrubEn = v.getLsbD 16 ∧ (tileAt t tile).scrubInterval.toNat = max 64 (lo 0 16))) ∧
    (∀ sl : Fin 16, Completes (.llmScrubWrite sl v) s fun t =>
      (rd {} t.mem.slices sl.val).scrubEn = v.getLsbD 16 ∧ (rd {} t.mem.slices sl.val).scrubInterval.toNat = max 64 (lo 0 16)) ∧
    (Completes (.hbmPrioWrite v) s fun t => t.mem.p0cap.toNat = max 2 (min 20 (lo 16 5)) ∧ t.mem.w1.toNat = max 1 (lo 0 5) ∧
      t.mem.w2.toNat = max 1 (lo 5 5) ∧ t.mem.w3.toNat = max 1 (lo 10 5)) ∧
    (∀ k : Fin 8, Completes (.hbmScrubWrite k v) s fun t =>
      (rd {} t.mem.hbm k.val).scrubEn = v.getLsbD 16 ∧ (rd {} t.mem.hbm k.val).hours.toNat = max 1 (min 168 (lo 0 8))) ∧
    (Completes (.cxlTimeoutWrite v) s fun t => t.mem.cxlTimeout.toNat = limit 100000 100000000) ∧
    (Completes (.fabAckTimeoutWrite v) s fun t => t.fab.ackTimeout.toNat = limit 100000 1000000000) ∧
    (∀ ax : Fin 4, ax.val < axesOn s → Completes (.ceTimeoutWrite ax v) s fun t => (rd {} t.ces ax.val).timeout.toNat = limit 1000000 0xFFFFFFFF) ∧
    (Completes (.hamperRefreshWrite v) s fun t => t.hamper.age.toNat = max 1 (min 60 (lo 0 6))) ∧
    (v.getLsbD 8 = false ∨ linkUp s = false → Completes (.vkxWindowWrite v) s fun t => t.vkx.en = v.getLsbD 8 ∧
      t.vkx.base = (if s.vkx.en then s.vkx.base else v.extractLsb' 16 36) ∧ t.vkx.order.toNat = max 10 (min 20 (lo 0 5)) ∧
      (v.getLsbD 8 = true → t.vkx.tail = 0 ∧ t.vkx.head = 0)) ∧
    (Completes (.vkxTimeoutWrite v) s fun t => t.vkx.timeout.toNat = limit 100000 100000000) ∧
    -- eight bytes at a register's address have the effect of that register's own write, and any other length has none (R259)
    (let at_ := fun (o : Nat) => exec (.registerWrite (BitVec.ofNat 48 (0x0F0000000000 + o)) 8 v) s
     (∀ addr len, len.val ≠ 8 → exec (.registerWrite addr len v) s = .next s) ∧
     at_ 0x908000 = exec (.hbmPrioWrite v) s ∧ at_ 0x910018 = exec (.cxlTimeoutWrite v) s ∧
     at_ 0x920028 = exec (.fabAckTimeoutWrite v) s ∧ at_ 0x980050 = exec (.hamperRefreshWrite v) s ∧
     at_ 0x990000 = exec (.vkxWindowWrite v) s ∧ at_ 0x990038 = exec (.vkxTimeoutWrite v) s ∧
     (∀ sl : Fin 16, at_ (0x800038 + 0x1000 * sl.val) = exec (.llmScrubWrite sl v) s) ∧
     (∀ k : Fin 8, at_ (0x900030 + 0x1000 * k.val) = exec (.hbmScrubWrite k v) s) ∧
     (∀ ax : Fin 4, at_ (0x940068 + 0x1000 * ax.val) = exec (.ceTimeoutWrite ax v) s) ∧
     (∀ tile : Fin 64, at_ (0x1000638 + 0x10000 * tile.val) = exec (.spScrubWrite tile v) s ∧
       (∀ st, at_ (0x1000200 + 0x10000 * tile.val + 8 * sc st) = exec (.cvtFlagsWrite tile st v) s) ∧
       ∀ n : Fin 4, at_ (0x1000350 + 0x10000 * tile.val + 32 * n.val) = exec (.arrayLagClear tile n v) s))

/-- `TILE.SEALSr` (R163) and the `SYNCr` registers of tiles, clusters and the die (R350): where each seal and counter stands, that a tile
without a context reads zero, that a write changes nothing, and that all read zero at reset. -/
def Obligations.SealAndCounterRegisters : Prop :=
  let seals := fun (t r : Nat) => 0x1000000 + 0x10000 * t + 0x1000 + 8 * r
  let tileSync := fun (t r : Nat) => 0x1000000 + 0x10000 * t + 0x700 + 8 * r
  let cluSync := fun (pc r : Nat) => 0x960000 + 0x40 * pc + 8 * r
  let dieSync := fun (r : Nat) => 0x964000 + 8 * r
  let shows := fun (s : State) (o bits n : Nat) (f : Nat → Nat) =>
    (∃ w : BitVec 64, regAt s o = .value w ∧ ∀ k < n, bitsN w.toNat (bits * k) bits = f k) ∧ ∀ v, (regWrite s o v).1 = s
  (∀ (s : State) (t : Nat), t < tilesOn s → ∀ x, x = tileAt s t →
    (∀ r < 64, shows s (seals t r) 4 16 fun k => if x.loaded.isSome then (rd 0 x.ctx.seals (16 * r + k)).toNat else 0) ∧
    (∀ r < 16, shows s (tileSync t r) 16 4 fun k => if x.loaded.isSome then (rd 0 x.ctx.sync (4 * r + k)).toNat else 0)) ∧
  (∀ (s : State), (∀ pc < 128, ∀ r < 8, shows s (cluSync pc r) 16 4 fun k => ctrVal s 1 pc (4 * r + k)) ∧
    ∀ r < 16, shows s (dieSync r) 16 4 fun k => ctrVal s 2 0 (4 * r + k)) ∧
  (∀ t < 64, (∀ r < 64, regAt State.reset (seals t r) = .value 0) ∧ ∀ r < 16, regAt State.reset (tileSync t r) = .value 0) ∧
  (∀ pc < 128, ∀ r < 8, regAt State.reset (cluSync pc r) = .value 0) ∧ ∀ r < 16, regAt State.reset (dieSync r) = .value 0

/-! ### Power, heat and coolant (R443-R454) -/

/-- Sensors, throttling and standby (R445, R446, R449-R451, R453): a demand rises and falls by one step at its thresholds with its event, a
lost flow demands step 4, `STBY.STATUS` reads and clears, a lost supply leaves nothing volatile. -/
def Obligations.PowerAndHeatAreManaged : Prop :=
  ∀ (s : State) (m : Sensors),
    (95 ≤ m.tj.toNat → s.phys.thermalDem.toNat < 4 → Completes (.thermalDemandRise m) s fun t =>
      t.phys.thermalDem.toNat = s.phys.thermalDem.toNat + 1 ∧ t.phys.tj = m.tj ∧ EventRaised s t 0x10 1 (unitPath s 0 0)) ∧
    (m.tj.toNat < 95 → Completes (.thermalDemandRise m) s fun t => t.phys.thermalDem = s.phys.thermalDem ∧ t.phys.tj = m.tj) ∧
    (m.tj.toNat < 90 → 0 < s.phys.thermalDem.toNat → Completes (.thermalDemandFall m) s fun t =>
      t.phys.thermalDem.toNat = s.phys.thermalDem.toNat - 1 ∧ EventRaised s t 0x10 1 (unitPath s 0 0)) ∧
    ((1850 ≤ m.pin10.toNat ∨ 1500 < m.pin100.toNat) → s.phys.powerDem.toNat < 4 → (∀ x ∈ s.phys.powerRise, x + 5000000 ≤ s.time.elapsed) →
      Completes (.powerDemandRise m) s fun t => t.phys.powerDem.toNat = s.phys.powerDem.toNat + 1 ∧
        t.phys.powerRise = some s.time.elapsed ∧ EventRaised s t 0x10 1 (unitPath s 0 0)) ∧
    (∀ x, s.phys.powerRise = some x → s.time.elapsed < x + 5000000 → Completes (.powerDemandRise m) s fun t => t.phys.powerDem = s.phys.powerDem) ∧
    (m.pin10.toNat < 1750 → m.pin100.toNat < 1400 → 0 < s.phys.powerDem.toNat → Completes (.powerDemandFall m) s fun t =>
      t.phys.powerDem.toNat = s.phys.powerDem.toNat - 1 ∧ EventRaised s t 0x10 1 (unitPath s 0 0)) ∧
    (40 < m.inlet.toNat → Completes (.inletOverTemperature m) s fun t => t.phys.inlet = m.inlet ∧ EventRaised s t 0x10 1 (unitPath s 0 0)) ∧
    (s.phys.flowOk = true → s.firm.state ≠ .boot → Completes .flowOkFall s fun t => t.phys.flowOk = false ∧ t.phys.flowDem = 4 ∧
      EventRaised s t 0x10 1 (unitPath s 0 0)) ∧
    (s.phys.flowOk = false → s.firm.state ≠ .boot → Completes .flowOkRise s fun t => t.phys.flowOk = true ∧ t.phys.flowDem = 0 ∧
      EventRaised s t 0x10 1 (unitPath s 0 0)) ∧
    (Completes .stbyStatusRead s fun t => t.out = s.out ++ [.smbus (stbyStatus s)] ∧ (stbyStatus s).getLsbD 0 = s.phys.mainOn ∧
      (stbyStatus s).getLsbD 1 = s.phys.tripThermal ∧ (stbyStatus s).getLsbD 2 = s.phys.tripPower ∧ (stbyStatus s).getLsbD 3 = s.phys.tripFlow ∧
      (stbyStatus s).extractLsb' 28 8 = s.phys.tj ∧ (stbyStatus s).extractLsb' 36 12 = s.phys.pin ∧ (stbyStatus s).extractLsb' 48 16 = s.phys.vin) ∧
    (∀ v : BitVec 64, Completes (.stbyStatusClear v 0) s fun t => t.phys.tripThermal = (s.phys.tripThermal && !v.getLsbD 1) ∧
      t.phys.tripPower = (s.phys.tripPower && !v.getLsbD 2) ∧ t.phys.tripFlow = (s.phys.tripFlow && !v.getLsbD 3)) ∧
    (s.phys.mainOn = false → Completes .standbyConverterStart s fun t => t.phys.tripFlow = false ∧ t.phys.tripPower = false ∧
      t.phys.tripThermal = false ∧ t.phys.p1cause = 0 ∧ t.hamper.gens = s.hamper.gens ∧ (s.firm.writing = none → t.firm.fw0 = s.firm.fw0)) ∧
    (Completes .pwrGoodFall s fun t => t.phys.mainOn = false ∧ t.firm.state = .boot ∧ t.mem.dev = [] ∧ t.prog = none ∧ t.vkx = {})

/-! ### Start-up and resets (R410, R423-R430) -/

/-- Start-up (R410, R423-R426, R435): each phase that succeeds is recorded, the march and the training map their memories, `LINKUP` follows
phase 6; a failing phase records its cause and goes back to the factory firmware. -/
def Obligations.StartUpGoesPhaseByPhase : Prop :=
  ∀ (s : State),
    (s.phys.mainOn = false → s.phys.tripped = false →
      (Completes (.powerOn none) s fun t => t.phys.mainOn = true ∧ t.phys.pwrGood = true ∧ t.firm.phase = 1 ∧ t.firm.held = false) ∧
      (Completes (.powerOn (some .inputRange)) s fun t => t.phys.mainOn = false ∧ t.phys.p1cause = 0x11 ∧ t.firm.held = true) ∧
      (∀ n, Completes (.powerOn (some (.rail n))) s fun t => t.phys.mainOn = false ∧ t.phys.p1cause = 0x12 ∧ t.phys.rail = n)) ∧
    (∀ v : LinkTrain, s.vkx.en = false → s.vkx.waitQ = [] → inPhase s 2 = true → s.firm.fwReady = false → s.firm.mode ≠ 1 →
      fwCheck s s.firm.fw0.bytes ≠ 0 → fwCheck s s.firm.fw1.bytes ≠ 0 → Completes (.firmwareSlotVerify v) s fun t =>
        ∃ d, StartFailed t 2 0x22 d) ∧
    (∀ v : LinkTrain, s.vkx.en = false → s.vkx.waitQ = [] → inPhase s 2 = true → s.firm.fwReady = false → s.firm.mode = 0 → s.phys.flowOk = true →
      fwCheck s s.firm.fw0.bytes = 0 → fwCheck s s.firm.fw1.bytes = 0 → imageVersion s.firm.fw1.bytes ≤ imageVersion s.firm.fw0.bytes →
      Completes (.firmwareSlotVerify v) s fun t => t.firm.state = .selftest ∧ t.firm.phase = 2 ∧ t.firm.fwSlot = false ∧ t.firm.factory = false) ∧
    (inPhase s 3 = true → Completes .configurationLoad s fun t => t.firm.phase = 3 ∧ t.firm.state = s.firm.state) ∧
    (inPhase s 4 = true → (∀ k < 16, (rd {} s.mem.slices k).disabled = 0) → (∀ k < 64, (tileAt s k).unusable = false) → Completes (.startupMarch []) s fun t =>
      t.firm.phase = 4 ∧ t.mem.onchip = true ∧ ∀ k < tilesOn s, ∀ a, rd 0 (tileAt t k).ctx.sp a = 0) ∧
    (inPhase s 5 = true → (Completes (.hbmTraining none []) s fun t => t.firm.phase = 5 ∧ t.mem.offchip = true ∧
        (∀ k < 8, (rd {} t.mem.hbm k).trained = true) ∧ ∀ a < hbmSize, rd 0 t.mem.dev a = 0) ∧
      (∀ k : Fin 8, Completes (.hbmTraining (some k) []) s fun t => StartFailed t 5 0x51 (BitVec.ofNat 64 k.val))) ∧
    (∀ e, inPhase s 6 = true → s.hamper.gens = [] → s.hamper.mirrors = [] → Completes (.journalReplay e true) s fun t =>
      t.firm.phase = 6 ∧ t.firm.state = .linkup ∧ t.hamper.cap = holdupCap e ∧ t.hamper.state = (if holdupCap e < 8 then 4 else 1)) ∧
    (∀ e, inPhase s 6 = true → Completes (.journalReplay e false) s fun t => StartFailed t 6 0x62 0) ∧
    (∀ r, inPhase s 7 = true → Completes (.fabricLinkTraining r) s fun t => t.firm.phase = 7) ∧
    (∀ n, inPhase s n = true → s.firm.fwReady = false → 2 ≤ n → n ≤ 9 → Completes .phaseBoundExceeded s fun t =>
      StartFailed t n 0xF1 (BitVec.ofNat 64 n))

/-- Trips and `RESET_N` (R419, R443, R451, R452): a trip latches its bit, pulls the alert low and turns the main rails off; `RESET_N` holds the
engines, with nothing draining and no group command open. -/
def Obligations.TripsAndResetNStopTheEngines : Prop :=
  ∀ (s : State), s.phys.mainOn = true →
    (s.phys.flowOk = false → s.firm.state ≠ .boot → Completes .flowTrip s fun t =>
      t.phys.tripFlow = true ∧ t.phys.mainOn = false ∧ t.phys.thermtripN = false ∧ smbAlertN t = false) ∧
    (Completes .thermalTrip s fun t => t.phys.tripThermal = true ∧ t.phys.mainOn = false ∧ t.phys.thermtripN = false ∧ smbAlertN t = false) ∧
    (Completes .powerTrip s fun t => t.phys.tripPower = true ∧ t.phys.mainOn = false ∧ t.phys.thermtripN = false ∧ smbAlertN t = false) ∧
    (s.firm.held = false → Completes .resetNAssert s fun t => t.phys.resetN = false ∧ t.firm.held = true ∧
      t.firm.draining = none ∧ t.firm.gathers = [])

/-- Resets (R428-R430): the end of the hold restarts with cause 1, a release after a trip
with cause 6, the management watchdog with cause 7; device memory and the counter outlive a mode 2 reset. -/
def Obligations.ResetsRestartTheModule : Prop :=
  ∀ (s : State),
    (s.phys.mainOn = true → s.firm.held = true → s.firm.holdOver = false →
      (s.phys.resetN = false → Completes .resetHoldExpiry s fun t => t.firm.holdOver = true ∧ t.firm.held = true) ∧
      (s.phys.resetN = true → Completes .resetHoldExpiry s fun t => t.firm.state = .boot ∧ t.firm.resetCause = 1 ∧ t.firm.phase = 1 ∧
        t.firm.held = false ∧ t.prog = none)) ∧
    (s.phys.tripped = false → s.phys.mainOn = true → s.firm.held = true → s.firm.holdOver = true → Completes .resetNRelease s fun t =>
      t.firm.state = .boot ∧ t.firm.resetCause = 1 ∧ t.phys.resetN = true) ∧
    (s.phys.tripped = true → Completes .resetNRelease s fun t =>
      t.firm.resetCause = 6 ∧ t.firm.phase = 0 ∧ t.phys.tripped = false ∧ t.phys.thermtripN = true) ∧
    (s.phys.mainOn = true → s.firm.held = false → 2 ≤ s.firm.phase.toNat → s.prog = none → s.hamper.write = none → s.hamper.mirrorRx = none →
      s.firm.state ≠ .checkpoint → itemsInFlight s = false → extentsInFlight s = false → s.firm.accepted = [] → s.firm.taken = [] →
      s.hamper.arm = none → Completes .managementWatchdog s fun t =>
        t.firm.state = .boot ∧ t.firm.resetCause = 7 ∧ t.firm.mode = 2 ∧ t.firm.phase = 1 ∧ t.mem = s.mem ∧ t.time.fec = s.time.fec)

/-! ### Commands of host software (R401-R412) -/

/-- Every command of R412 by its kind (R401-R404, R412). Kind S acts, answers once with its status, detail, result and data, and leaves a
record of kind 4; the reply itself changes nothing of the machine. Kinds A and E answer `ACCEPTED` and then act, at once or, with an
epoch, from the epoch queue. -/
def Obligations.CommandsAnswerByTheirKind : Prop :=
  ∀ (s : State) (f : Packet → Instr) (c : CmdDef) (p : Packet), Accepts s c p →
    let k := pendOf c p
    (FinalCommand f c →
      let r := c.act (taking s k) p (tgtOf p.path)
      r.1.firm.draining = none →
      Completes (f p) s fun t => Replied r.1 t p.route (replyOf r.1 c p r.2.status r.2.detail r.2.result r.2.data) ∧
        Recorded t p.tag c.op r.2.status ∧ SameMachine r.1 t ∧
        -- only `MEM_WRITE` changes bytes of memory or the program, and few change a tile
        (c.op ≠ 0x0301 → t.mem.dev = s.mem.dev ∧ t.prog = s.prog ∧ ∀ n a, rd 0 (ctxOf t n).sp a = rd 0 (ctxOf s n).sp a) ∧
        (c.op ∉ [0x0206, 0x0207, 0x0300, 0x0301, 0x0801, 0x0906] → t.tiles = s.tiles ∧ t.saved = s.saved)) ∧
    (AcceptedCommand f c →
      let s1 := sendReply (accepted s k) k 1 0 [] [] 0
      Replied s s1 p.route (replyOf s c p 1 0 [] []) ∧ k ∈ s1.firm.accepted ∧ SameMachine s s1 ∧
      (p.fireAt = 0 → exec (f p) s = done s (finishDrain
        (let r := c.act s1 p (tgtOf p.path)
         settle r.1 k r.2))) ∧
      (p.fireAt ≠ 0 → Completes (f p) s fun t => t.time.epochQ = s.time.epochQ ++ [⟨p.fireAt, c.op, p⟩] ∧ k ∈ t.firm.accepted ∧
        Replied s t p.route (replyOf s c p 1 0 [] []) ∧ t.tiles = s.tiles ∧ t.prog = s.prog ∧ t.firm.state = s.firm.state))

/-- The checks of R407 in their order, for every command: a failure is answered with its status and detail, and nothing else happens; a
packet that asks to be checked only (R401) is answered `OK` and does not act. -/
def Obligations.CommandsAreRefusedInOrder : Prop :=
  ∀ (s : State) (f : Packet → Instr) (c : CmdDef) (p : Packet), FinalCommand f c ∨ AcceptedCommand f c ∨ SliceCommand f c →
    fwRuns s = true → s.firm.draining = none → heldLines s (cmdRanges s c p).1 (cmdRanges s c p).2 = [] →
    let answered := fun (st : BitVec 8) (d : Word) (t : State) =>
      Replied s t p.route (replyOf s c p st d [] []) ∧ Recorded t p.tag c.op st ∧ SameMachine s t ∧ t.firm.accepted = s.firm.accepted
    (4064 < p.payload.length ∨ c.len p.payload = false → Completes (f p) s (answered 3 (refusal 20 3))) ∧
    (p.payload.length ≤ 4064 → c.len p.payload = true →
      (∀ d, addressFault s c p = some d → Completes (f p) s (answered 4 d)) ∧
      (addressFault s c p = none → elsewhere s p = false →
        (∀ u, absentUnit s (tgtOf p.path) = some u → Completes (f p) s fun t => Replied s t p.route (replyOf s c p 6 0 [] []) ∧
          Recorded t p.tag c.op 6 ∧ t.firm.state = s.firm.state ∧ t.firm.absent = (countAbsent s u.1 u.2).firm.absent) ∧
        (absentUnit s (tgtOf p.path) = none →
          (∀ d, timeFault s c p = some d → Completes (f p) s (answered 4 d)) ∧
          (timeFault s c p = none → (isGroup (tgtOf p.path) && !anchorActs c) = false →
            (stateFault s c = true → Completes (f p) s (answered 5 (BitVec.ofNat 64 (stateCode s.firm.state)))) ∧
            (∀ x, checkAt s c p (tgtOf p.path) = some x → Completes (f p) s (answered (BitVec.ofNat 8 x.1) x.2)) ∧
            (checkAt s c p (tgtOf p.path) = none → p.flags.getLsbD 0 = true → Completes (f p) s (answered 0 0))))))

/-- The commands of the program and its tiles (R12, R116, R157, R159, R198, R199, R240, R310, R350, R410, R412, R419) write what their rules
name. A packet under this module's own node is its own part of a group command, which the command's one record covers (R21, R27). -/
def Obligations.ProgramCommandsTakeEffect : Prop :=
  ∀ (s : State) (p : Packet),
    let idx := (tgtOf p.path).index
    let ended := fun (t : State) (op : BitVec 16) => p.route ≠ .fabric s.fab.node → Recorded t p.tag op 0
    (Accepts s cmdSyncWrite p → Completes (.syncWrite p) s fun t =>
      ctrVal t (pn p 2 1) (ctrTarget (pn p 2 1) (pn p 0 2)) (pn p 3 1) = pn p 4 2 ∧
      ∀ n, n ≠ pn p 3 1 → ctrVal t (pn p 2 1) (ctrTarget (pn p 2 1) (pn p 0 2)) n =
        ctrVal s (pn p 2 1) (ctrTarget (pn p 2 1) (pn p 0 2)) n) ∧
    (Accepts s cmdCloveWrite p → Completes (.cloveWrite p) s fun t =>
      rd {} (ctxOf t (pn p 0 2)).clove.records (pn p 2 1) =
        setRecWords (rd {} (ctxOf s (pn p 0 2)).clove.records (pn p 2 1)) (pn p 8 8) (pn p 16 8) ∧
      ∀ n, n ≠ pn p 2 1 → rd {} (ctxOf t (pn p 0 2)).clove.records n = rd {} (ctxOf s (pn p 0 2)).clove.records n) ∧
    (Accepts s cmdFaultClear p → Completes (.faultClear p) s fun t =>
      t.firm.state = .loaded ∧ t.firm.ledger = [] ∧ t.prog = s.prog ∧ ended t 0x0103) ∧
    (Accepts s cmdProgStart p → p.fireAt = 0 → Completes (.progStart p) s fun t =>
      (∀ n st, n < progP s → ctxS (ctxOf t n) st = startStream (ctxS (ctxOf s n) st)) ∧ t.prog = s.prog ∧
      (t.firm.state = .running ∨ t.firm.state = .loaded ∧ allEnded t = true) ∧ ended t 0x0201) ∧
    (Accepts s cmdProgPause p → p.fireAt = 0 → (tgtOf p.path).level = lDie → Completes (.progPause p) s fun t =>
      t.firm.pausing = true ∧ pendOf cmdProgPause p ∈ t.firm.accepted ∧ t.firm.state = .running ∧ t.tiles = s.tiles) ∧
    (Accepts s cmdProgPause p → p.fireAt = 0 → (tgtOf p.path).level = lTile → Completes (.progPause p) s fun t =>
      (∀ n ∈ carriedBy s idx, ∀ st, ctxS (ctxOf t n) st = { ctxS (ctxOf s n) st with paused := true }) ∧
      (∀ n, n ∉ carriedBy s idx → ctxOf t n = ctxOf s n) ∧ t.firm.state = .running ∧ ended t 0x0202) ∧
    (Accepts s cmdProgResume p → p.fireAt = 0 → (tgtOf p.path).level = lDie → Completes (.progResume p) s fun t =>
      (∀ n st, n < progP s → ctxS (ctxOf t n) st = { ctxS (ctxOf s n) st with paused := false }) ∧
      (t.firm.state = .running ∨ t.firm.state = .loaded ∧ allEnded t = true) ∧ ended t 0x0203) ∧
    (Accepts s cmdDebugResume p → Completes (.debugResume p) s fun t =>
      (∀ st, (strm t idx st).run = if (strm s idx st).run = .atBreak then .active else (strm s idx st).run) ∧
      ∀ n st, n ≠ idx → strm t n st = strm s n st) ∧
    (Accepts s cmdProgUnload p → s.firm.state = .idle → Completes (.progUnload p) s fun t =>
      t.firm.state = .idle ∧ t.prog = s.prog ∧ t.tiles = s.tiles ∧ ended t 0x0204) ∧
    (Accepts s cmdProgUnload p → s.firm.state ≠ .idle → s.firm.accepted = [] → itemsInFlight s = false → extentsInFlight s = false →
      Completes (.progUnload p) s fun t => t.firm.state = .idle ∧ t.prog = none ∧ t.saved = [] ∧ t.samples = [] ∧ t.trees = [] ∧
        (∀ n, (tileAt t n).loaded = none) ∧ ended t 0x0204) ∧
    (Accepts s cmdArrayUnfence p → Completes (.arrayUnfence p) s fun t =>
      (tileAt t (idx / 4)).fenced = (tileAt s (idx / 4)).fenced &&& ~~~(1#4 <<< (idx % 4)) ∧
      ∀ n, n ≠ idx / 4 → tileAt t n = tileAt s n) ∧
    (Accepts s cmdMarchRun p → Completes (.marchRun p) s fun t =>
      ∀ n < 64, if (pn p 0 8).testBit n then (tileAt t n).march.state = 1 ∧ (tileAt t n).march.mode = BitVec.ofNat 2 (pn p 10 1)
        else (tileAt t n).march = (tileAt s n).march) ∧
    (Accepts s cmdProgLoad p → (tgtOf p.path).level = lDie → payloadFault p = none → (isHost (pn p 0 8) = true → s.vkx.state ≠ 0) →
      Completes (.progLoad p) s fun t => pendOf cmdProgLoad p ∈ t.firm.accepted ∧ t.prog = s.prog ∧ t.firm.state = .idle)

/-- The commands of the module, the fabric, time and the Hamper (R29, R116, R279, R302, R304, R324, R341, R347, R349, R372, R375, R381-R384,
R412, R422, R428, R434) write what their rules name. -/
def Obligations.ModuleCommandsTakeEffect : Prop :=
  ∀ (s : State) (p : Packet),
    let idx := (tgtOf p.path).index
    (Accepts s cmdMemWrite p → pn p 0 8 + (p.payload.length - 8) ≤ hbmSize → s.mem.offchip = true → s.mem.poison = [] → s.mem.ue = [] →
      s.mem.retired = [] → Completes (.memWrite p) s fun t => OnlyBytes s t (pn p 0 8) (p.payload.drop 8) ∧ Recorded t p.tag 0x0301 0) ∧
    (Accepts s cmdMemRead p → pn p 0 8 + pn p 8 4 ≤ hbmSize → s.mem.offchip = true → s.mem.poison = [] → s.mem.ue = [] →
      s.mem.retired = [] → Completes (.memRead p) s fun t =>
        Replied s t p.route (replyOf s cmdMemRead p 0 0 [] (rdBytes s.mem.dev (pn p 0 8) (pn p 8 4))) ∧ t.mem.dev = s.mem.dev) ∧
    (Accepts s cmdGroupDefine p → Completes (.groupDefine p) s fun t =>
      rd [] t.firm.groups (pn p 0 1) = (if pn p 1 1 = 1 then rd [] s.firm.groups (pn p 0 1) else []) ++ pathsAt p 8 ∧
      ∀ g, g ≠ pn p 0 1 → rd [] t.firm.groups g = rd [] s.firm.groups g) ∧
    (Accepts s cmdGroupDelete p → Completes (.groupDelete p) s fun t =>
      rd [] t.firm.groups (pn p 0 1) = [] ∧ ∀ g, g ≠ pn p 0 1 → rd [] t.firm.groups g = rd [] s.firm.groups g) ∧
    (Accepts s cmdConfigRollback p → Completes (.configRollback p) s fun t =>
      flashAt t 0x0110 s.firm.image.toNat = { flashAt s 0x0110 s.firm.image.toNat with retired := true } ∧
      t.firm.image = s.firm.image ∧ t.firm.slath = s.firm.slath) ∧
    (Accepts s cmdTimeSet p → Completes (.timeSet p) s fun t => t.time.given = true ∧
      t.time.fec.toNat = pn p 0 8 * 10 ^ 9 + s.time.fec.toNat % 10 ^ 9) ∧
    (Accepts s cmdTimeCancel p → Completes (.timeCancel p) s fun t =>
      t.time.epochQ = s.time.epochQ.filter fun e => e.p.tag.toNat ≠ pn p 0 4) ∧
    (Accepts s cmdSnapshotAt p → p.fireAt = 0 → Completes (.snapshotAt p) s fun t =>
      ∃ n < 4, (rd {} t.time.snaps n).id.toNat = pn p 0 2 ∧ (rd {} t.time.snaps n).epoch = fec s ∧ (rd {} t.time.snaps n).done = true) ∧
    (Accepts s cmdSliceSet p → p.fireAt = 0 → Completes (.sliceSet p) s fun t =>
      t.fab.slices = declsOf p ∧ t.fab.order = [] ∧ t.fab.quench.dead = []) ∧
    (Accepts s cmdQuench p → Completes (.quench p) s fun t => t.fab.quench.on = true ∧
      t.fab.quench.number = s.fab.quench.number + 1 ∧ t.fab.quench.origin = s.fab.node) ∧
    (Accepts s cmdUnquench p → Completes (.unquench p) s fun t => t.fab.quench.on = false ∧ t.fab.quench.number = s.fab.quench.number) ∧
    (Accepts s cmdCeBind p → Completes (.ceBind p) s fun t =>
      let c := chanAt t idx (pn p 0 1)
      c.bound = true ∧ c.n = ringSize s idx ∧ c.pos = ringPos s idx ∧ c.next = (chanAt s idx (pn p 0 1)).next ∧
      c.plus = (List.range (pn p 1 1)).map (fun j => handleIn (bindWord p j)) ∧
      c.minus = (List.range (pn p 2 1)).map fun j => handleIn (bindWord p (pn p 1 1 + j))) ∧
    (Accepts s cmdCeUnbind p → Completes (.ceUnbind p) s fun t =>
      chanAt t idx (pn p 0 1) = { next := (chanAt s idx (pn p 0 1)).next }) ∧
    (Accepts s cmdPortRetrain p → Completes (.portRetrain p) s fun t =>
      ∀ n ∈ maskPorts p, (portAt t n).state = 2) ∧
    (Accepts s cmdGenPin p → Completes (.genPin p) s fun t =>
      (∀ g, genAt s (genIn p) = some g → genAt t (genIn p) = some { g with pinned := true }) ∧
      ∀ g, mirrorAt s (genIn p) = some g → mirrorAt t (genIn p) = some { g with pinned := true }) ∧
    (Accepts s cmdGenUnpin p → Completes (.genUnpin p) s fun t =>
      (∀ g, genAt s (genIn p) = some g → genAt t (genIn p) = some { g with pinned := false }) ∧
      ∀ g, mirrorAt s (genIn p) = some g → mirrorAt t (genIn p) = some { g with pinned := false }) ∧
    (Accepts s cmdGenDelete p → Completes (.genDelete p) s fun t =>
      genAt t (genIn p) = none ∧ mirrorAt t (genIn p) = none ∧
      ∀ g, g ≠ genIn p → genAt t g = genAt s g ∧ mirrorAt t g = mirrorAt s g) ∧
    (Accepts s cmdHamperExport p → (pn p 4 1 = 0 → s.vkx.state ≠ 0) → Completes (.hamperExport p) s fun t =>
      ∃ j, t.hamper.copyOut = some j ∧ j.gen = genIn p ∧ j.base = pn p 8 8 ∧ j.next = 0 ∧ j.tag = p.tag ∧
        j.host = decide (pn p 4 1 = 0)) ∧
    (Accepts s cmdAttest p → s.vkx.state ≠ 0 → Completes (.attest p) s fun t =>
      ∃ r, rdBytes t.mem.host (pn p 64 8) r.length = r ∧ r = report s (p.payload.take 64)) ∧
    (Accepts s cmdDevReset p → s.firm.resetTag = none → Completes (.devReset p) s fun t =>
      t.firm.resetTag = some (pendOf cmdDevReset p) ∧ (t.firm.state = .boot ∨ t.firm.draining = some .boot)) ∧
    (AcceptsSlice s cmdHamperArm p → p.fireAt = 0 → Completes (.hamperArm p) s fun t =>
      Replied s t p.route (replyOf s cmdHamperArm p 1 0 [] []) ∧ ∃ a, t.hamper.arm = some a ∧ a.tag = p.tag ∧
        a.buddy.toNat = pn p 0 1 ∧ a.mirror = (pn p 1 1).testBit 0 ∧ a.exported = (pn p 1 1).testBit 1 ∧ a.gen = none) ∧
    (AcceptsSlice s cmdHamperDisarm p → (∀ a ∈ s.hamper.arm, a.gen = none) → Completes (.hamperDisarm p) s fun t =>
      t.hamper.arm = none ∧ Recorded t p.tag 0x0701 0) ∧
    (AcceptsSlice s cmdHamperRestore p → Completes (.hamperRestore p) s fun t =>
      Replied s t p.route (replyOf s cmdHamperRestore p 1 0 [] []) ∧ t.firm.state = .restore ∧
      ∃ j, t.hamper.restore = some j ∧ j.gen = genIn p ∧ j.next = 0 ∧ j.tag = p.tag)

/-- The events on which accepted commands complete (R304, R412, R413, R419, R422, R433, R457): a program is loaded or refused, a pause
ends, a copy is made, a flash slot is written, ports are trained, a drain is cut short. A command of this module's own part of a group
leaves no record of its own (R21, R27). -/
def Obligations.LaterEventsCompleteCommands : Prop :=
  ∀ (s : State),
    let ended := fun (t : State) (c : PendCmd) (status : BitVec 8) =>
      c.p.route ≠ .fabric s.fab.node → Recorded t c.p.tag c.opcode status
    (∀ (c : PendCmd) (bs : List Byte), acceptedOf s 0x0200 = some c →
      (isHost (pn c.p 0 8) = true → hostPending s (loadAddr c.p) (loadLen c.p) = false) →
      s.firm.state = .idle → s.firm.draining = none → imageBytes s c.p = (bs, none) →
      let s1 := touchReads hostClass s (loadReads c.p)
      (∀ x, imageRefusal s1 c.p bs = some x → Completes .progLoadDone s fun t =>
        ended t c (BitVec.ofNat 8 x.1) ∧ t.prog = s.prog ∧ t.firm.state = .idle) ∧
      (imageRefusal s1 c.p bs = none → heldLines s1 (loadReads c.p) (loadWrites bs) = [] → (loadImage s1 c.p bs).2.status = 0 →
        Completes .progLoadDone s fun t => t.firm.state = .loaded ∧ t.prog = some (progOf bs (BitVec.ofNat 64 (pn c.p 16 8))) ∧
          ended t c 0 ∧ t.firm.ledger = [] ∧ t.samples = [] ∧ t.dieSync = [] ∧ t.cluster = [])) ∧
    (s.firm.state = .running → s.firm.pausing = true → itemsInFlight s = false → Completes .pauseDrainDone s fun t =>
      t.firm.state = .paused ∧ t.firm.pausing = false ∧ ∀ c ∈ openPauses s, c ∉ t.firm.accepted ∧ ended t c 0) ∧
    (s.firm.state = .running → s.firm.pausing = false ∨ itemsInFlight s = true → Completes .pauseDrainDone s fun t => t = s) ∧
    (∀ (tag : BitVec 32) (c : PendCmd), acceptedTag s 0x0302 tag = some c →
      let src := pn c.p 0 8
      let dst := pn c.p 8 8
      let n := pn c.p 16 8
      src + n ≤ hbmSize → dst + n ≤ hbmSize → src + n ≤ dst ∨ dst + n ≤ src → s.mem.offchip = true → s.mem.poison = [] → s.mem.ue = [] →
      s.mem.retired = [] → heldLines s [(src, n)] [(dst, n)] = [] → s.firm.draining = none →
      Completes (.memCopyDone tag) s fun t => OnlyBytes s t dst (rdBytes s.mem.dev src n) ∧ ended t c 0) ∧
    (∀ (w : PendCmd × Nat × List Byte), s.firm.writing = some w → s.firm.draining = none → Completes .spiNorWriteComplete s fun t =>
      t.firm.writing = none ∧ (flashAt t w.1.opcode w.2.1).bytes = w.2.2 ∧ (flashAt t w.1.opcode w.2.1).retired = false ∧
      ended t w.1 0) ∧
    (∀ (r : List PortTrain) (c : PendCmd), acceptedOf s 0x0407 = some c → s.firm.draining = none → Completes (.portRetrainComplete r) s fun t =>
      (∀ n ∈ maskPorts c.p, ∀ x, (r.find? fun y => decide (y.port.val = n)) = some x →
        (portAt t n).state = if portTrains s x then (if x.failed = 0 then 3 else 4) else 1) ∧
      ended t c 0) ∧
    (s.firm.draining = none → Completes .ledgerDrainTimeout s fun t => t = s) ∧
    (s.firm.draining ≠ none → Completes .ledgerDrainTimeout s fun t =>
      ∀ n, (tileAt t n).dmaQ = [] ∧ (tileAt t n).dmaRun = [] ∧ (tileAt t n).vec.queue = [] ∧ (tileAt t n).vec.started = [])

/-! ### Lanes -/

/-- The integer rows that wrap and the logical rows of the vector unit (R164, R173, R177): lanes 0 to vl - 1 of vd hold the sum, difference,
product, AND, OR and XOR of the lanes of va and vb modulo 2^w; the other lanes of vd and every other register are as before. -/
def Obligations.IntegerLanesWrap : Prop :=
  ∀ (s : State) (tile : Fin 64) (lost : Nat) (it : Item) (q : List Item),
    let v := vword it.w
    let w := fmtWidth v.fmt
    let a := fun k => laneOf (vReg (tileAt s tile).ctx v.va) w k
    let b := fun k => laneOf (vReg (tileAt s tile).ctx v.vb) w k
    let gives := fun (f : Nat → Nat → Nat) => Completes (.vectorStart tile lost .clean) s fun t =>
      (∀ k < v.vl, laneOf (vReg (tileAt t tile).ctx v.vd) w k = f (a k) (b k)) ∧
      (∀ k, v.vl ≤ k → laneOf (vReg (tileAt t tile).ctx v.vd) w k = laneOf (vReg (tileAt s tile).ctx v.vd) w k) ∧
      ∀ n, n ≠ v.vd → vReg (tileAt t tile).ctx n = vReg (tileAt s tile).ctx n
    (tileAt s tile).vec.queue = it :: q → s.firm.held = false →
    vecFault (tileAt s tile).ctx .clean (itemReads it).1 (itemReads it).2 = none →
    v.fmt ∈ intF → v.vl * w ≤ 8192 →
    (it.op = 0x110 → gives fun x y => (x + y) % 2 ^ w) ∧
    (it.op = 0x111 → gives fun x y => (x + (2 ^ w - y)) % 2 ^ w) ∧
    (it.op = 0x114 → gives fun x y => x * y % 2 ^ w) ∧
    (it.op = 0x11C → gives fun x y => x &&& y) ∧
    (it.op = 0x11D → gives fun x y => x ||| y) ∧
    (it.op = 0x11E → gives fun x y => x ^^^ y)

/-! ### The whole machine -/

/-- Every command answers a next state in every state, and so does every step: the spec gives each command an effect, and what does not
fit its wire format is ignored, counted or refused in a reply (R407; log 5). -/
def Obligations.WellFormedCommandsComplete : Prop :=
  (∀ (c : Instr) (s : State), ∃ t, exec c s = .next t) ∧ ∀ s : State, ∃ t, step s = .next t

/-- The grade is set by fuses and cannot be changed in the field (R1): from every state with one of the three grades, every step keeps the
fuses, and with them the enabled tiles, clusters, ports and axis engines that the table of R1 gives each grade. -/
def Obligations.StepKeepsTheGrade : Prop :=
  ∀ s t, GradeLegal s → step s = .next t →
    GradeLegal t ∧ SameFuses s t ∧
    (t.grade = 1 → tilesOn t = 64 ∧ clustersOn t = 16 ∧ portsOn t = 8 ∧ axesOn t = 4) ∧
    (t.grade = 2 → tilesOn t = 56 ∧ clustersOn t = 14 ∧ portsOn t = 8 ∧ axesOn t = 4) ∧
    (t.grade = 3 → tilesOn t = 64 ∧ clustersOn t = 16 ∧ portsOn t = 6 ∧ axesOn t = 3)

/-- The state after reset: the grade legal, no command waiting, the engines held in `BOOT` with the main power off, no program, no
memory mapped, no link up, the clock at zero (R1, R341, R342, R423; the grade and the serial number are the model's choice, log 1). -/
def Obligations.ResetLeavesNothingRunning : Prop :=
  let s := State.reset
  GradeLegal s ∧ s.pending = [] ∧ s.firm.state = .boot ∧ s.prog = none ∧ s.mem.onchip = false ∧ s.mem.offchip = false ∧
    (∀ p, portUp s p = false) ∧ linkUp s = false ∧ s.vkx.en = false ∧ s.time.fec = 0 ∧ s.fab.placed = false ∧ s.fab.slices = [] ∧
    s.fab.quench.on = false ∧ s.hamper.state = 0 ∧ (∀ n, tileAt s n = {}) ∧ (∀ sc tg n, ctrVal s sc tg n = 0) ∧
    (∀ a, regionAt s a = .hole ∨ regionAt s a = .reg) ∧ s.firm.records = [] ∧ s.out = []

/-- Commands run first in, first out, one a step: after as many steps as commands wait the queue is empty, and the
state is that of the commands' effects one after the other; with no command waiting a step is a tick (log 6). -/
def Obligations.QueuedCommandsRunInOrder : Prop :=
  (∀ (cs : List Instr) (s : State), ∃ t, Runs cs.length { s with pending := cs } t ∧ t.pending = []) ∧
  (∀ (c : Instr) (cs : List Instr) (s t u : State), exec c { s with pending := cs } = .next u → Runs cs.length u t →
    Runs (cs.length + 1) { s with pending := c :: cs } t) ∧
  (∀ (s : State), s.pending = [] → step s = .next (tick s) ∧ (tick s).mem = s.mem ∧ (tick s).fab = s.fab ∧ (tick s).firm = s.firm ∧
    s.time.cycle ≤ (tick s).time.cycle)
end

