-- ==== Sys2Proof/Laws/Store.lean ====
section
/-! SUPPORT. The laws of the sparse tables: a read after a write, and the canonical form. -/

namespace Sys2Proof.Machine

variable {α : Type}

theorem rd_delKey_same (d : α) (t : Table α) (k : Nat) : rd d (delKey k t) k = d := by
  induction t with
  | nil => rfl
  | cons e t ih =>
    obtain ⟨k', v⟩ := e
    by_cases h : k = k' <;> simp [delKey, rd, h, ih]
    · subst h; exact ih

theorem rd_delKey_other (d : α) (t : Table α) {k j : Nat} (h : j ≠ k) :
    rd d (delKey k t) j = rd d t j := by
  induction t with
  | nil => rfl
  | cons e t ih =>
    obtain ⟨k', v⟩ := e
    by_cases hk : k = k'
    · subst hk; simp [delKey, rd, h, ih]
    · by_cases hj : j = k' <;> simp [delKey, rd, hk, hj, ih]

theorem rd_insKey_same (d : α) (t : Table α) (k : Nat) (v : α) :
    (∀ e ∈ t, e.1 ≠ k) → rd d (insKey k v t) k = v := by
  induction t with
  | nil => intro _; simp [insKey, rd]
  | cons e t ih =>
    intro hne
    obtain ⟨k', v'⟩ := e
    have hk : k ≠ k' := fun h => hne (k', v') (by simp) h.symm
    by_cases hl : k < k'
    · simp [insKey, rd, hl]
    · simp [insKey, rd, hl, hk]
      exact ih fun e he => hne e (by simp [he])

theorem delKey_ne (t : Table α) (k : Nat) : ∀ e ∈ delKey k t, e.1 ≠ k := by
  induction t with
  | nil => simp [delKey]
  | cons e t ih =>
    obtain ⟨k', v⟩ := e
    by_cases h : k = k'
    · subst h; rw [delKey, if_pos rfl]; exact ih
    · intro e he
      simp [delKey, h] at he
      rcases he with rfl | he
      · exact fun hc => h hc.symm
      · exact ih e he

theorem rd_insKey_other (d : α) (t : Table α) {k j : Nat} (v : α) (h : j ≠ k) :
    rd d (insKey k v t) j = rd d t j := by
  induction t with
  | nil => simp [insKey, rd, h]
  | cons e t ih =>
    obtain ⟨k', v'⟩ := e
    by_cases hl : k < k'
    · simp [insKey, rd, hl, h]
    · by_cases hj : j = k' <;> simp [insKey, rd, hl, hj, ih]

/-- A read after a write to the same key gives the value written. -/
@[simp] theorem rd_wr_same [DecidableEq α] (d : α) (t : Table α) (k : Nat) (v : α) :
    rd d (wr d t k v) k = v := by
  unfold wr
  split
  · next h => rw [rd_delKey_same, h]
  · exact rd_insKey_same d _ k v (delKey_ne t k)

/-- A write leaves every other key alone. -/
theorem rd_wr_other [DecidableEq α] (d : α) (t : Table α) {k j : Nat} (v : α) (h : j ≠ k) :
    rd d (wr d t k v) j = rd d t j := by
  unfold wr
  split
  · exact rd_delKey_other d t h
  · rw [rd_insKey_other d _ v h, rd_delKey_other d t h]

theorem rd_wr [DecidableEq α] (d : α) (t : Table α) (k j : Nat) (v : α) :
    rd d (wr d t k v) j = if j = k then v else rd d t j := by
  by_cases h : j = k
  · subst h; simp
  · simp [h, rd_wr_other d t v h]

theorem wfFrom_weaken [DecidableEq α] (d : α) (t : Table α) {lo lo' : Option Nat}
    (h : ∀ l, lo' = some l → ∃ m, lo = some m ∧ l ≤ m) (hw : wfFrom d lo t = true) :
    wfFrom d lo' t = true := by
  cases t with
  | nil => rfl
  | cons e t =>
    obtain ⟨k, v⟩ := e
    cases lo' with
    | none => simp [wfFrom] at hw ⊢; exact ⟨hw.1.2, hw.2⟩
    | some l =>
      obtain ⟨m, rfl, hm⟩ := h l rfl
      simp [wfFrom] at hw ⊢
      exact ⟨⟨by omega, hw.1.2⟩, hw.2⟩

theorem wfFrom_delKey [DecidableEq α] (d : α) (t : Table α) (k : Nat) (lo : Option Nat)
    (hw : wfFrom d lo t = true) : wfFrom d lo (delKey k t) = true := by
  induction t generalizing lo with
  | nil => rfl
  | cons e t ih =>
    obtain ⟨k', v⟩ := e
    by_cases h : k = k'
    · simp only [delKey, h, if_true]
      subst h
      refine ih lo (wfFrom_weaken d t (lo := some k) ?_ ?_)
      · intro l hl; subst hl
        simp [wfFrom] at hw
        exact ⟨k, rfl, by omega⟩
      · simp [wfFrom] at hw; exact hw.2
    · simp only [delKey, h, if_false]
      simp only [wfFrom, Bool.and_eq_true] at hw ⊢
      exact ⟨hw.1, ih _ hw.2⟩

theorem wfFrom_insKey [DecidableEq α] (d : α) (t : Table α) (k : Nat) (v : α) (lo : Option Nat)
    (hlo : ∀ l, lo = some l → l < k) (hv : v ≠ d) (hk : ∀ e ∈ t, e.1 ≠ k) (hw : wfFrom d lo t = true) :
    wfFrom d lo (insKey k v t) = true := by
  induction t generalizing lo with
  | nil =>
    cases lo with
    | none => simp [insKey, wfFrom, hv]
    | some l => simp [insKey, wfFrom, hv, hlo l rfl]
  | cons e t ih =>
    obtain ⟨k', v'⟩ := e
    have hne : k' ≠ k := hk (k', v') (by simp)
    simp only [wfFrom, Bool.and_eq_true] at hw
    by_cases hl : k < k'
    · simp only [insKey, hl, if_true, wfFrom, Bool.and_eq_true]
      refine ⟨⟨?_, by simp [hv]⟩, ⟨by simpa using hl, hw.1.2⟩, hw.2⟩
      cases lo with
      | none => rfl
      | some l => simpa using hlo l rfl
    · simp only [insKey, hl, if_false, wfFrom, Bool.and_eq_true]
      refine ⟨hw.1, ih (some k') ?_ (fun e he => hk e (by simp [he])) hw.2⟩
      intro l hl'; cases hl'; omega

/-- A write keeps the canonical form. -/
theorem wf_wr [DecidableEq α] (d : α) (t : Table α) (k : Nat) (v : α) (hw : tableWf d t = true) :
    tableWf d (wr d t k v) = true := by
  unfold wr tableWf
  split
  · exact wfFrom_delKey d t k none hw
  · next hv => exact wfFrom_insKey d _ k v none (by simp) hv (delKey_ne t k) (wfFrom_delKey d t k none hw)

/-- An update keeps the canonical form. -/
theorem wf_upd [DecidableEq α] (d : α) (t : Table α) (k : Nat) (f : α → α) (hw : tableWf d t = true) :
    tableWf d (upd d t k f) = true := wf_wr d t k _ hw

/-- Writing bytes keeps the canonical form. -/
theorem wf_wrBytes (t : Table Byte) (a : Nat) (bs : List Byte) (hw : tableWf 0 t = true) :
    tableWf 0 (wrBytes t a bs) = true := by
  induction bs generalizing t a with
  | nil => exact hw
  | cons b bs ih => exact ih _ _ (wf_wr 0 t a b hw)

/-- Outside the bytes written every byte reads as before. -/
theorem rd_wrBytes_other (t : Table Byte) (a : Nat) (bs : List Byte) {j : Nat}
    (h : j < a ∨ a + bs.length ≤ j) : rd 0 (wrBytes t a bs) j = rd 0 t j := by
  induction bs generalizing t a with
  | nil => rfl
  | cons b bs ih =>
    simp only [List.length_cons] at h
    rw [wrBytes, ih _ _ (by omega), rd_wr_other 0 t b (by omega)]

/-- The bytes written read back. -/
theorem rd_wrBytes_same (t : Table Byte) (a : Nat) (bs : List Byte) (i : Nat) (h : i < bs.length) :
    rd 0 (wrBytes t a bs) (a + i) = bs[i] := by
  induction bs generalizing t a i with
  | nil => simp at h
  | cons b bs ih =>
    cases i with
    | zero => rw [wrBytes, rd_wrBytes_other _ _ _ (by omega)]; simp
    | succ n =>
      have := ih (wr 0 t a b) (a + 1) n (by simpa using h)
      rw [wrBytes, show a + (n + 1) = a + 1 + n by omega, this]; rfl

end Sys2Proof.Machine
end

