-- ==== Sys2Proof/Laws/Issue.lean ====
section
/-! SUPPORT. What the passage of time leaves alone, and what the issue of an instruction that is ready comes to. -/

namespace Sys2Proof.Machine

/-! ### Time (R34, R98, R162) -/

theorem rd_map {α β : Type} (d : α) (e : β) (f : α → β) (hd : f d = e) (t : Table α) (k : Nat) :
    rd e (t.map fun x => (x.1, f x.2)) k = f (rd d t k) := by
  induction t with
  | nil => exact hd.symm
  | cons x t ih =>
    obtain ⟨k', v⟩ := x
    by_cases h : k = k' <;> simp [rd, h, ih]

theorem runUnits_keeps {α : Type} (g : Tile → α) (hg : ∀ x t, g (stepUnits x t) = g t) (x n : Nat) (t : Tile) :
    g (runUnits x n t) = g t := by
  induction n generalizing x t with
  | zero => rfl
  | succ n ih =>
    simp only [runUnits]
    split
    · rw [ih, hg]
    · rfl

theorem foldl_keeps {α β γ : Type} (g : α → γ) (f : α → β → α) (hf : ∀ a b, g (f a b) = g a) (l : List β) (a : α) :
    g (l.foldl f a) = g a := by
  induction l generalizing a with
  | nil => rfl
  | cons b l ih => simp [ih, hf]

/-- What the units of a tile do leaves its context, its buffers and its fenced mode alone. -/
theorem stepUnits_keeps {α : Type} (g : Tile → α)
    (hg : ∀ (t : Tile) a p c v, g { t with arrays := a, phys := p, conflict := c, vec := v } = g t) (x : Nat) (t : Tile) :
    g (stepUnits x t) = g t := by
  unfold stepUnits
  dsimp only
  rw [show ∀ (t : Tile) v, g { t with vec := v } = g t from fun t v => hg t t.arrays t.phys t.conflict v]
  refine foldl_keeps g _ (fun a b => ?_) _ t
  split
  · rfl
  · exact hg a _ _ _ a.vec

@[simp] theorem stepUnits_ctx (x : Nat) (t : Tile) : (stepUnits x t).ctx = t.ctx := stepUnits_keeps (·.ctx) (fun _ _ _ _ _ => rfl) x t
@[simp] theorem stepUnits_loaded (x : Nat) (t : Tile) : (stepUnits x t).loaded = t.loaded :=
  stepUnits_keeps (·.loaded) (fun _ _ _ _ _ => rfl) x t
@[simp] theorem stepUnits_ibuf (x : Nat) (t : Tile) : (stepUnits x t).ibuf = t.ibuf := stepUnits_keeps (·.ibuf) (fun _ _ _ _ _ => rfl) x t
@[simp] theorem stepUnits_fencedMode (x : Nat) (t : Tile) : (stepUnits x t).fencedMode = t.fencedMode :=
  stepUnits_keeps (·.fencedMode) (fun _ _ _ _ _ => rfl) x t
@[simp] theorem runUnits_ctx (x n : Nat) (t : Tile) : (runUnits x n t).ctx = t.ctx := runUnits_keeps (·.ctx) stepUnits_ctx x n t
@[simp] theorem runUnits_loaded (x n : Nat) (t : Tile) : (runUnits x n t).loaded = t.loaded :=
  runUnits_keeps (·.loaded) stepUnits_loaded x n t
@[simp] theorem runUnits_ibuf (x n : Nat) (t : Tile) : (runUnits x n t).ibuf = t.ibuf := runUnits_keeps (·.ibuf) stepUnits_ibuf x n t
@[simp] theorem runUnits_fencedMode (x n : Nat) (t : Tile) : (runUnits x n t).fencedMode = t.fencedMode :=
  runUnits_keeps (·.fencedMode) stepUnits_fencedMode x n t

theorem runUnits_empty (x n : Nat) : runUnits x n ({} : Tile) = {} := by
  cases n <;> rfl

/-- Time gives a tile's context nothing but the counts of its waits. -/
theorem tickTile_keeps (s : State) (d : Nat) (t : Tile) :
    (tickTile s d t).loaded = t.loaded ∧ (tickTile s d t).ibuf = t.ibuf ∧ (tickTile s d t).fencedMode = t.fencedMode ∧
      ((tickTile s d t).ctx = t.ctx ∨
        (tickTile s d t).ctx = { t.ctx with f := tickWait d t.ctx.f, b := tickWait d t.ctx.b, u := tickWait d t.ctx.u }) := by
  unfold tickTile
  dsimp only
  split
  · simp
  · unfold tickWaits
    split
    · simp [tickRun]
    · simp

theorem tickTile_empty (s : State) (d : Nat) : tickTile s d ({} : Tile) = {} := by
  unfold tickTile
  rw [runUnits_empty]
  rfl

@[simp] theorem tileAt_advance (s : State) (d n : Nat) : tileAt (advance s d) n = tickTile s d (tileAt s n) :=
  rd_map ({} : Tile) ({} : Tile) (tickTile s d) (tickTile_empty s d) s.tiles n

/-- A stream after time has passed: at most the count of its wait has grown. -/
theorem strm_advance (s : State) (d n : Nat) (q : Stream) :
    strm (advance s d) n q = strm s n q ∨ strm (advance s d) n q = tickWait d (strm s n q) := by
  unfold strm
  rw [tileAt_advance]
  rcases (tickTile_keeps s d (tileAt s n)).2.2.2 with h | h
  · left; rw [h]
  · right; rw [h]; cases q <;> rfl

/-- Time changes the clocks, the count of throttled time and the tiles, and nothing else. -/
theorem advance_mem (s : State) (d : Nat) : (advance s d).mem = s.mem := rfl
theorem advance_firm (s : State) (d : Nat) : (advance s d).firm = s.firm := rfl
theorem toCycle_mem (s : State) (c : Nat) : (toCycle s c).mem = s.mem := by unfold toCycle; split <;> rfl
theorem toCycle_firm (s : State) (c : Nat) : (toCycle s c).firm = s.firm := by unfold toCycle; split <;> rfl

/-! ### Page uses (R149) -/

theorem tileAt_pruneUses (s : State) (n : Nat) : ∃ us, tileAt (pruneUses s) n = { tileAt s n with pages := us } :=
  ⟨_, rd_map ({} : Tile) ({} : Tile) (fun t : Tile => { t with pages := t.pages.filter fun u =>
    match u.until_ with | none => true | some c => decide (s.time.cycle < c) }) rfl s.tiles n⟩

/-! ### Before an issue -/

/-- What a stream's readiness looks at, before the instruction issues. -/
theorem beforeIssue_tile (s : State) (i : Issue) (n : Nat) :
    (tileAt (beforeIssue s i) n).loaded = (tileAt s n).loaded ∧ (tileAt (beforeIssue s i) n).ibuf = (tileAt s n).ibuf ∧
      (tileAt (beforeIssue s i) n).fencedMode = (tileAt s n).fencedMode := by
  obtain ⟨us, h⟩ := tileAt_pruneUses (toCycle s (slotOf s i)) n
  rw [beforeIssue, h]
  unfold toCycle
  split
  · simp
  · have k := tickTile_keeps s (slotOf s i - s.time.cycle) (tileAt s n)
    simp [k.1, k.2.1, k.2.2.1]

theorem beforeIssue_strm (s : State) (i : Issue) (n : Nat) (q : Stream) :
    strm (beforeIssue s i) n q = strm s n q ∨ ∃ d, strm (beforeIssue s i) n q = tickWait d (strm s n q) := by
  obtain ⟨us, h⟩ := tileAt_pruneUses (toCycle s (slotOf s i)) n
  have hs : strm (beforeIssue s i) n q = strm (toCycle s (slotOf s i)) n q := by
    unfold strm; rw [beforeIssue, h]
  rw [hs]
  unfold toCycle
  split
  · exact .inl rfl
  · rcases strm_advance s (slotOf s i - s.time.cycle) n q with h | h
    · exact .inl h
    · exact .inr ⟨_, h⟩

theorem tickWait_pc (d : Nat) (x : StreamCtx) : (tickWait d x).pc = x.pc := by unfold tickWait; split <;> rfl
theorem tickWait_run (d : Nat) (x : StreamCtx) : (tickWait d x).run = x.run := by unfold tickWait; split <;> rfl
theorem tickWait_paused (d : Nat) (x : StreamCtx) : (tickWait d x).paused = x.paused := by unfold tickWait; split <;> rfl
/-- Does a head that waits, or does not, come to issue? -/
def headIssues : Option Waiting → Bool
  | none => true
  | some w => w.kind == .interlock

theorem canIssue_eq (s : State) (n : Nat) (q : Stream) :
    canIssue s n q = (goesOn s && (tileAt s n).loaded.isSome && (strm s n q).run == .active && !(strm s n q).paused &&
      headIssues (strm s n q).wait) := by
  show (_ && _ && _ && _ && _) = _
  cases (strm s n q).wait <;> rfl

theorem tickWait_mayIssue (d : Nat) (x : StreamCtx) : headIssues (tickWait d x).wait = headIssues x.wait := by
  unfold tickWait
  split
  · cases h : x.wait <;> simp [headIssues]
  · rfl

theorem beforeIssue_pc (s : State) (i : Issue) (n : Nat) (q : Stream) : (strm (beforeIssue s i) n q).pc = (strm s n q).pc := by
  rcases beforeIssue_strm s i n q with h | ⟨d, h⟩ <;> rw [h]
  exact tickWait_pc d _

theorem beforeIssue_firm (s : State) (i : Issue) : (beforeIssue s i).firm = s.firm := toCycle_firm s _
theorem beforeIssue_mem (s : State) (i : Issue) : (beforeIssue s i).mem = s.mem := toCycle_mem s _

/-- A head that may issue still may when its cycle has come. -/
theorem canIssue_beforeIssue (s : State) (i : Issue) (n : Nat) (q : Stream) :
    canIssue (beforeIssue s i) n q = canIssue s n q := by
  simp only [canIssue_eq, goesOn, beforeIssue_firm, (beforeIssue_tile s i n).1]
  rcases beforeIssue_strm s i n q with h | ⟨d, h⟩
  · rw [h]
  · rw [h, tickWait_run, tickWait_paused, tickWait_mayIssue]

theorem regionAt_mem (s t : State) (h : t.mem = s.mem) (a : Nat) : regionAt t a = regionAt s a := by
  cases s; cases t; cases h; rfl

/-! ### The issue of an instruction that is ready -/

/-- Readiness as a test that evaluates. -/
def readyB (s : State) (i : Issue) (word : BitVec 256) : Bool :=
  let pc := (strm s i.tile i.stream).pc
  canIssue s i.tile i.stream && codeAddr s pc.toNat &&
    (match lineOf s i.tile i.stream pc with | some l => !l.bad && wordIn l pc == word | none => false) &&
    !word.getLsbD 245 && !(tileAt s i.tile).fencedMode && (dueItem (beforeIssue s i) (i.tile.val / 4 * 4)).isNone &&
    (dueItem (beforeIssue s i) i.tile.val).isNone

theorem ready_of_check {s : State} {i : Issue} {word : BitVec 256} (h : readyB s i word = true) : Ready s i word := by
  simp only [readyB, Bool.and_eq_true, Bool.not_eq_true', Option.isNone_iff_eq_none] at h
  obtain ⟨⟨⟨⟨⟨⟨h1, h2⟩, h3⟩, h4⟩, h5⟩, h6⟩, h7⟩ := h
  refine ⟨h1, h2, ?_, h4, h5, h6, h7⟩
  split at h3
  · next l hl => simp only [Bool.and_eq_true, Bool.not_eq_true', beq_iff_eq] at h3; exact ⟨l, hl, h3⟩
  · cases h3

/-- Nothing of a tile ends in the cycle, so that the state before the checks is the one after the uses that are over have left. -/
theorem settleItems_quiet (s : State) (t : Nat) (h1 : dueItem (pruneUses s) (t / 4 * 4) = none) (h2 : dueItem (pruneUses s) t = none) :
    settleItems s t = pruneUses s := by
  unfold settleItems
  simp only [settleN, h1]
  split
  · rfl
  · simp [h2]

theorem firstBad_cons_good (c : Check) (cs : List Check) (h : c.bad = false) : firstBad (c :: cs) = firstBad cs := by
  simp [firstBad, h]

/-- An instruction whose head is ready and whose checks pass takes effect at its issue. -/
theorem issueWord_ready (s : State) (i : Issue) (word : BitVec 256) (busy : State → Bool) (checks : State → List Check)
    (eff : State → State) (h : Ready s i word) (hc : firstBad (checks (beforeIssue s i)) = none) :
    issueWord s i word busy checks eff = eff (atIssue s i) := by
  obtain ⟨l, hl, hb, hw⟩ := h.fetched
  have hset : settleItems (toCycle s (slotOf s i)) i.tile = beforeIssue s i :=
    settleItems_quiet _ _ h.quiet.1 h.quiet.2
  have hcode : codeAddr (beforeIssue s i) (strm s i.tile i.stream).pc.toNat = true := by
    rw [← h.code]; simp only [codeAddr, regionAt_mem s _ (beforeIssue_mem s i)]
  have hline : lineOf (beforeIssue s i) i.tile i.stream (strm s i.tile i.stream).pc = some l := by
    rw [← hl]; simp only [lineOf, (beforeIssue_tile s i i.tile).2.1]
  have hfb : firstBad (ckBrk (beforeIssue s i) i word :: checks (beforeIssue s i)) = none := by
    rw [← hc]; exact firstBad_cons_good _ _ (by simp only [ckBrk, h.noBreak, Bool.false_and])
  have hf : (tileAt (beforeIssue s i) i.tile).fencedMode = false := by
    rw [(beforeIssue_tile s i i.tile).2.2]; exact h.plain
  simp only [issueWord, h.may, hset, canIssue_beforeIssue, beforeIssue_pc, hcode, hline, hb, hw, issueChecked, hfb, hf, atIssue]
  simp

/-- An instruction whose head is ready and whose first failing check is `c` halts its tile. -/
theorem issueWord_halts (s : State) (i : Issue) (word : BitVec 256) (busy : State → Bool) (checks : State → List Check)
    (eff : State → State) (c : Check) (h : Ready s i word) (hc : firstBad (checks (beforeIssue s i)) = some c) (ho : c.order ≠ 1) :
    issueWord s i word busy checks eff =
      halt (noteStop (beforeIssue s i) i.tile c) i.tile i.stream (strm s i.tile i.stream).pc c.reason c.detail := by
  obtain ⟨l, hl, hb, hw⟩ := h.fetched
  have hset : settleItems (toCycle s (slotOf s i)) i.tile = beforeIssue s i :=
    settleItems_quiet _ _ h.quiet.1 h.quiet.2
  have hcode : codeAddr (beforeIssue s i) (strm s i.tile i.stream).pc.toNat = true := by
    rw [← h.code]; simp only [codeAddr, regionAt_mem s _ (beforeIssue_mem s i)]
  have hline : lineOf (beforeIssue s i) i.tile i.stream (strm s i.tile i.stream).pc = some l := by
    rw [← hl]; simp only [lineOf, (beforeIssue_tile s i i.tile).2.1]
  have hfb : firstBad (ckBrk (beforeIssue s i) i word :: checks (beforeIssue s i)) = some c := by
    rw [← hc]; exact firstBad_cons_good _ _ (by simp only [ckBrk, h.noBreak, Bool.false_and])
  have hf : (tileAt (beforeIssue s i) i.tile).fencedMode = false := by
    rw [(beforeIssue_tile s i i.tile).2.2]; exact h.plain
  simp only [issueWord, h.may, hset, canIssue_beforeIssue, beforeIssue_pc, hcode, hline, hb, hw, issueChecked, hfb, hf, ho]
  simp [beforeIssue_pc]

end Sys2Proof.Machine
end

