-- ==== Sys2Proof/Laws/State.lean ====
section
/-! SUPPORT. The fields of the state that each update of it leaves alone, true by unfolding. -/

namespace Sys2Proof.Machine

/-! `putTile` -/

@[simp] theorem putTile_pending (s : State) (t : Nat) (x : Tile) : (putTile s t x).pending = s.pending := rfl
@[simp] theorem putTile_grade (s : State) (t : Nat) (x : Tile) : (putTile s t x).grade = s.grade := rfl
@[simp] theorem putTile_serial (s : State) (t : Nat) (x : Tile) : (putTile s t x).serial = s.serial := rfl
@[simp] theorem putTile_trust (s : State) (t : Nat) (x : Tile) : (putTile s t x).trust = s.trust := rfl
@[simp] theorem putTile_factoryBad (s : State) (t : Nat) (x : Tile) : (putTile s t x).factoryBad = s.factoryBad := rfl
@[simp] theorem putTile_time (s : State) (t : Nat) (x : Tile) : (putTile s t x).time = s.time := rfl
@[simp] theorem putTile_firm (s : State) (t : Nat) (x : Tile) : (putTile s t x).firm = s.firm := rfl
@[simp] theorem putTile_saved (s : State) (t : Nat) (x : Tile) : (putTile s t x).saved = s.saved := rfl
@[simp] theorem putTile_slots (s : State) (t : Nat) (x : Tile) : (putTile s t x).slots = s.slots := rfl
@[simp] theorem putTile_prog (s : State) (t : Nat) (x : Tile) : (putTile s t x).prog = s.prog := rfl
@[simp] theorem putTile_cluster (s : State) (t : Nat) (x : Tile) : (putTile s t x).cluster = s.cluster := rfl
@[simp] theorem putTile_dieSync (s : State) (t : Nat) (x : Tile) : (putTile s t x).dieSync = s.dieSync := rfl
@[simp] theorem putTile_samples (s : State) (t : Nat) (x : Tile) : (putTile s t x).samples = s.samples := rfl
@[simp] theorem putTile_closed (s : State) (t : Nat) (x : Tile) : (putTile s t x).closed = s.closed := rfl
@[simp] theorem putTile_ovfLog (s : State) (t : Nat) (x : Tile) : (putTile s t x).ovfLog = s.ovfLog := rfl
@[simp] theorem putTile_ovfOver (s : State) (t : Nat) (x : Tile) : (putTile s t x).ovfOver = s.ovfOver := rfl
@[simp] theorem putTile_ovfSat (s : State) (t : Nat) (x : Tile) : (putTile s t x).ovfSat = s.ovfSat := rfl
@[simp] theorem putTile_normStep (s : State) (t : Nat) (x : Tile) : (putTile s t x).normStep = s.normStep := rfl
@[simp] theorem putTile_trees (s : State) (t : Nat) (x : Tile) : (putTile s t x).trees = s.trees := rfl
@[simp] theorem putTile_mem (s : State) (t : Nat) (x : Tile) : (putTile s t x).mem = s.mem := rfl
@[simp] theorem putTile_fab (s : State) (t : Nat) (x : Tile) : (putTile s t x).fab = s.fab := rfl
@[simp] theorem putTile_ces (s : State) (t : Nat) (x : Tile) : (putTile s t x).ces = s.ces := rfl
@[simp] theorem putTile_hamper (s : State) (t : Nat) (x : Tile) : (putTile s t x).hamper = s.hamper := rfl
@[simp] theorem putTile_vkx (s : State) (t : Nat) (x : Tile) : (putTile s t x).vkx = s.vkx := rfl
@[simp] theorem putTile_phys (s : State) (t : Nat) (x : Tile) : (putTile s t x).phys = s.phys := rfl
@[simp] theorem putTile_out (s : State) (t : Nat) (x : Tile) : (putTile s t x).out = s.out := rfl
@[simp] theorem putTile_free (s : State) (t : Nat) (x : Tile) : (putTile s t x).free = s.free := rfl

/-! `modTile` -/

@[simp] theorem modTile_pending (s : State) (t : Nat) (f : Tile → Tile) : (modTile s t f).pending = s.pending := rfl
@[simp] theorem modTile_grade (s : State) (t : Nat) (f : Tile → Tile) : (modTile s t f).grade = s.grade := rfl
@[simp] theorem modTile_serial (s : State) (t : Nat) (f : Tile → Tile) : (modTile s t f).serial = s.serial := rfl
@[simp] theorem modTile_trust (s : State) (t : Nat) (f : Tile → Tile) : (modTile s t f).trust = s.trust := rfl
@[simp] theorem modTile_factoryBad (s : State) (t : Nat) (f : Tile → Tile) : (modTile s t f).factoryBad = s.factoryBad := rfl
@[simp] theorem modTile_time (s : State) (t : Nat) (f : Tile → Tile) : (modTile s t f).time = s.time := rfl
@[simp] theorem modTile_firm (s : State) (t : Nat) (f : Tile → Tile) : (modTile s t f).firm = s.firm := rfl
@[simp] theorem modTile_saved (s : State) (t : Nat) (f : Tile → Tile) : (modTile s t f).saved = s.saved := rfl
@[simp] theorem modTile_slots (s : State) (t : Nat) (f : Tile → Tile) : (modTile s t f).slots = s.slots := rfl
@[simp] theorem modTile_prog (s : State) (t : Nat) (f : Tile → Tile) : (modTile s t f).prog = s.prog := rfl
@[simp] theorem modTile_cluster (s : State) (t : Nat) (f : Tile → Tile) : (modTile s t f).cluster = s.cluster := rfl
@[simp] theorem modTile_dieSync (s : State) (t : Nat) (f : Tile → Tile) : (modTile s t f).dieSync = s.dieSync := rfl
@[simp] theorem modTile_samples (s : State) (t : Nat) (f : Tile → Tile) : (modTile s t f).samples = s.samples := rfl
@[simp] theorem modTile_closed (s : State) (t : Nat) (f : Tile → Tile) : (modTile s t f).closed = s.closed := rfl
@[simp] theorem modTile_ovfLog (s : State) (t : Nat) (f : Tile → Tile) : (modTile s t f).ovfLog = s.ovfLog := rfl
@[simp] theorem modTile_ovfOver (s : State) (t : Nat) (f : Tile → Tile) : (modTile s t f).ovfOver = s.ovfOver := rfl
@[simp] theorem modTile_ovfSat (s : State) (t : Nat) (f : Tile → Tile) : (modTile s t f).ovfSat = s.ovfSat := rfl
@[simp] theorem modTile_normStep (s : State) (t : Nat) (f : Tile → Tile) : (modTile s t f).normStep = s.normStep := rfl
@[simp] theorem modTile_trees (s : State) (t : Nat) (f : Tile → Tile) : (modTile s t f).trees = s.trees := rfl
@[simp] theorem modTile_mem (s : State) (t : Nat) (f : Tile → Tile) : (modTile s t f).mem = s.mem := rfl
@[simp] theorem modTile_fab (s : State) (t : Nat) (f : Tile → Tile) : (modTile s t f).fab = s.fab := rfl
@[simp] theorem modTile_ces (s : State) (t : Nat) (f : Tile → Tile) : (modTile s t f).ces = s.ces := rfl
@[simp] theorem modTile_hamper (s : State) (t : Nat) (f : Tile → Tile) : (modTile s t f).hamper = s.hamper := rfl
@[simp] theorem modTile_vkx (s : State) (t : Nat) (f : Tile → Tile) : (modTile s t f).vkx = s.vkx := rfl
@[simp] theorem modTile_phys (s : State) (t : Nat) (f : Tile → Tile) : (modTile s t f).phys = s.phys := rfl
@[simp] theorem modTile_out (s : State) (t : Nat) (f : Tile → Tile) : (modTile s t f).out = s.out := rfl
@[simp] theorem modTile_free (s : State) (t : Nat) (f : Tile → Tile) : (modTile s t f).free = s.free := rfl

/-! `modCtx` -/

@[simp] theorem modCtx_pending (s : State) (t : Nat) (f : Context → Context) : (modCtx s t f).pending = s.pending := rfl
@[simp] theorem modCtx_grade (s : State) (t : Nat) (f : Context → Context) : (modCtx s t f).grade = s.grade := rfl
@[simp] theorem modCtx_serial (s : State) (t : Nat) (f : Context → Context) : (modCtx s t f).serial = s.serial := rfl
@[simp] theorem modCtx_trust (s : State) (t : Nat) (f : Context → Context) : (modCtx s t f).trust = s.trust := rfl
@[simp] theorem modCtx_factoryBad (s : State) (t : Nat) (f : Context → Context) : (modCtx s t f).factoryBad = s.factoryBad := rfl
@[simp] theorem modCtx_time (s : State) (t : Nat) (f : Context → Context) : (modCtx s t f).time = s.time := rfl
@[simp] theorem modCtx_firm (s : State) (t : Nat) (f : Context → Context) : (modCtx s t f).firm = s.firm := rfl
@[simp] theorem modCtx_saved (s : State) (t : Nat) (f : Context → Context) : (modCtx s t f).saved = s.saved := rfl
@[simp] theorem modCtx_slots (s : State) (t : Nat) (f : Context → Context) : (modCtx s t f).slots = s.slots := rfl
@[simp] theorem modCtx_prog (s : State) (t : Nat) (f : Context → Context) : (modCtx s t f).prog = s.prog := rfl
@[simp] theorem modCtx_cluster (s : State) (t : Nat) (f : Context → Context) : (modCtx s t f).cluster = s.cluster := rfl
@[simp] theorem modCtx_dieSync (s : State) (t : Nat) (f : Context → Context) : (modCtx s t f).dieSync = s.dieSync := rfl
@[simp] theorem modCtx_samples (s : State) (t : Nat) (f : Context → Context) : (modCtx s t f).samples = s.samples := rfl
@[simp] theorem modCtx_closed (s : State) (t : Nat) (f : Context → Context) : (modCtx s t f).closed = s.closed := rfl
@[simp] theorem modCtx_ovfLog (s : State) (t : Nat) (f : Context → Context) : (modCtx s t f).ovfLog = s.ovfLog := rfl
@[simp] theorem modCtx_ovfOver (s : State) (t : Nat) (f : Context → Context) : (modCtx s t f).ovfOver = s.ovfOver := rfl
@[simp] theorem modCtx_ovfSat (s : State) (t : Nat) (f : Context → Context) : (modCtx s t f).ovfSat = s.ovfSat := rfl
@[simp] theorem modCtx_normStep (s : State) (t : Nat) (f : Context → Context) : (modCtx s t f).normStep = s.normStep := rfl
@[simp] theorem modCtx_trees (s : State) (t : Nat) (f : Context → Context) : (modCtx s t f).trees = s.trees := rfl
@[simp] theorem modCtx_mem (s : State) (t : Nat) (f : Context → Context) : (modCtx s t f).mem = s.mem := rfl
@[simp] theorem modCtx_fab (s : State) (t : Nat) (f : Context → Context) : (modCtx s t f).fab = s.fab := rfl
@[simp] theorem modCtx_ces (s : State) (t : Nat) (f : Context → Context) : (modCtx s t f).ces = s.ces := rfl
@[simp] theorem modCtx_hamper (s : State) (t : Nat) (f : Context → Context) : (modCtx s t f).hamper = s.hamper := rfl
@[simp] theorem modCtx_vkx (s : State) (t : Nat) (f : Context → Context) : (modCtx s t f).vkx = s.vkx := rfl
@[simp] theorem modCtx_phys (s : State) (t : Nat) (f : Context → Context) : (modCtx s t f).phys = s.phys := rfl
@[simp] theorem modCtx_out (s : State) (t : Nat) (f : Context → Context) : (modCtx s t f).out = s.out := rfl
@[simp] theorem modCtx_free (s : State) (t : Nat) (f : Context → Context) : (modCtx s t f).free = s.free := rfl

/-! `modStrm` -/

@[simp] theorem modStrm_pending (s : State) (t : Nat) (st : Stream) (f : StreamCtx → StreamCtx) :
    (modStrm s t st f).pending = s.pending := rfl
@[simp] theorem modStrm_grade (s : State) (t : Nat) (st : Stream) (f : StreamCtx → StreamCtx) : (modStrm s t st f).grade = s.grade := rfl
@[simp] theorem modStrm_serial (s : State) (t : Nat) (st : Stream) (f : StreamCtx → StreamCtx) : (modStrm s t st f).serial = s.serial := rfl
@[simp] theorem modStrm_trust (s : State) (t : Nat) (st : Stream) (f : StreamCtx → StreamCtx) : (modStrm s t st f).trust = s.trust := rfl
@[simp] theorem modStrm_factoryBad (s : State) (t : Nat) (st : Stream) (f : StreamCtx → StreamCtx) :
    (modStrm s t st f).factoryBad = s.factoryBad := rfl
@[simp] theorem modStrm_time (s : State) (t : Nat) (st : Stream) (f : StreamCtx → StreamCtx) : (modStrm s t st f).time = s.time := rfl
@[simp] theorem modStrm_firm (s : State) (t : Nat) (st : Stream) (f : StreamCtx → StreamCtx) : (modStrm s t st f).firm = s.firm := rfl
@[simp] theorem modStrm_saved (s : State) (t : Nat) (st : Stream) (f : StreamCtx → StreamCtx) : (modStrm s t st f).saved = s.saved := rfl
@[simp] theorem modStrm_slots (s : State) (t : Nat) (st : Stream) (f : StreamCtx → StreamCtx) : (modStrm s t st f).slots = s.slots := rfl
@[simp] theorem modStrm_prog (s : State) (t : Nat) (st : Stream) (f : StreamCtx → StreamCtx) : (modStrm s t st f).prog = s.prog := rfl
@[simp] theorem modStrm_cluster (s : State) (t : Nat) (st : Stream) (f : StreamCtx → StreamCtx) :
    (modStrm s t st f).cluster = s.cluster := rfl
@[simp] theorem modStrm_dieSync (s : State) (t : Nat) (st : Stream) (f : StreamCtx → StreamCtx) :
    (modStrm s t st f).dieSync = s.dieSync := rfl
@[simp] theorem modStrm_samples (s : State) (t : Nat) (st : Stream) (f : StreamCtx → StreamCtx) :
    (modStrm s t st f).samples = s.samples := rfl
@[simp] theorem modStrm_closed (s : State) (t : Nat) (st : Stream) (f : StreamCtx → StreamCtx) : (modStrm s t st f).closed = s.closed := rfl
@[simp] theorem modStrm_ovfLog (s : State) (t : Nat) (st : Stream) (f : StreamCtx → StreamCtx) : (modStrm s t st f).ovfLog = s.ovfLog := rfl
@[simp] theorem modStrm_ovfOver (s : State) (t : Nat) (st : Stream) (f : StreamCtx → StreamCtx) :
    (modStrm s t st f).ovfOver = s.ovfOver := rfl
@[simp] theorem modStrm_ovfSat (s : State) (t : Nat) (st : Stream) (f : StreamCtx → StreamCtx) : (modStrm s t st f).ovfSat = s.ovfSat := rfl
@[simp] theorem modStrm_normStep (s : State) (t : Nat) (st : Stream) (f : StreamCtx → StreamCtx) :
    (modStrm s t st f).normStep = s.normStep := rfl
@[simp] theorem modStrm_trees (s : State) (t : Nat) (st : Stream) (f : StreamCtx → StreamCtx) : (modStrm s t st f).trees = s.trees := rfl
@[simp] theorem modStrm_mem (s : State) (t : Nat) (st : Stream) (f : StreamCtx → StreamCtx) : (modStrm s t st f).mem = s.mem := rfl
@[simp] theorem modStrm_fab (s : State) (t : Nat) (st : Stream) (f : StreamCtx → StreamCtx) : (modStrm s t st f).fab = s.fab := rfl
@[simp] theorem modStrm_ces (s : State) (t : Nat) (st : Stream) (f : StreamCtx → StreamCtx) : (modStrm s t st f).ces = s.ces := rfl
@[simp] theorem modStrm_hamper (s : State) (t : Nat) (st : Stream) (f : StreamCtx → StreamCtx) : (modStrm s t st f).hamper = s.hamper := rfl
@[simp] theorem modStrm_vkx (s : State) (t : Nat) (st : Stream) (f : StreamCtx → StreamCtx) : (modStrm s t st f).vkx = s.vkx := rfl
@[simp] theorem modStrm_phys (s : State) (t : Nat) (st : Stream) (f : StreamCtx → StreamCtx) : (modStrm s t st f).phys = s.phys := rfl
@[simp] theorem modStrm_out (s : State) (t : Nat) (st : Stream) (f : StreamCtx → StreamCtx) : (modStrm s t st f).out = s.out := rfl
@[simp] theorem modStrm_free (s : State) (t : Nat) (st : Stream) (f : StreamCtx → StreamCtx) : (modStrm s t st f).free = s.free := rfl

/-! `modTree` -/

@[simp] theorem modTree_pending (s : State) (k : Nat) (f : Tree → Tree) : (modTree s k f).pending = s.pending := rfl
@[simp] theorem modTree_grade (s : State) (k : Nat) (f : Tree → Tree) : (modTree s k f).grade = s.grade := rfl
@[simp] theorem modTree_serial (s : State) (k : Nat) (f : Tree → Tree) : (modTree s k f).serial = s.serial := rfl
@[simp] theorem modTree_trust (s : State) (k : Nat) (f : Tree → Tree) : (modTree s k f).trust = s.trust := rfl
@[simp] theorem modTree_factoryBad (s : State) (k : Nat) (f : Tree → Tree) : (modTree s k f).factoryBad = s.factoryBad := rfl
@[simp] theorem modTree_time (s : State) (k : Nat) (f : Tree → Tree) : (modTree s k f).time = s.time := rfl
@[simp] theorem modTree_firm (s : State) (k : Nat) (f : Tree → Tree) : (modTree s k f).firm = s.firm := rfl
@[simp] theorem modTree_tiles (s : State) (k : Nat) (f : Tree → Tree) : (modTree s k f).tiles = s.tiles := rfl
@[simp] theorem modTree_saved (s : State) (k : Nat) (f : Tree → Tree) : (modTree s k f).saved = s.saved := rfl
@[simp] theorem modTree_slots (s : State) (k : Nat) (f : Tree → Tree) : (modTree s k f).slots = s.slots := rfl
@[simp] theorem modTree_prog (s : State) (k : Nat) (f : Tree → Tree) : (modTree s k f).prog = s.prog := rfl
@[simp] theorem modTree_cluster (s : State) (k : Nat) (f : Tree → Tree) : (modTree s k f).cluster = s.cluster := rfl
@[simp] theorem modTree_dieSync (s : State) (k : Nat) (f : Tree → Tree) : (modTree s k f).dieSync = s.dieSync := rfl
@[simp] theorem modTree_samples (s : State) (k : Nat) (f : Tree → Tree) : (modTree s k f).samples = s.samples := rfl
@[simp] theorem modTree_closed (s : State) (k : Nat) (f : Tree → Tree) : (modTree s k f).closed = s.closed := rfl
@[simp] theorem modTree_ovfLog (s : State) (k : Nat) (f : Tree → Tree) : (modTree s k f).ovfLog = s.ovfLog := rfl
@[simp] theorem modTree_ovfOver (s : State) (k : Nat) (f : Tree → Tree) : (modTree s k f).ovfOver = s.ovfOver := rfl
@[simp] theorem modTree_ovfSat (s : State) (k : Nat) (f : Tree → Tree) : (modTree s k f).ovfSat = s.ovfSat := rfl
@[simp] theorem modTree_normStep (s : State) (k : Nat) (f : Tree → Tree) : (modTree s k f).normStep = s.normStep := rfl
@[simp] theorem modTree_mem (s : State) (k : Nat) (f : Tree → Tree) : (modTree s k f).mem = s.mem := rfl
@[simp] theorem modTree_fab (s : State) (k : Nat) (f : Tree → Tree) : (modTree s k f).fab = s.fab := rfl
@[simp] theorem modTree_ces (s : State) (k : Nat) (f : Tree → Tree) : (modTree s k f).ces = s.ces := rfl
@[simp] theorem modTree_hamper (s : State) (k : Nat) (f : Tree → Tree) : (modTree s k f).hamper = s.hamper := rfl
@[simp] theorem modTree_vkx (s : State) (k : Nat) (f : Tree → Tree) : (modTree s k f).vkx = s.vkx := rfl
@[simp] theorem modTree_phys (s : State) (k : Nat) (f : Tree → Tree) : (modTree s k f).phys = s.phys := rfl
@[simp] theorem modTree_out (s : State) (k : Nat) (f : Tree → Tree) : (modTree s k f).out = s.out := rfl
@[simp] theorem modTree_free (s : State) (k : Nat) (f : Tree → Tree) : (modTree s k f).free = s.free := rfl

/-! `modStrand` -/

@[simp] theorem modStrand_pending (s : State) (k : Nat) (f : Strand → Strand) : (modStrand s k f).pending = s.pending := rfl
@[simp] theorem modStrand_grade (s : State) (k : Nat) (f : Strand → Strand) : (modStrand s k f).grade = s.grade := rfl
@[simp] theorem modStrand_serial (s : State) (k : Nat) (f : Strand → Strand) : (modStrand s k f).serial = s.serial := rfl
@[simp] theorem modStrand_trust (s : State) (k : Nat) (f : Strand → Strand) : (modStrand s k f).trust = s.trust := rfl
@[simp] theorem modStrand_factoryBad (s : State) (k : Nat) (f : Strand → Strand) : (modStrand s k f).factoryBad = s.factoryBad := rfl
@[simp] theorem modStrand_time (s : State) (k : Nat) (f : Strand → Strand) : (modStrand s k f).time = s.time := rfl
@[simp] theorem modStrand_firm (s : State) (k : Nat) (f : Strand → Strand) : (modStrand s k f).firm = s.firm := rfl
@[simp] theorem modStrand_tiles (s : State) (k : Nat) (f : Strand → Strand) : (modStrand s k f).tiles = s.tiles := rfl
@[simp] theorem modStrand_saved (s : State) (k : Nat) (f : Strand → Strand) : (modStrand s k f).saved = s.saved := rfl
@[simp] theorem modStrand_slots (s : State) (k : Nat) (f : Strand → Strand) : (modStrand s k f).slots = s.slots := rfl
@[simp] theorem modStrand_prog (s : State) (k : Nat) (f : Strand → Strand) : (modStrand s k f).prog = s.prog := rfl
@[simp] theorem modStrand_cluster (s : State) (k : Nat) (f : Strand → Strand) : (modStrand s k f).cluster = s.cluster := rfl
@[simp] theorem modStrand_dieSync (s : State) (k : Nat) (f : Strand → Strand) : (modStrand s k f).dieSync = s.dieSync := rfl
@[simp] theorem modStrand_samples (s : State) (k : Nat) (f : Strand → Strand) : (modStrand s k f).samples = s.samples := rfl
@[simp] theorem modStrand_closed (s : State) (k : Nat) (f : Strand → Strand) : (modStrand s k f).closed = s.closed := rfl
@[simp] theorem modStrand_ovfLog (s : State) (k : Nat) (f : Strand → Strand) : (modStrand s k f).ovfLog = s.ovfLog := rfl
@[simp] theorem modStrand_ovfOver (s : State) (k : Nat) (f : Strand → Strand) : (modStrand s k f).ovfOver = s.ovfOver := rfl
@[simp] theorem modStrand_ovfSat (s : State) (k : Nat) (f : Strand → Strand) : (modStrand s k f).ovfSat = s.ovfSat := rfl
@[simp] theorem modStrand_normStep (s : State) (k : Nat) (f : Strand → Strand) : (modStrand s k f).normStep = s.normStep := rfl
@[simp] theorem modStrand_trees (s : State) (k : Nat) (f : Strand → Strand) : (modStrand s k f).trees = s.trees := rfl
@[simp] theorem modStrand_mem (s : State) (k : Nat) (f : Strand → Strand) : (modStrand s k f).mem = s.mem := rfl
@[simp] theorem modStrand_ces (s : State) (k : Nat) (f : Strand → Strand) : (modStrand s k f).ces = s.ces := rfl
@[simp] theorem modStrand_hamper (s : State) (k : Nat) (f : Strand → Strand) : (modStrand s k f).hamper = s.hamper := rfl
@[simp] theorem modStrand_vkx (s : State) (k : Nat) (f : Strand → Strand) : (modStrand s k f).vkx = s.vkx := rfl
@[simp] theorem modStrand_phys (s : State) (k : Nat) (f : Strand → Strand) : (modStrand s k f).phys = s.phys := rfl
@[simp] theorem modStrand_out (s : State) (k : Nat) (f : Strand → Strand) : (modStrand s k f).out = s.out := rfl
@[simp] theorem modStrand_free (s : State) (k : Nat) (f : Strand → Strand) : (modStrand s k f).free = s.free := rfl

/-! `record` -/

@[simp] theorem record_pending (s : State) (r : Record) : (record s r).pending = s.pending := rfl
@[simp] theorem record_grade (s : State) (r : Record) : (record s r).grade = s.grade := rfl
@[simp] theorem record_serial (s : State) (r : Record) : (record s r).serial = s.serial := rfl
@[simp] theorem record_trust (s : State) (r : Record) : (record s r).trust = s.trust := rfl
@[simp] theorem record_factoryBad (s : State) (r : Record) : (record s r).factoryBad = s.factoryBad := rfl
@[simp] theorem record_time (s : State) (r : Record) : (record s r).time = s.time := rfl
@[simp] theorem record_tiles (s : State) (r : Record) : (record s r).tiles = s.tiles := rfl
@[simp] theorem record_saved (s : State) (r : Record) : (record s r).saved = s.saved := rfl
@[simp] theorem record_slots (s : State) (r : Record) : (record s r).slots = s.slots := rfl
@[simp] theorem record_prog (s : State) (r : Record) : (record s r).prog = s.prog := rfl
@[simp] theorem record_cluster (s : State) (r : Record) : (record s r).cluster = s.cluster := rfl
@[simp] theorem record_dieSync (s : State) (r : Record) : (record s r).dieSync = s.dieSync := rfl
@[simp] theorem record_samples (s : State) (r : Record) : (record s r).samples = s.samples := rfl
@[simp] theorem record_closed (s : State) (r : Record) : (record s r).closed = s.closed := rfl
@[simp] theorem record_ovfLog (s : State) (r : Record) : (record s r).ovfLog = s.ovfLog := rfl
@[simp] theorem record_ovfOver (s : State) (r : Record) : (record s r).ovfOver = s.ovfOver := rfl
@[simp] theorem record_ovfSat (s : State) (r : Record) : (record s r).ovfSat = s.ovfSat := rfl
@[simp] theorem record_normStep (s : State) (r : Record) : (record s r).normStep = s.normStep := rfl
@[simp] theorem record_trees (s : State) (r : Record) : (record s r).trees = s.trees := rfl
@[simp] theorem record_mem (s : State) (r : Record) : (record s r).mem = s.mem := rfl
@[simp] theorem record_fab (s : State) (r : Record) : (record s r).fab = s.fab := rfl
@[simp] theorem record_ces (s : State) (r : Record) : (record s r).ces = s.ces := rfl
@[simp] theorem record_hamper (s : State) (r : Record) : (record s r).hamper = s.hamper := rfl
@[simp] theorem record_vkx (s : State) (r : Record) : (record s r).vkx = s.vkx := rfl
@[simp] theorem record_phys (s : State) (r : Record) : (record s r).phys = s.phys := rfl
@[simp] theorem record_out (s : State) (r : Record) : (record s r).out = s.out := rfl
@[simp] theorem record_free (s : State) (r : Record) : (record s r).free = s.free := rfl

/-! `countAbsent` -/

@[simp] theorem countAbsent_pending (s : State) (k : UnitKind) (i : Nat) : (countAbsent s k i).pending = s.pending := rfl
@[simp] theorem countAbsent_grade (s : State) (k : UnitKind) (i : Nat) : (countAbsent s k i).grade = s.grade := rfl
@[simp] theorem countAbsent_serial (s : State) (k : UnitKind) (i : Nat) : (countAbsent s k i).serial = s.serial := rfl
@[simp] theorem countAbsent_trust (s : State) (k : UnitKind) (i : Nat) : (countAbsent s k i).trust = s.trust := rfl
@[simp] theorem countAbsent_factoryBad (s : State) (k : UnitKind) (i : Nat) : (countAbsent s k i).factoryBad = s.factoryBad := rfl
@[simp] theorem countAbsent_time (s : State) (k : UnitKind) (i : Nat) : (countAbsent s k i).time = s.time := rfl
@[simp] theorem countAbsent_tiles (s : State) (k : UnitKind) (i : Nat) : (countAbsent s k i).tiles = s.tiles := rfl
@[simp] theorem countAbsent_saved (s : State) (k : UnitKind) (i : Nat) : (countAbsent s k i).saved = s.saved := rfl
@[simp] theorem countAbsent_slots (s : State) (k : UnitKind) (i : Nat) : (countAbsent s k i).slots = s.slots := rfl
@[simp] theorem countAbsent_prog (s : State) (k : UnitKind) (i : Nat) : (countAbsent s k i).prog = s.prog := rfl
@[simp] theorem countAbsent_cluster (s : State) (k : UnitKind) (i : Nat) : (countAbsent s k i).cluster = s.cluster := rfl
@[simp] theorem countAbsent_dieSync (s : State) (k : UnitKind) (i : Nat) : (countAbsent s k i).dieSync = s.dieSync := rfl
@[simp] theorem countAbsent_samples (s : State) (k : UnitKind) (i : Nat) : (countAbsent s k i).samples = s.samples := rfl
@[simp] theorem countAbsent_closed (s : State) (k : UnitKind) (i : Nat) : (countAbsent s k i).closed = s.closed := rfl
@[simp] theorem countAbsent_ovfLog (s : State) (k : UnitKind) (i : Nat) : (countAbsent s k i).ovfLog = s.ovfLog := rfl
@[simp] theorem countAbsent_ovfOver (s : State) (k : UnitKind) (i : Nat) : (countAbsent s k i).ovfOver = s.ovfOver := rfl
@[simp] theorem countAbsent_ovfSat (s : State) (k : UnitKind) (i : Nat) : (countAbsent s k i).ovfSat = s.ovfSat := rfl
@[simp] theorem countAbsent_normStep (s : State) (k : UnitKind) (i : Nat) : (countAbsent s k i).normStep = s.normStep := rfl
@[simp] theorem countAbsent_trees (s : State) (k : UnitKind) (i : Nat) : (countAbsent s k i).trees = s.trees := rfl
@[simp] theorem countAbsent_mem (s : State) (k : UnitKind) (i : Nat) : (countAbsent s k i).mem = s.mem := rfl
@[simp] theorem countAbsent_fab (s : State) (k : UnitKind) (i : Nat) : (countAbsent s k i).fab = s.fab := rfl
@[simp] theorem countAbsent_ces (s : State) (k : UnitKind) (i : Nat) : (countAbsent s k i).ces = s.ces := rfl
@[simp] theorem countAbsent_hamper (s : State) (k : UnitKind) (i : Nat) : (countAbsent s k i).hamper = s.hamper := rfl
@[simp] theorem countAbsent_vkx (s : State) (k : UnitKind) (i : Nat) : (countAbsent s k i).vkx = s.vkx := rfl
@[simp] theorem countAbsent_phys (s : State) (k : UnitKind) (i : Nat) : (countAbsent s k i).phys = s.phys := rfl
@[simp] theorem countAbsent_out (s : State) (k : UnitKind) (i : Nat) : (countAbsent s k i).out = s.out := rfl
@[simp] theorem countAbsent_free (s : State) (k : UnitKind) (i : Nat) : (countAbsent s k i).free = s.free := rfl

/-! `modPort` -/

@[simp] theorem modPort_pending (s : State) (p : Nat) (f : Port → Port) : (modPort s p f).pending = s.pending := rfl
@[simp] theorem modPort_grade (s : State) (p : Nat) (f : Port → Port) : (modPort s p f).grade = s.grade := rfl
@[simp] theorem modPort_serial (s : State) (p : Nat) (f : Port → Port) : (modPort s p f).serial = s.serial := rfl
@[simp] theorem modPort_trust (s : State) (p : Nat) (f : Port → Port) : (modPort s p f).trust = s.trust := rfl
@[simp] theorem modPort_factoryBad (s : State) (p : Nat) (f : Port → Port) : (modPort s p f).factoryBad = s.factoryBad := rfl
@[simp] theorem modPort_time (s : State) (p : Nat) (f : Port → Port) : (modPort s p f).time = s.time := rfl
@[simp] theorem modPort_firm (s : State) (p : Nat) (f : Port → Port) : (modPort s p f).firm = s.firm := rfl
@[simp] theorem modPort_tiles (s : State) (p : Nat) (f : Port → Port) : (modPort s p f).tiles = s.tiles := rfl
@[simp] theorem modPort_saved (s : State) (p : Nat) (f : Port → Port) : (modPort s p f).saved = s.saved := rfl
@[simp] theorem modPort_slots (s : State) (p : Nat) (f : Port → Port) : (modPort s p f).slots = s.slots := rfl
@[simp] theorem modPort_prog (s : State) (p : Nat) (f : Port → Port) : (modPort s p f).prog = s.prog := rfl
@[simp] theorem modPort_cluster (s : State) (p : Nat) (f : Port → Port) : (modPort s p f).cluster = s.cluster := rfl
@[simp] theorem modPort_dieSync (s : State) (p : Nat) (f : Port → Port) : (modPort s p f).dieSync = s.dieSync := rfl
@[simp] theorem modPort_samples (s : State) (p : Nat) (f : Port → Port) : (modPort s p f).samples = s.samples := rfl
@[simp] theorem modPort_closed (s : State) (p : Nat) (f : Port → Port) : (modPort s p f).closed = s.closed := rfl
@[simp] theorem modPort_ovfLog (s : State) (p : Nat) (f : Port → Port) : (modPort s p f).ovfLog = s.ovfLog := rfl
@[simp] theorem modPort_ovfOver (s : State) (p : Nat) (f : Port → Port) : (modPort s p f).ovfOver = s.ovfOver := rfl
@[simp] theorem modPort_ovfSat (s : State) (p : Nat) (f : Port → Port) : (modPort s p f).ovfSat = s.ovfSat := rfl
@[simp] theorem modPort_normStep (s : State) (p : Nat) (f : Port → Port) : (modPort s p f).normStep = s.normStep := rfl
@[simp] theorem modPort_trees (s : State) (p : Nat) (f : Port → Port) : (modPort s p f).trees = s.trees := rfl
@[simp] theorem modPort_mem (s : State) (p : Nat) (f : Port → Port) : (modPort s p f).mem = s.mem := rfl
@[simp] theorem modPort_ces (s : State) (p : Nat) (f : Port → Port) : (modPort s p f).ces = s.ces := rfl
@[simp] theorem modPort_hamper (s : State) (p : Nat) (f : Port → Port) : (modPort s p f).hamper = s.hamper := rfl
@[simp] theorem modPort_vkx (s : State) (p : Nat) (f : Port → Port) : (modPort s p f).vkx = s.vkx := rfl
@[simp] theorem modPort_phys (s : State) (p : Nat) (f : Port → Port) : (modPort s p f).phys = s.phys := rfl
@[simp] theorem modPort_out (s : State) (p : Nat) (f : Port → Port) : (modPort s p f).out = s.out := rfl
@[simp] theorem modPort_free (s : State) (p : Nat) (f : Port → Port) : (modPort s p f).free = s.free := rfl

/-! `modHamper` -/

@[simp] theorem modHamper_pending (s : State) (f : Hamper → Hamper) : (modHamper s f).pending = s.pending := rfl
@[simp] theorem modHamper_grade (s : State) (f : Hamper → Hamper) : (modHamper s f).grade = s.grade := rfl
@[simp] theorem modHamper_serial (s : State) (f : Hamper → Hamper) : (modHamper s f).serial = s.serial := rfl
@[simp] theorem modHamper_trust (s : State) (f : Hamper → Hamper) : (modHamper s f).trust = s.trust := rfl
@[simp] theorem modHamper_factoryBad (s : State) (f : Hamper → Hamper) : (modHamper s f).factoryBad = s.factoryBad := rfl
@[simp] theorem modHamper_time (s : State) (f : Hamper → Hamper) : (modHamper s f).time = s.time := rfl
@[simp] theorem modHamper_firm (s : State) (f : Hamper → Hamper) : (modHamper s f).firm = s.firm := rfl
@[simp] theorem modHamper_tiles (s : State) (f : Hamper → Hamper) : (modHamper s f).tiles = s.tiles := rfl
@[simp] theorem modHamper_saved (s : State) (f : Hamper → Hamper) : (modHamper s f).saved = s.saved := rfl
@[simp] theorem modHamper_slots (s : State) (f : Hamper → Hamper) : (modHamper s f).slots = s.slots := rfl
@[simp] theorem modHamper_prog (s : State) (f : Hamper → Hamper) : (modHamper s f).prog = s.prog := rfl
@[simp] theorem modHamper_cluster (s : State) (f : Hamper → Hamper) : (modHamper s f).cluster = s.cluster := rfl
@[simp] theorem modHamper_dieSync (s : State) (f : Hamper → Hamper) : (modHamper s f).dieSync = s.dieSync := rfl
@[simp] theorem modHamper_samples (s : State) (f : Hamper → Hamper) : (modHamper s f).samples = s.samples := rfl
@[simp] theorem modHamper_closed (s : State) (f : Hamper → Hamper) : (modHamper s f).closed = s.closed := rfl
@[simp] theorem modHamper_ovfLog (s : State) (f : Hamper → Hamper) : (modHamper s f).ovfLog = s.ovfLog := rfl
@[simp] theorem modHamper_ovfOver (s : State) (f : Hamper → Hamper) : (modHamper s f).ovfOver = s.ovfOver := rfl
@[simp] theorem modHamper_ovfSat (s : State) (f : Hamper → Hamper) : (modHamper s f).ovfSat = s.ovfSat := rfl
@[simp] theorem modHamper_normStep (s : State) (f : Hamper → Hamper) : (modHamper s f).normStep = s.normStep := rfl
@[simp] theorem modHamper_trees (s : State) (f : Hamper → Hamper) : (modHamper s f).trees = s.trees := rfl
@[simp] theorem modHamper_mem (s : State) (f : Hamper → Hamper) : (modHamper s f).mem = s.mem := rfl
@[simp] theorem modHamper_fab (s : State) (f : Hamper → Hamper) : (modHamper s f).fab = s.fab := rfl
@[simp] theorem modHamper_ces (s : State) (f : Hamper → Hamper) : (modHamper s f).ces = s.ces := rfl
@[simp] theorem modHamper_vkx (s : State) (f : Hamper → Hamper) : (modHamper s f).vkx = s.vkx := rfl
@[simp] theorem modHamper_phys (s : State) (f : Hamper → Hamper) : (modHamper s f).phys = s.phys := rfl
@[simp] theorem modHamper_out (s : State) (f : Hamper → Hamper) : (modHamper s f).out = s.out := rfl
@[simp] theorem modHamper_free (s : State) (f : Hamper → Hamper) : (modHamper s f).free = s.free := rfl

/-! `modBlock` -/

@[simp] theorem modBlock_pending (s : State) (k : Nat) (f : Block → Block) : (modBlock s k f).pending = s.pending := rfl
@[simp] theorem modBlock_grade (s : State) (k : Nat) (f : Block → Block) : (modBlock s k f).grade = s.grade := rfl
@[simp] theorem modBlock_serial (s : State) (k : Nat) (f : Block → Block) : (modBlock s k f).serial = s.serial := rfl
@[simp] theorem modBlock_trust (s : State) (k : Nat) (f : Block → Block) : (modBlock s k f).trust = s.trust := rfl
@[simp] theorem modBlock_factoryBad (s : State) (k : Nat) (f : Block → Block) : (modBlock s k f).factoryBad = s.factoryBad := rfl
@[simp] theorem modBlock_time (s : State) (k : Nat) (f : Block → Block) : (modBlock s k f).time = s.time := rfl
@[simp] theorem modBlock_firm (s : State) (k : Nat) (f : Block → Block) : (modBlock s k f).firm = s.firm := rfl
@[simp] theorem modBlock_tiles (s : State) (k : Nat) (f : Block → Block) : (modBlock s k f).tiles = s.tiles := rfl
@[simp] theorem modBlock_saved (s : State) (k : Nat) (f : Block → Block) : (modBlock s k f).saved = s.saved := rfl
@[simp] theorem modBlock_slots (s : State) (k : Nat) (f : Block → Block) : (modBlock s k f).slots = s.slots := rfl
@[simp] theorem modBlock_prog (s : State) (k : Nat) (f : Block → Block) : (modBlock s k f).prog = s.prog := rfl
@[simp] theorem modBlock_cluster (s : State) (k : Nat) (f : Block → Block) : (modBlock s k f).cluster = s.cluster := rfl
@[simp] theorem modBlock_dieSync (s : State) (k : Nat) (f : Block → Block) : (modBlock s k f).dieSync = s.dieSync := rfl
@[simp] theorem modBlock_samples (s : State) (k : Nat) (f : Block → Block) : (modBlock s k f).samples = s.samples := rfl
@[simp] theorem modBlock_closed (s : State) (k : Nat) (f : Block → Block) : (modBlock s k f).closed = s.closed := rfl
@[simp] theorem modBlock_ovfLog (s : State) (k : Nat) (f : Block → Block) : (modBlock s k f).ovfLog = s.ovfLog := rfl
@[simp] theorem modBlock_ovfOver (s : State) (k : Nat) (f : Block → Block) : (modBlock s k f).ovfOver = s.ovfOver := rfl
@[simp] theorem modBlock_ovfSat (s : State) (k : Nat) (f : Block → Block) : (modBlock s k f).ovfSat = s.ovfSat := rfl
@[simp] theorem modBlock_normStep (s : State) (k : Nat) (f : Block → Block) : (modBlock s k f).normStep = s.normStep := rfl
@[simp] theorem modBlock_trees (s : State) (k : Nat) (f : Block → Block) : (modBlock s k f).trees = s.trees := rfl
@[simp] theorem modBlock_mem (s : State) (k : Nat) (f : Block → Block) : (modBlock s k f).mem = s.mem := rfl
@[simp] theorem modBlock_fab (s : State) (k : Nat) (f : Block → Block) : (modBlock s k f).fab = s.fab := rfl
@[simp] theorem modBlock_ces (s : State) (k : Nat) (f : Block → Block) : (modBlock s k f).ces = s.ces := rfl
@[simp] theorem modBlock_vkx (s : State) (k : Nat) (f : Block → Block) : (modBlock s k f).vkx = s.vkx := rfl
@[simp] theorem modBlock_phys (s : State) (k : Nat) (f : Block → Block) : (modBlock s k f).phys = s.phys := rfl
@[simp] theorem modBlock_out (s : State) (k : Nat) (f : Block → Block) : (modBlock s k f).out = s.out := rfl
@[simp] theorem modBlock_free (s : State) (k : Nat) (f : Block → Block) : (modBlock s k f).free = s.free := rfl

/-! `modGen` -/

@[simp] theorem modGen_pending (s : State) (g : BitVec 32) (f : Gen → Gen) : (modGen s g f).pending = s.pending := rfl
@[simp] theorem modGen_grade (s : State) (g : BitVec 32) (f : Gen → Gen) : (modGen s g f).grade = s.grade := rfl
@[simp] theorem modGen_serial (s : State) (g : BitVec 32) (f : Gen → Gen) : (modGen s g f).serial = s.serial := rfl
@[simp] theorem modGen_trust (s : State) (g : BitVec 32) (f : Gen → Gen) : (modGen s g f).trust = s.trust := rfl
@[simp] theorem modGen_factoryBad (s : State) (g : BitVec 32) (f : Gen → Gen) : (modGen s g f).factoryBad = s.factoryBad := rfl
@[simp] theorem modGen_time (s : State) (g : BitVec 32) (f : Gen → Gen) : (modGen s g f).time = s.time := rfl
@[simp] theorem modGen_firm (s : State) (g : BitVec 32) (f : Gen → Gen) : (modGen s g f).firm = s.firm := rfl
@[simp] theorem modGen_tiles (s : State) (g : BitVec 32) (f : Gen → Gen) : (modGen s g f).tiles = s.tiles := rfl
@[simp] theorem modGen_saved (s : State) (g : BitVec 32) (f : Gen → Gen) : (modGen s g f).saved = s.saved := rfl
@[simp] theorem modGen_slots (s : State) (g : BitVec 32) (f : Gen → Gen) : (modGen s g f).slots = s.slots := rfl
@[simp] theorem modGen_prog (s : State) (g : BitVec 32) (f : Gen → Gen) : (modGen s g f).prog = s.prog := rfl
@[simp] theorem modGen_cluster (s : State) (g : BitVec 32) (f : Gen → Gen) : (modGen s g f).cluster = s.cluster := rfl
@[simp] theorem modGen_dieSync (s : State) (g : BitVec 32) (f : Gen → Gen) : (modGen s g f).dieSync = s.dieSync := rfl
@[simp] theorem modGen_samples (s : State) (g : BitVec 32) (f : Gen → Gen) : (modGen s g f).samples = s.samples := rfl
@[simp] theorem modGen_closed (s : State) (g : BitVec 32) (f : Gen → Gen) : (modGen s g f).closed = s.closed := rfl
@[simp] theorem modGen_ovfLog (s : State) (g : BitVec 32) (f : Gen → Gen) : (modGen s g f).ovfLog = s.ovfLog := rfl
@[simp] theorem modGen_ovfOver (s : State) (g : BitVec 32) (f : Gen → Gen) : (modGen s g f).ovfOver = s.ovfOver := rfl
@[simp] theorem modGen_ovfSat (s : State) (g : BitVec 32) (f : Gen → Gen) : (modGen s g f).ovfSat = s.ovfSat := rfl
@[simp] theorem modGen_normStep (s : State) (g : BitVec 32) (f : Gen → Gen) : (modGen s g f).normStep = s.normStep := rfl
@[simp] theorem modGen_trees (s : State) (g : BitVec 32) (f : Gen → Gen) : (modGen s g f).trees = s.trees := rfl
@[simp] theorem modGen_mem (s : State) (g : BitVec 32) (f : Gen → Gen) : (modGen s g f).mem = s.mem := rfl
@[simp] theorem modGen_fab (s : State) (g : BitVec 32) (f : Gen → Gen) : (modGen s g f).fab = s.fab := rfl
@[simp] theorem modGen_ces (s : State) (g : BitVec 32) (f : Gen → Gen) : (modGen s g f).ces = s.ces := rfl
@[simp] theorem modGen_vkx (s : State) (g : BitVec 32) (f : Gen → Gen) : (modGen s g f).vkx = s.vkx := rfl
@[simp] theorem modGen_phys (s : State) (g : BitVec 32) (f : Gen → Gen) : (modGen s g f).phys = s.phys := rfl
@[simp] theorem modGen_out (s : State) (g : BitVec 32) (f : Gen → Gen) : (modGen s g f).out = s.out := rfl
@[simp] theorem modGen_free (s : State) (g : BitVec 32) (f : Gen → Gen) : (modGen s g f).free = s.free := rfl

/-! `modMirror` -/

@[simp] theorem modMirror_pending (s : State) (g : BitVec 32) (f : Gen → Gen) : (modMirror s g f).pending = s.pending := rfl
@[simp] theorem modMirror_grade (s : State) (g : BitVec 32) (f : Gen → Gen) : (modMirror s g f).grade = s.grade := rfl
@[simp] theorem modMirror_serial (s : State) (g : BitVec 32) (f : Gen → Gen) : (modMirror s g f).serial = s.serial := rfl
@[simp] theorem modMirror_trust (s : State) (g : BitVec 32) (f : Gen → Gen) : (modMirror s g f).trust = s.trust := rfl
@[simp] theorem modMirror_factoryBad (s : State) (g : BitVec 32) (f : Gen → Gen) : (modMirror s g f).factoryBad = s.factoryBad := rfl
@[simp] theorem modMirror_time (s : State) (g : BitVec 32) (f : Gen → Gen) : (modMirror s g f).time = s.time := rfl
@[simp] theorem modMirror_firm (s : State) (g : BitVec 32) (f : Gen → Gen) : (modMirror s g f).firm = s.firm := rfl
@[simp] theorem modMirror_tiles (s : State) (g : BitVec 32) (f : Gen → Gen) : (modMirror s g f).tiles = s.tiles := rfl
@[simp] theorem modMirror_saved (s : State) (g : BitVec 32) (f : Gen → Gen) : (modMirror s g f).saved = s.saved := rfl
@[simp] theorem modMirror_slots (s : State) (g : BitVec 32) (f : Gen → Gen) : (modMirror s g f).slots = s.slots := rfl
@[simp] theorem modMirror_prog (s : State) (g : BitVec 32) (f : Gen → Gen) : (modMirror s g f).prog = s.prog := rfl
@[simp] theorem modMirror_cluster (s : State) (g : BitVec 32) (f : Gen → Gen) : (modMirror s g f).cluster = s.cluster := rfl
@[simp] theorem modMirror_dieSync (s : State) (g : BitVec 32) (f : Gen → Gen) : (modMirror s g f).dieSync = s.dieSync := rfl
@[simp] theorem modMirror_samples (s : State) (g : BitVec 32) (f : Gen → Gen) : (modMirror s g f).samples = s.samples := rfl
@[simp] theorem modMirror_closed (s : State) (g : BitVec 32) (f : Gen → Gen) : (modMirror s g f).closed = s.closed := rfl
@[simp] theorem modMirror_ovfLog (s : State) (g : BitVec 32) (f : Gen → Gen) : (modMirror s g f).ovfLog = s.ovfLog := rfl
@[simp] theorem modMirror_ovfOver (s : State) (g : BitVec 32) (f : Gen → Gen) : (modMirror s g f).ovfOver = s.ovfOver := rfl
@[simp] theorem modMirror_ovfSat (s : State) (g : BitVec 32) (f : Gen → Gen) : (modMirror s g f).ovfSat = s.ovfSat := rfl
@[simp] theorem modMirror_normStep (s : State) (g : BitVec 32) (f : Gen → Gen) : (modMirror s g f).normStep = s.normStep := rfl
@[simp] theorem modMirror_trees (s : State) (g : BitVec 32) (f : Gen → Gen) : (modMirror s g f).trees = s.trees := rfl
@[simp] theorem modMirror_mem (s : State) (g : BitVec 32) (f : Gen → Gen) : (modMirror s g f).mem = s.mem := rfl
@[simp] theorem modMirror_fab (s : State) (g : BitVec 32) (f : Gen → Gen) : (modMirror s g f).fab = s.fab := rfl
@[simp] theorem modMirror_ces (s : State) (g : BitVec 32) (f : Gen → Gen) : (modMirror s g f).ces = s.ces := rfl
@[simp] theorem modMirror_vkx (s : State) (g : BitVec 32) (f : Gen → Gen) : (modMirror s g f).vkx = s.vkx := rfl
@[simp] theorem modMirror_phys (s : State) (g : BitVec 32) (f : Gen → Gen) : (modMirror s g f).phys = s.phys := rfl
@[simp] theorem modMirror_out (s : State) (g : BitVec 32) (f : Gen → Gen) : (modMirror s g f).out = s.out := rfl
@[simp] theorem modMirror_free (s : State) (g : BitVec 32) (f : Gen → Gen) : (modMirror s g f).free = s.free := rfl

/-! `modEngine` -/

@[simp] theorem modEngine_pending (s : State) (ax : Nat) (f : Engine → Engine) : (modEngine s ax f).pending = s.pending := rfl
@[simp] theorem modEngine_grade (s : State) (ax : Nat) (f : Engine → Engine) : (modEngine s ax f).grade = s.grade := rfl
@[simp] theorem modEngine_serial (s : State) (ax : Nat) (f : Engine → Engine) : (modEngine s ax f).serial = s.serial := rfl
@[simp] theorem modEngine_trust (s : State) (ax : Nat) (f : Engine → Engine) : (modEngine s ax f).trust = s.trust := rfl
@[simp] theorem modEngine_factoryBad (s : State) (ax : Nat) (f : Engine → Engine) : (modEngine s ax f).factoryBad = s.factoryBad := rfl
@[simp] theorem modEngine_time (s : State) (ax : Nat) (f : Engine → Engine) : (modEngine s ax f).time = s.time := rfl
@[simp] theorem modEngine_firm (s : State) (ax : Nat) (f : Engine → Engine) : (modEngine s ax f).firm = s.firm := rfl
@[simp] theorem modEngine_tiles (s : State) (ax : Nat) (f : Engine → Engine) : (modEngine s ax f).tiles = s.tiles := rfl
@[simp] theorem modEngine_saved (s : State) (ax : Nat) (f : Engine → Engine) : (modEngine s ax f).saved = s.saved := rfl
@[simp] theorem modEngine_slots (s : State) (ax : Nat) (f : Engine → Engine) : (modEngine s ax f).slots = s.slots := rfl
@[simp] theorem modEngine_prog (s : State) (ax : Nat) (f : Engine → Engine) : (modEngine s ax f).prog = s.prog := rfl
@[simp] theorem modEngine_cluster (s : State) (ax : Nat) (f : Engine → Engine) : (modEngine s ax f).cluster = s.cluster := rfl
@[simp] theorem modEngine_dieSync (s : State) (ax : Nat) (f : Engine → Engine) : (modEngine s ax f).dieSync = s.dieSync := rfl
@[simp] theorem modEngine_samples (s : State) (ax : Nat) (f : Engine → Engine) : (modEngine s ax f).samples = s.samples := rfl
@[simp] theorem modEngine_closed (s : State) (ax : Nat) (f : Engine → Engine) : (modEngine s ax f).closed = s.closed := rfl
@[simp] theorem modEngine_ovfLog (s : State) (ax : Nat) (f : Engine → Engine) : (modEngine s ax f).ovfLog = s.ovfLog := rfl
@[simp] theorem modEngine_ovfOver (s : State) (ax : Nat) (f : Engine → Engine) : (modEngine s ax f).ovfOver = s.ovfOver := rfl
@[simp] theorem modEngine_ovfSat (s : State) (ax : Nat) (f : Engine → Engine) : (modEngine s ax f).ovfSat = s.ovfSat := rfl
@[simp] theorem modEngine_normStep (s : State) (ax : Nat) (f : Engine → Engine) : (modEngine s ax f).normStep = s.normStep := rfl
@[simp] theorem modEngine_trees (s : State) (ax : Nat) (f : Engine → Engine) : (modEngine s ax f).trees = s.trees := rfl
@[simp] theorem modEngine_mem (s : State) (ax : Nat) (f : Engine → Engine) : (modEngine s ax f).mem = s.mem := rfl
@[simp] theorem modEngine_fab (s : State) (ax : Nat) (f : Engine → Engine) : (modEngine s ax f).fab = s.fab := rfl
@[simp] theorem modEngine_hamper (s : State) (ax : Nat) (f : Engine → Engine) : (modEngine s ax f).hamper = s.hamper := rfl
@[simp] theorem modEngine_vkx (s : State) (ax : Nat) (f : Engine → Engine) : (modEngine s ax f).vkx = s.vkx := rfl
@[simp] theorem modEngine_phys (s : State) (ax : Nat) (f : Engine → Engine) : (modEngine s ax f).phys = s.phys := rfl
@[simp] theorem modEngine_out (s : State) (ax : Nat) (f : Engine → Engine) : (modEngine s ax f).out = s.out := rfl
@[simp] theorem modEngine_free (s : State) (ax : Nat) (f : Engine → Engine) : (modEngine s ax f).free = s.free := rfl

/-! `modChan` -/

@[simp] theorem modChan_pending (s : State) (ax ch : Nat) (f : Chan → Chan) : (modChan s ax ch f).pending = s.pending := rfl
@[simp] theorem modChan_grade (s : State) (ax ch : Nat) (f : Chan → Chan) : (modChan s ax ch f).grade = s.grade := rfl
@[simp] theorem modChan_serial (s : State) (ax ch : Nat) (f : Chan → Chan) : (modChan s ax ch f).serial = s.serial := rfl
@[simp] theorem modChan_trust (s : State) (ax ch : Nat) (f : Chan → Chan) : (modChan s ax ch f).trust = s.trust := rfl
@[simp] theorem modChan_factoryBad (s : State) (ax ch : Nat) (f : Chan → Chan) : (modChan s ax ch f).factoryBad = s.factoryBad := rfl
@[simp] theorem modChan_time (s : State) (ax ch : Nat) (f : Chan → Chan) : (modChan s ax ch f).time = s.time := rfl
@[simp] theorem modChan_firm (s : State) (ax ch : Nat) (f : Chan → Chan) : (modChan s ax ch f).firm = s.firm := rfl
@[simp] theorem modChan_tiles (s : State) (ax ch : Nat) (f : Chan → Chan) : (modChan s ax ch f).tiles = s.tiles := rfl
@[simp] theorem modChan_saved (s : State) (ax ch : Nat) (f : Chan → Chan) : (modChan s ax ch f).saved = s.saved := rfl
@[simp] theorem modChan_slots (s : State) (ax ch : Nat) (f : Chan → Chan) : (modChan s ax ch f).slots = s.slots := rfl
@[simp] theorem modChan_prog (s : State) (ax ch : Nat) (f : Chan → Chan) : (modChan s ax ch f).prog = s.prog := rfl
@[simp] theorem modChan_cluster (s : State) (ax ch : Nat) (f : Chan → Chan) : (modChan s ax ch f).cluster = s.cluster := rfl
@[simp] theorem modChan_dieSync (s : State) (ax ch : Nat) (f : Chan → Chan) : (modChan s ax ch f).dieSync = s.dieSync := rfl
@[simp] theorem modChan_samples (s : State) (ax ch : Nat) (f : Chan → Chan) : (modChan s ax ch f).samples = s.samples := rfl
@[simp] theorem modChan_closed (s : State) (ax ch : Nat) (f : Chan → Chan) : (modChan s ax ch f).closed = s.closed := rfl
@[simp] theorem modChan_ovfLog (s : State) (ax ch : Nat) (f : Chan → Chan) : (modChan s ax ch f).ovfLog = s.ovfLog := rfl
@[simp] theorem modChan_ovfOver (s : State) (ax ch : Nat) (f : Chan → Chan) : (modChan s ax ch f).ovfOver = s.ovfOver := rfl
@[simp] theorem modChan_ovfSat (s : State) (ax ch : Nat) (f : Chan → Chan) : (modChan s ax ch f).ovfSat = s.ovfSat := rfl
@[simp] theorem modChan_normStep (s : State) (ax ch : Nat) (f : Chan → Chan) : (modChan s ax ch f).normStep = s.normStep := rfl
@[simp] theorem modChan_trees (s : State) (ax ch : Nat) (f : Chan → Chan) : (modChan s ax ch f).trees = s.trees := rfl
@[simp] theorem modChan_mem (s : State) (ax ch : Nat) (f : Chan → Chan) : (modChan s ax ch f).mem = s.mem := rfl
@[simp] theorem modChan_fab (s : State) (ax ch : Nat) (f : Chan → Chan) : (modChan s ax ch f).fab = s.fab := rfl
@[simp] theorem modChan_hamper (s : State) (ax ch : Nat) (f : Chan → Chan) : (modChan s ax ch f).hamper = s.hamper := rfl
@[simp] theorem modChan_vkx (s : State) (ax ch : Nat) (f : Chan → Chan) : (modChan s ax ch f).vkx = s.vkx := rfl
@[simp] theorem modChan_phys (s : State) (ax ch : Nat) (f : Chan → Chan) : (modChan s ax ch f).phys = s.phys := rfl
@[simp] theorem modChan_out (s : State) (ax ch : Nat) (f : Chan → Chan) : (modChan s ax ch f).out = s.out := rfl
@[simp] theorem modChan_free (s : State) (ax ch : Nat) (f : Chan → Chan) : (modChan s ax ch f).free = s.free := rfl

/-! `modCe` -/

@[simp] theorem modCe_pending (s : State) (ax ch : Nat) (number : BitVec 32) (f : CeItem → CeItem) :
    (modCe s ax ch number f).pending = s.pending := rfl
@[simp] theorem modCe_grade (s : State) (ax ch : Nat) (number : BitVec 32) (f : CeItem → CeItem) :
    (modCe s ax ch number f).grade = s.grade := rfl
@[simp] theorem modCe_serial (s : State) (ax ch : Nat) (number : BitVec 32) (f : CeItem → CeItem) :
    (modCe s ax ch number f).serial = s.serial := rfl
@[simp] theorem modCe_trust (s : State) (ax ch : Nat) (number : BitVec 32) (f : CeItem → CeItem) :
    (modCe s ax ch number f).trust = s.trust := rfl
@[simp] theorem modCe_factoryBad (s : State) (ax ch : Nat) (number : BitVec 32) (f : CeItem → CeItem) :
    (modCe s ax ch number f).factoryBad = s.factoryBad := rfl
@[simp] theorem modCe_time (s : State) (ax ch : Nat) (number : BitVec 32) (f : CeItem → CeItem) :
    (modCe s ax ch number f).time = s.time := rfl
@[simp] theorem modCe_firm (s : State) (ax ch : Nat) (number : BitVec 32) (f : CeItem → CeItem) :
    (modCe s ax ch number f).firm = s.firm := rfl
@[simp] theorem modCe_tiles (s : State) (ax ch : Nat) (number : BitVec 32) (f : CeItem → CeItem) :
    (modCe s ax ch number f).tiles = s.tiles := rfl
@[simp] theorem modCe_saved (s : State) (ax ch : Nat) (number : BitVec 32) (f : CeItem → CeItem) :
    (modCe s ax ch number f).saved = s.saved := rfl
@[simp] theorem modCe_slots (s : State) (ax ch : Nat) (number : BitVec 32) (f : CeItem → CeItem) :
    (modCe s ax ch number f).slots = s.slots := rfl
@[simp] theorem modCe_prog (s : State) (ax ch : Nat) (number : BitVec 32) (f : CeItem → CeItem) :
    (modCe s ax ch number f).prog = s.prog := rfl
@[simp] theorem modCe_cluster (s : State) (ax ch : Nat) (number : BitVec 32) (f : CeItem → CeItem) :
    (modCe s ax ch number f).cluster = s.cluster := rfl
@[simp] theorem modCe_dieSync (s : State) (ax ch : Nat) (number : BitVec 32) (f : CeItem → CeItem) :
    (modCe s ax ch number f).dieSync = s.dieSync := rfl
@[simp] theorem modCe_samples (s : State) (ax ch : Nat) (number : BitVec 32) (f : CeItem → CeItem) :
    (modCe s ax ch number f).samples = s.samples := rfl
@[simp] theorem modCe_closed (s : State) (ax ch : Nat) (number : BitVec 32) (f : CeItem → CeItem) :
    (modCe s ax ch number f).closed = s.closed := rfl
@[simp] theorem modCe_ovfLog (s : State) (ax ch : Nat) (number : BitVec 32) (f : CeItem → CeItem) :
    (modCe s ax ch number f).ovfLog = s.ovfLog := rfl
@[simp] theorem modCe_ovfOver (s : State) (ax ch : Nat) (number : BitVec 32) (f : CeItem → CeItem) :
    (modCe s ax ch number f).ovfOver = s.ovfOver := rfl
@[simp] theorem modCe_ovfSat (s : State) (ax ch : Nat) (number : BitVec 32) (f : CeItem → CeItem) :
    (modCe s ax ch number f).ovfSat = s.ovfSat := rfl
@[simp] theorem modCe_normStep (s : State) (ax ch : Nat) (number : BitVec 32) (f : CeItem → CeItem) :
    (modCe s ax ch number f).normStep = s.normStep := rfl
@[simp] theorem modCe_trees (s : State) (ax ch : Nat) (number : BitVec 32) (f : CeItem → CeItem) :
    (modCe s ax ch number f).trees = s.trees := rfl
@[simp] theorem modCe_mem (s : State) (ax ch : Nat) (number : BitVec 32) (f : CeItem → CeItem) : (modCe s ax ch number f).mem = s.mem := rfl
@[simp] theorem modCe_fab (s : State) (ax ch : Nat) (number : BitVec 32) (f : CeItem → CeItem) : (modCe s ax ch number f).fab = s.fab := rfl
@[simp] theorem modCe_hamper (s : State) (ax ch : Nat) (number : BitVec 32) (f : CeItem → CeItem) :
    (modCe s ax ch number f).hamper = s.hamper := rfl
@[simp] theorem modCe_vkx (s : State) (ax ch : Nat) (number : BitVec 32) (f : CeItem → CeItem) : (modCe s ax ch number f).vkx = s.vkx := rfl
@[simp] theorem modCe_phys (s : State) (ax ch : Nat) (number : BitVec 32) (f : CeItem → CeItem) :
    (modCe s ax ch number f).phys = s.phys := rfl
@[simp] theorem modCe_out (s : State) (ax ch : Nat) (number : BitVec 32) (f : CeItem → CeItem) : (modCe s ax ch number f).out = s.out := rfl
@[simp] theorem modCe_free (s : State) (ax ch : Nat) (number : BitVec 32) (f : CeItem → CeItem) :
    (modCe s ax ch number f).free = s.free := rfl

/-! `modOrder` -/

@[simp] theorem modOrder_pending (s : State) (n : BitVec 16) (f : Order → Order) : (modOrder s n f).pending = s.pending := rfl
@[simp] theorem modOrder_grade (s : State) (n : BitVec 16) (f : Order → Order) : (modOrder s n f).grade = s.grade := rfl
@[simp] theorem modOrder_serial (s : State) (n : BitVec 16) (f : Order → Order) : (modOrder s n f).serial = s.serial := rfl
@[simp] theorem modOrder_trust (s : State) (n : BitVec 16) (f : Order → Order) : (modOrder s n f).trust = s.trust := rfl
@[simp] theorem modOrder_factoryBad (s : State) (n : BitVec 16) (f : Order → Order) : (modOrder s n f).factoryBad = s.factoryBad := rfl
@[simp] theorem modOrder_time (s : State) (n : BitVec 16) (f : Order → Order) : (modOrder s n f).time = s.time := rfl
@[simp] theorem modOrder_firm (s : State) (n : BitVec 16) (f : Order → Order) : (modOrder s n f).firm = s.firm := rfl
@[simp] theorem modOrder_tiles (s : State) (n : BitVec 16) (f : Order → Order) : (modOrder s n f).tiles = s.tiles := rfl
@[simp] theorem modOrder_saved (s : State) (n : BitVec 16) (f : Order → Order) : (modOrder s n f).saved = s.saved := rfl
@[simp] theorem modOrder_slots (s : State) (n : BitVec 16) (f : Order → Order) : (modOrder s n f).slots = s.slots := rfl
@[simp] theorem modOrder_prog (s : State) (n : BitVec 16) (f : Order → Order) : (modOrder s n f).prog = s.prog := rfl
@[simp] theorem modOrder_cluster (s : State) (n : BitVec 16) (f : Order → Order) : (modOrder s n f).cluster = s.cluster := rfl
@[simp] theorem modOrder_dieSync (s : State) (n : BitVec 16) (f : Order → Order) : (modOrder s n f).dieSync = s.dieSync := rfl
@[simp] theorem modOrder_samples (s : State) (n : BitVec 16) (f : Order → Order) : (modOrder s n f).samples = s.samples := rfl
@[simp] theorem modOrder_closed (s : State) (n : BitVec 16) (f : Order → Order) : (modOrder s n f).closed = s.closed := rfl
@[simp] theorem modOrder_ovfLog (s : State) (n : BitVec 16) (f : Order → Order) : (modOrder s n f).ovfLog = s.ovfLog := rfl
@[simp] theorem modOrder_ovfOver (s : State) (n : BitVec 16) (f : Order → Order) : (modOrder s n f).ovfOver = s.ovfOver := rfl
@[simp] theorem modOrder_ovfSat (s : State) (n : BitVec 16) (f : Order → Order) : (modOrder s n f).ovfSat = s.ovfSat := rfl
@[simp] theorem modOrder_normStep (s : State) (n : BitVec 16) (f : Order → Order) : (modOrder s n f).normStep = s.normStep := rfl
@[simp] theorem modOrder_trees (s : State) (n : BitVec 16) (f : Order → Order) : (modOrder s n f).trees = s.trees := rfl
@[simp] theorem modOrder_mem (s : State) (n : BitVec 16) (f : Order → Order) : (modOrder s n f).mem = s.mem := rfl
@[simp] theorem modOrder_ces (s : State) (n : BitVec 16) (f : Order → Order) : (modOrder s n f).ces = s.ces := rfl
@[simp] theorem modOrder_hamper (s : State) (n : BitVec 16) (f : Order → Order) : (modOrder s n f).hamper = s.hamper := rfl
@[simp] theorem modOrder_vkx (s : State) (n : BitVec 16) (f : Order → Order) : (modOrder s n f).vkx = s.vkx := rfl
@[simp] theorem modOrder_phys (s : State) (n : BitVec 16) (f : Order → Order) : (modOrder s n f).phys = s.phys := rfl
@[simp] theorem modOrder_out (s : State) (n : BitVec 16) (f : Order → Order) : (modOrder s n f).out = s.out := rfl
@[simp] theorem modOrder_free (s : State) (n : BitVec 16) (f : Order → Order) : (modOrder s n f).free = s.free := rfl

/-! `modCircuit` -/

@[simp] theorem modCircuit_pending (s : State) (h : Handle) (f : Circuit → Circuit) : (modCircuit s h f).pending = s.pending := rfl
@[simp] theorem modCircuit_grade (s : State) (h : Handle) (f : Circuit → Circuit) : (modCircuit s h f).grade = s.grade := rfl
@[simp] theorem modCircuit_serial (s : State) (h : Handle) (f : Circuit → Circuit) : (modCircuit s h f).serial = s.serial := rfl
@[simp] theorem modCircuit_trust (s : State) (h : Handle) (f : Circuit → Circuit) : (modCircuit s h f).trust = s.trust := rfl
@[simp] theorem modCircuit_factoryBad (s : State) (h : Handle) (f : Circuit → Circuit) : (modCircuit s h f).factoryBad = s.factoryBad := rfl
@[simp] theorem modCircuit_time (s : State) (h : Handle) (f : Circuit → Circuit) : (modCircuit s h f).time = s.time := rfl
@[simp] theorem modCircuit_firm (s : State) (h : Handle) (f : Circuit → Circuit) : (modCircuit s h f).firm = s.firm := rfl
@[simp] theorem modCircuit_tiles (s : State) (h : Handle) (f : Circuit → Circuit) : (modCircuit s h f).tiles = s.tiles := rfl
@[simp] theorem modCircuit_saved (s : State) (h : Handle) (f : Circuit → Circuit) : (modCircuit s h f).saved = s.saved := rfl
@[simp] theorem modCircuit_slots (s : State) (h : Handle) (f : Circuit → Circuit) : (modCircuit s h f).slots = s.slots := rfl
@[simp] theorem modCircuit_prog (s : State) (h : Handle) (f : Circuit → Circuit) : (modCircuit s h f).prog = s.prog := rfl
@[simp] theorem modCircuit_cluster (s : State) (h : Handle) (f : Circuit → Circuit) : (modCircuit s h f).cluster = s.cluster := rfl
@[simp] theorem modCircuit_dieSync (s : State) (h : Handle) (f : Circuit → Circuit) : (modCircuit s h f).dieSync = s.dieSync := rfl
@[simp] theorem modCircuit_samples (s : State) (h : Handle) (f : Circuit → Circuit) : (modCircuit s h f).samples = s.samples := rfl
@[simp] theorem modCircuit_closed (s : State) (h : Handle) (f : Circuit → Circuit) : (modCircuit s h f).closed = s.closed := rfl
@[simp] theorem modCircuit_ovfLog (s : State) (h : Handle) (f : Circuit → Circuit) : (modCircuit s h f).ovfLog = s.ovfLog := rfl
@[simp] theorem modCircuit_ovfOver (s : State) (h : Handle) (f : Circuit → Circuit) : (modCircuit s h f).ovfOver = s.ovfOver := rfl
@[simp] theorem modCircuit_ovfSat (s : State) (h : Handle) (f : Circuit → Circuit) : (modCircuit s h f).ovfSat = s.ovfSat := rfl
@[simp] theorem modCircuit_normStep (s : State) (h : Handle) (f : Circuit → Circuit) : (modCircuit s h f).normStep = s.normStep := rfl
@[simp] theorem modCircuit_trees (s : State) (h : Handle) (f : Circuit → Circuit) : (modCircuit s h f).trees = s.trees := rfl
@[simp] theorem modCircuit_mem (s : State) (h : Handle) (f : Circuit → Circuit) : (modCircuit s h f).mem = s.mem := rfl
@[simp] theorem modCircuit_ces (s : State) (h : Handle) (f : Circuit → Circuit) : (modCircuit s h f).ces = s.ces := rfl
@[simp] theorem modCircuit_hamper (s : State) (h : Handle) (f : Circuit → Circuit) : (modCircuit s h f).hamper = s.hamper := rfl
@[simp] theorem modCircuit_vkx (s : State) (h : Handle) (f : Circuit → Circuit) : (modCircuit s h f).vkx = s.vkx := rfl
@[simp] theorem modCircuit_phys (s : State) (h : Handle) (f : Circuit → Circuit) : (modCircuit s h f).phys = s.phys := rfl
@[simp] theorem modCircuit_out (s : State) (h : Handle) (f : Circuit → Circuit) : (modCircuit s h f).out = s.out := rfl
@[simp] theorem modCircuit_free (s : State) (h : Handle) (f : Circuit → Circuit) : (modCircuit s h f).free = s.free := rfl

/-! `dropChange` -/

@[simp] theorem dropChange_pending (s : State) (k : Nat) : (dropChange s k).pending = s.pending := rfl
@[simp] theorem dropChange_grade (s : State) (k : Nat) : (dropChange s k).grade = s.grade := rfl
@[simp] theorem dropChange_serial (s : State) (k : Nat) : (dropChange s k).serial = s.serial := rfl
@[simp] theorem dropChange_trust (s : State) (k : Nat) : (dropChange s k).trust = s.trust := rfl
@[simp] theorem dropChange_factoryBad (s : State) (k : Nat) : (dropChange s k).factoryBad = s.factoryBad := rfl
@[simp] theorem dropChange_time (s : State) (k : Nat) : (dropChange s k).time = s.time := rfl
@[simp] theorem dropChange_firm (s : State) (k : Nat) : (dropChange s k).firm = s.firm := rfl
@[simp] theorem dropChange_tiles (s : State) (k : Nat) : (dropChange s k).tiles = s.tiles := rfl
@[simp] theorem dropChange_saved (s : State) (k : Nat) : (dropChange s k).saved = s.saved := rfl
@[simp] theorem dropChange_slots (s : State) (k : Nat) : (dropChange s k).slots = s.slots := rfl
@[simp] theorem dropChange_prog (s : State) (k : Nat) : (dropChange s k).prog = s.prog := rfl
@[simp] theorem dropChange_cluster (s : State) (k : Nat) : (dropChange s k).cluster = s.cluster := rfl
@[simp] theorem dropChange_dieSync (s : State) (k : Nat) : (dropChange s k).dieSync = s.dieSync := rfl
@[simp] theorem dropChange_samples (s : State) (k : Nat) : (dropChange s k).samples = s.samples := rfl
@[simp] theorem dropChange_closed (s : State) (k : Nat) : (dropChange s k).closed = s.closed := rfl
@[simp] theorem dropChange_ovfLog (s : State) (k : Nat) : (dropChange s k).ovfLog = s.ovfLog := rfl
@[simp] theorem dropChange_ovfOver (s : State) (k : Nat) : (dropChange s k).ovfOver = s.ovfOver := rfl
@[simp] theorem dropChange_ovfSat (s : State) (k : Nat) : (dropChange s k).ovfSat = s.ovfSat := rfl
@[simp] theorem dropChange_normStep (s : State) (k : Nat) : (dropChange s k).normStep = s.normStep := rfl
@[simp] theorem dropChange_trees (s : State) (k : Nat) : (dropChange s k).trees = s.trees := rfl
@[simp] theorem dropChange_mem (s : State) (k : Nat) : (dropChange s k).mem = s.mem := rfl
@[simp] theorem dropChange_ces (s : State) (k : Nat) : (dropChange s k).ces = s.ces := rfl
@[simp] theorem dropChange_hamper (s : State) (k : Nat) : (dropChange s k).hamper = s.hamper := rfl
@[simp] theorem dropChange_vkx (s : State) (k : Nat) : (dropChange s k).vkx = s.vkx := rfl
@[simp] theorem dropChange_phys (s : State) (k : Nat) : (dropChange s k).phys = s.phys := rfl
@[simp] theorem dropChange_out (s : State) (k : Nat) : (dropChange s k).out = s.out := rfl
@[simp] theorem dropChange_free (s : State) (k : Nat) : (dropChange s k).free = s.free := rfl

/-! `popBuffer` -/

@[simp] theorem popBuffer_pending (s : State) (k : Nat) : (popBuffer s k).pending = s.pending := rfl
@[simp] theorem popBuffer_grade (s : State) (k : Nat) : (popBuffer s k).grade = s.grade := rfl
@[simp] theorem popBuffer_serial (s : State) (k : Nat) : (popBuffer s k).serial = s.serial := rfl
@[simp] theorem popBuffer_trust (s : State) (k : Nat) : (popBuffer s k).trust = s.trust := rfl
@[simp] theorem popBuffer_factoryBad (s : State) (k : Nat) : (popBuffer s k).factoryBad = s.factoryBad := rfl
@[simp] theorem popBuffer_time (s : State) (k : Nat) : (popBuffer s k).time = s.time := rfl
@[simp] theorem popBuffer_firm (s : State) (k : Nat) : (popBuffer s k).firm = s.firm := rfl
@[simp] theorem popBuffer_tiles (s : State) (k : Nat) : (popBuffer s k).tiles = s.tiles := rfl
@[simp] theorem popBuffer_saved (s : State) (k : Nat) : (popBuffer s k).saved = s.saved := rfl
@[simp] theorem popBuffer_slots (s : State) (k : Nat) : (popBuffer s k).slots = s.slots := rfl
@[simp] theorem popBuffer_prog (s : State) (k : Nat) : (popBuffer s k).prog = s.prog := rfl
@[simp] theorem popBuffer_cluster (s : State) (k : Nat) : (popBuffer s k).cluster = s.cluster := rfl
@[simp] theorem popBuffer_dieSync (s : State) (k : Nat) : (popBuffer s k).dieSync = s.dieSync := rfl
@[simp] theorem popBuffer_samples (s : State) (k : Nat) : (popBuffer s k).samples = s.samples := rfl
@[simp] theorem popBuffer_closed (s : State) (k : Nat) : (popBuffer s k).closed = s.closed := rfl
@[simp] theorem popBuffer_ovfLog (s : State) (k : Nat) : (popBuffer s k).ovfLog = s.ovfLog := rfl
@[simp] theorem popBuffer_ovfOver (s : State) (k : Nat) : (popBuffer s k).ovfOver = s.ovfOver := rfl
@[simp] theorem popBuffer_ovfSat (s : State) (k : Nat) : (popBuffer s k).ovfSat = s.ovfSat := rfl
@[simp] theorem popBuffer_normStep (s : State) (k : Nat) : (popBuffer s k).normStep = s.normStep := rfl
@[simp] theorem popBuffer_trees (s : State) (k : Nat) : (popBuffer s k).trees = s.trees := rfl
@[simp] theorem popBuffer_mem (s : State) (k : Nat) : (popBuffer s k).mem = s.mem := rfl
@[simp] theorem popBuffer_ces (s : State) (k : Nat) : (popBuffer s k).ces = s.ces := rfl
@[simp] theorem popBuffer_hamper (s : State) (k : Nat) : (popBuffer s k).hamper = s.hamper := rfl
@[simp] theorem popBuffer_vkx (s : State) (k : Nat) : (popBuffer s k).vkx = s.vkx := rfl
@[simp] theorem popBuffer_phys (s : State) (k : Nat) : (popBuffer s k).phys = s.phys := rfl
@[simp] theorem popBuffer_out (s : State) (k : Nat) : (popBuffer s k).out = s.out := rfl
@[simp] theorem popBuffer_free (s : State) (k : Nat) : (popBuffer s k).free = s.free := rfl

/-! `taking` -/

@[simp] theorem taking_pending (s : State) (c : PendCmd) : (taking s c).pending = s.pending := rfl
@[simp] theorem taking_grade (s : State) (c : PendCmd) : (taking s c).grade = s.grade := rfl
@[simp] theorem taking_serial (s : State) (c : PendCmd) : (taking s c).serial = s.serial := rfl
@[simp] theorem taking_trust (s : State) (c : PendCmd) : (taking s c).trust = s.trust := rfl
@[simp] theorem taking_factoryBad (s : State) (c : PendCmd) : (taking s c).factoryBad = s.factoryBad := rfl
@[simp] theorem taking_time (s : State) (c : PendCmd) : (taking s c).time = s.time := rfl
@[simp] theorem taking_tiles (s : State) (c : PendCmd) : (taking s c).tiles = s.tiles := rfl
@[simp] theorem taking_saved (s : State) (c : PendCmd) : (taking s c).saved = s.saved := rfl
@[simp] theorem taking_slots (s : State) (c : PendCmd) : (taking s c).slots = s.slots := rfl
@[simp] theorem taking_prog (s : State) (c : PendCmd) : (taking s c).prog = s.prog := rfl
@[simp] theorem taking_cluster (s : State) (c : PendCmd) : (taking s c).cluster = s.cluster := rfl
@[simp] theorem taking_dieSync (s : State) (c : PendCmd) : (taking s c).dieSync = s.dieSync := rfl
@[simp] theorem taking_samples (s : State) (c : PendCmd) : (taking s c).samples = s.samples := rfl
@[simp] theorem taking_closed (s : State) (c : PendCmd) : (taking s c).closed = s.closed := rfl
@[simp] theorem taking_ovfLog (s : State) (c : PendCmd) : (taking s c).ovfLog = s.ovfLog := rfl
@[simp] theorem taking_ovfOver (s : State) (c : PendCmd) : (taking s c).ovfOver = s.ovfOver := rfl
@[simp] theorem taking_ovfSat (s : State) (c : PendCmd) : (taking s c).ovfSat = s.ovfSat := rfl
@[simp] theorem taking_normStep (s : State) (c : PendCmd) : (taking s c).normStep = s.normStep := rfl
@[simp] theorem taking_trees (s : State) (c : PendCmd) : (taking s c).trees = s.trees := rfl
@[simp] theorem taking_mem (s : State) (c : PendCmd) : (taking s c).mem = s.mem := rfl
@[simp] theorem taking_fab (s : State) (c : PendCmd) : (taking s c).fab = s.fab := rfl
@[simp] theorem taking_ces (s : State) (c : PendCmd) : (taking s c).ces = s.ces := rfl
@[simp] theorem taking_hamper (s : State) (c : PendCmd) : (taking s c).hamper = s.hamper := rfl
@[simp] theorem taking_vkx (s : State) (c : PendCmd) : (taking s c).vkx = s.vkx := rfl
@[simp] theorem taking_phys (s : State) (c : PendCmd) : (taking s c).phys = s.phys := rfl
@[simp] theorem taking_out (s : State) (c : PendCmd) : (taking s c).out = s.out := rfl
@[simp] theorem taking_free (s : State) (c : PendCmd) : (taking s c).free = s.free := rfl

/-! `untake` -/

@[simp] theorem untake_pending (s : State) (c : PendCmd) : (untake s c).pending = s.pending := rfl
@[simp] theorem untake_grade (s : State) (c : PendCmd) : (untake s c).grade = s.grade := rfl
@[simp] theorem untake_serial (s : State) (c : PendCmd) : (untake s c).serial = s.serial := rfl
@[simp] theorem untake_trust (s : State) (c : PendCmd) : (untake s c).trust = s.trust := rfl
@[simp] theorem untake_factoryBad (s : State) (c : PendCmd) : (untake s c).factoryBad = s.factoryBad := rfl
@[simp] theorem untake_time (s : State) (c : PendCmd) : (untake s c).time = s.time := rfl
@[simp] theorem untake_tiles (s : State) (c : PendCmd) : (untake s c).tiles = s.tiles := rfl
@[simp] theorem untake_saved (s : State) (c : PendCmd) : (untake s c).saved = s.saved := rfl
@[simp] theorem untake_slots (s : State) (c : PendCmd) : (untake s c).slots = s.slots := rfl
@[simp] theorem untake_prog (s : State) (c : PendCmd) : (untake s c).prog = s.prog := rfl
@[simp] theorem untake_cluster (s : State) (c : PendCmd) : (untake s c).cluster = s.cluster := rfl
@[simp] theorem untake_dieSync (s : State) (c : PendCmd) : (untake s c).dieSync = s.dieSync := rfl
@[simp] theorem untake_samples (s : State) (c : PendCmd) : (untake s c).samples = s.samples := rfl
@[simp] theorem untake_closed (s : State) (c : PendCmd) : (untake s c).closed = s.closed := rfl
@[simp] theorem untake_ovfLog (s : State) (c : PendCmd) : (untake s c).ovfLog = s.ovfLog := rfl
@[simp] theorem untake_ovfOver (s : State) (c : PendCmd) : (untake s c).ovfOver = s.ovfOver := rfl
@[simp] theorem untake_ovfSat (s : State) (c : PendCmd) : (untake s c).ovfSat = s.ovfSat := rfl
@[simp] theorem untake_normStep (s : State) (c : PendCmd) : (untake s c).normStep = s.normStep := rfl
@[simp] theorem untake_trees (s : State) (c : PendCmd) : (untake s c).trees = s.trees := rfl
@[simp] theorem untake_mem (s : State) (c : PendCmd) : (untake s c).mem = s.mem := rfl
@[simp] theorem untake_fab (s : State) (c : PendCmd) : (untake s c).fab = s.fab := rfl
@[simp] theorem untake_ces (s : State) (c : PendCmd) : (untake s c).ces = s.ces := rfl
@[simp] theorem untake_hamper (s : State) (c : PendCmd) : (untake s c).hamper = s.hamper := rfl
@[simp] theorem untake_vkx (s : State) (c : PendCmd) : (untake s c).vkx = s.vkx := rfl
@[simp] theorem untake_phys (s : State) (c : PendCmd) : (untake s c).phys = s.phys := rfl
@[simp] theorem untake_out (s : State) (c : PendCmd) : (untake s c).out = s.out := rfl
@[simp] theorem untake_free (s : State) (c : PendCmd) : (untake s c).free = s.free := rfl

/-! `accepted` -/

@[simp] theorem accepted_pending (s : State) (c : PendCmd) : (accepted s c).pending = s.pending := rfl
@[simp] theorem accepted_grade (s : State) (c : PendCmd) : (accepted s c).grade = s.grade := rfl
@[simp] theorem accepted_serial (s : State) (c : PendCmd) : (accepted s c).serial = s.serial := rfl
@[simp] theorem accepted_trust (s : State) (c : PendCmd) : (accepted s c).trust = s.trust := rfl
@[simp] theorem accepted_factoryBad (s : State) (c : PendCmd) : (accepted s c).factoryBad = s.factoryBad := rfl
@[simp] theorem accepted_time (s : State) (c : PendCmd) : (accepted s c).time = s.time := rfl
@[simp] theorem accepted_tiles (s : State) (c : PendCmd) : (accepted s c).tiles = s.tiles := rfl
@[simp] theorem accepted_saved (s : State) (c : PendCmd) : (accepted s c).saved = s.saved := rfl
@[simp] theorem accepted_slots (s : State) (c : PendCmd) : (accepted s c).slots = s.slots := rfl
@[simp] theorem accepted_prog (s : State) (c : PendCmd) : (accepted s c).prog = s.prog := rfl
@[simp] theorem accepted_cluster (s : State) (c : PendCmd) : (accepted s c).cluster = s.cluster := rfl
@[simp] theorem accepted_dieSync (s : State) (c : PendCmd) : (accepted s c).dieSync = s.dieSync := rfl
@[simp] theorem accepted_samples (s : State) (c : PendCmd) : (accepted s c).samples = s.samples := rfl
@[simp] theorem accepted_closed (s : State) (c : PendCmd) : (accepted s c).closed = s.closed := rfl
@[simp] theorem accepted_ovfLog (s : State) (c : PendCmd) : (accepted s c).ovfLog = s.ovfLog := rfl
@[simp] theorem accepted_ovfOver (s : State) (c : PendCmd) : (accepted s c).ovfOver = s.ovfOver := rfl
@[simp] theorem accepted_ovfSat (s : State) (c : PendCmd) : (accepted s c).ovfSat = s.ovfSat := rfl
@[simp] theorem accepted_normStep (s : State) (c : PendCmd) : (accepted s c).normStep = s.normStep := rfl
@[simp] theorem accepted_trees (s : State) (c : PendCmd) : (accepted s c).trees = s.trees := rfl
@[simp] theorem accepted_mem (s : State) (c : PendCmd) : (accepted s c).mem = s.mem := rfl
@[simp] theorem accepted_fab (s : State) (c : PendCmd) : (accepted s c).fab = s.fab := rfl
@[simp] theorem accepted_ces (s : State) (c : PendCmd) : (accepted s c).ces = s.ces := rfl
@[simp] theorem accepted_hamper (s : State) (c : PendCmd) : (accepted s c).hamper = s.hamper := rfl
@[simp] theorem accepted_vkx (s : State) (c : PendCmd) : (accepted s c).vkx = s.vkx := rfl
@[simp] theorem accepted_phys (s : State) (c : PendCmd) : (accepted s c).phys = s.phys := rfl
@[simp] theorem accepted_out (s : State) (c : PendCmd) : (accepted s c).out = s.out := rfl
@[simp] theorem accepted_free (s : State) (c : PendCmd) : (accepted s c).free = s.free := rfl

/-! `takeSeq` -/

@[simp] theorem takeSeq_pending (s : State) (t : Nat) (st : Stream) : (takeSeq s t st).pending = s.pending := rfl
@[simp] theorem takeSeq_grade (s : State) (t : Nat) (st : Stream) : (takeSeq s t st).grade = s.grade := rfl
@[simp] theorem takeSeq_serial (s : State) (t : Nat) (st : Stream) : (takeSeq s t st).serial = s.serial := rfl
@[simp] theorem takeSeq_trust (s : State) (t : Nat) (st : Stream) : (takeSeq s t st).trust = s.trust := rfl
@[simp] theorem takeSeq_factoryBad (s : State) (t : Nat) (st : Stream) : (takeSeq s t st).factoryBad = s.factoryBad := rfl
@[simp] theorem takeSeq_time (s : State) (t : Nat) (st : Stream) : (takeSeq s t st).time = s.time := rfl
@[simp] theorem takeSeq_firm (s : State) (t : Nat) (st : Stream) : (takeSeq s t st).firm = s.firm := rfl
@[simp] theorem takeSeq_saved (s : State) (t : Nat) (st : Stream) : (takeSeq s t st).saved = s.saved := rfl
@[simp] theorem takeSeq_slots (s : State) (t : Nat) (st : Stream) : (takeSeq s t st).slots = s.slots := rfl
@[simp] theorem takeSeq_prog (s : State) (t : Nat) (st : Stream) : (takeSeq s t st).prog = s.prog := rfl
@[simp] theorem takeSeq_cluster (s : State) (t : Nat) (st : Stream) : (takeSeq s t st).cluster = s.cluster := rfl
@[simp] theorem takeSeq_dieSync (s : State) (t : Nat) (st : Stream) : (takeSeq s t st).dieSync = s.dieSync := rfl
@[simp] theorem takeSeq_samples (s : State) (t : Nat) (st : Stream) : (takeSeq s t st).samples = s.samples := rfl
@[simp] theorem takeSeq_closed (s : State) (t : Nat) (st : Stream) : (takeSeq s t st).closed = s.closed := rfl
@[simp] theorem takeSeq_ovfLog (s : State) (t : Nat) (st : Stream) : (takeSeq s t st).ovfLog = s.ovfLog := rfl
@[simp] theorem takeSeq_ovfOver (s : State) (t : Nat) (st : Stream) : (takeSeq s t st).ovfOver = s.ovfOver := rfl
@[simp] theorem takeSeq_ovfSat (s : State) (t : Nat) (st : Stream) : (takeSeq s t st).ovfSat = s.ovfSat := rfl
@[simp] theorem takeSeq_normStep (s : State) (t : Nat) (st : Stream) : (takeSeq s t st).normStep = s.normStep := rfl
@[simp] theorem takeSeq_trees (s : State) (t : Nat) (st : Stream) : (takeSeq s t st).trees = s.trees := rfl
@[simp] theorem takeSeq_mem (s : State) (t : Nat) (st : Stream) : (takeSeq s t st).mem = s.mem := rfl
@[simp] theorem takeSeq_fab (s : State) (t : Nat) (st : Stream) : (takeSeq s t st).fab = s.fab := rfl
@[simp] theorem takeSeq_ces (s : State) (t : Nat) (st : Stream) : (takeSeq s t st).ces = s.ces := rfl
@[simp] theorem takeSeq_hamper (s : State) (t : Nat) (st : Stream) : (takeSeq s t st).hamper = s.hamper := rfl
@[simp] theorem takeSeq_vkx (s : State) (t : Nat) (st : Stream) : (takeSeq s t st).vkx = s.vkx := rfl
@[simp] theorem takeSeq_phys (s : State) (t : Nat) (st : Stream) : (takeSeq s t st).phys = s.phys := rfl
@[simp] theorem takeSeq_out (s : State) (t : Nat) (st : Stream) : (takeSeq s t st).out = s.out := rfl
@[simp] theorem takeSeq_free (s : State) (t : Nat) (st : Stream) : (takeSeq s t st).free = s.free := rfl

/-! `drawN` -/

@[simp] theorem drawN_pending (s : State) (t : Nat) (st : Stream) (n : Nat) : (drawN s t st n).pending = s.pending := rfl
@[simp] theorem drawN_grade (s : State) (t : Nat) (st : Stream) (n : Nat) : (drawN s t st n).grade = s.grade := rfl
@[simp] theorem drawN_serial (s : State) (t : Nat) (st : Stream) (n : Nat) : (drawN s t st n).serial = s.serial := rfl
@[simp] theorem drawN_trust (s : State) (t : Nat) (st : Stream) (n : Nat) : (drawN s t st n).trust = s.trust := rfl
@[simp] theorem drawN_factoryBad (s : State) (t : Nat) (st : Stream) (n : Nat) : (drawN s t st n).factoryBad = s.factoryBad := rfl
@[simp] theorem drawN_time (s : State) (t : Nat) (st : Stream) (n : Nat) : (drawN s t st n).time = s.time := rfl
@[simp] theorem drawN_firm (s : State) (t : Nat) (st : Stream) (n : Nat) : (drawN s t st n).firm = s.firm := rfl
@[simp] theorem drawN_saved (s : State) (t : Nat) (st : Stream) (n : Nat) : (drawN s t st n).saved = s.saved := rfl
@[simp] theorem drawN_slots (s : State) (t : Nat) (st : Stream) (n : Nat) : (drawN s t st n).slots = s.slots := rfl
@[simp] theorem drawN_prog (s : State) (t : Nat) (st : Stream) (n : Nat) : (drawN s t st n).prog = s.prog := rfl
@[simp] theorem drawN_cluster (s : State) (t : Nat) (st : Stream) (n : Nat) : (drawN s t st n).cluster = s.cluster := rfl
@[simp] theorem drawN_dieSync (s : State) (t : Nat) (st : Stream) (n : Nat) : (drawN s t st n).dieSync = s.dieSync := rfl
@[simp] theorem drawN_samples (s : State) (t : Nat) (st : Stream) (n : Nat) : (drawN s t st n).samples = s.samples := rfl
@[simp] theorem drawN_closed (s : State) (t : Nat) (st : Stream) (n : Nat) : (drawN s t st n).closed = s.closed := rfl
@[simp] theorem drawN_ovfLog (s : State) (t : Nat) (st : Stream) (n : Nat) : (drawN s t st n).ovfLog = s.ovfLog := rfl
@[simp] theorem drawN_ovfOver (s : State) (t : Nat) (st : Stream) (n : Nat) : (drawN s t st n).ovfOver = s.ovfOver := rfl
@[simp] theorem drawN_ovfSat (s : State) (t : Nat) (st : Stream) (n : Nat) : (drawN s t st n).ovfSat = s.ovfSat := rfl
@[simp] theorem drawN_normStep (s : State) (t : Nat) (st : Stream) (n : Nat) : (drawN s t st n).normStep = s.normStep := rfl
@[simp] theorem drawN_trees (s : State) (t : Nat) (st : Stream) (n : Nat) : (drawN s t st n).trees = s.trees := rfl
@[simp] theorem drawN_mem (s : State) (t : Nat) (st : Stream) (n : Nat) : (drawN s t st n).mem = s.mem := rfl
@[simp] theorem drawN_fab (s : State) (t : Nat) (st : Stream) (n : Nat) : (drawN s t st n).fab = s.fab := rfl
@[simp] theorem drawN_ces (s : State) (t : Nat) (st : Stream) (n : Nat) : (drawN s t st n).ces = s.ces := rfl
@[simp] theorem drawN_hamper (s : State) (t : Nat) (st : Stream) (n : Nat) : (drawN s t st n).hamper = s.hamper := rfl
@[simp] theorem drawN_vkx (s : State) (t : Nat) (st : Stream) (n : Nat) : (drawN s t st n).vkx = s.vkx := rfl
@[simp] theorem drawN_phys (s : State) (t : Nat) (st : Stream) (n : Nat) : (drawN s t st n).phys = s.phys := rfl
@[simp] theorem drawN_out (s : State) (t : Nat) (st : Stream) (n : Nat) : (drawN s t st n).out = s.out := rfl
@[simp] theorem drawN_free (s : State) (t : Nat) (st : Stream) (n : Nat) : (drawN s t st n).free = s.free := rfl

/-! `addItem` -/

@[simp] theorem addItem_pending (s : State) (t : Nat) (i : Item) : (addItem s t i).pending = s.pending := rfl
@[simp] theorem addItem_grade (s : State) (t : Nat) (i : Item) : (addItem s t i).grade = s.grade := rfl
@[simp] theorem addItem_serial (s : State) (t : Nat) (i : Item) : (addItem s t i).serial = s.serial := rfl
@[simp] theorem addItem_trust (s : State) (t : Nat) (i : Item) : (addItem s t i).trust = s.trust := rfl
@[simp] theorem addItem_factoryBad (s : State) (t : Nat) (i : Item) : (addItem s t i).factoryBad = s.factoryBad := rfl
@[simp] theorem addItem_time (s : State) (t : Nat) (i : Item) : (addItem s t i).time = s.time := rfl
@[simp] theorem addItem_firm (s : State) (t : Nat) (i : Item) : (addItem s t i).firm = s.firm := rfl
@[simp] theorem addItem_saved (s : State) (t : Nat) (i : Item) : (addItem s t i).saved = s.saved := rfl
@[simp] theorem addItem_slots (s : State) (t : Nat) (i : Item) : (addItem s t i).slots = s.slots := rfl
@[simp] theorem addItem_prog (s : State) (t : Nat) (i : Item) : (addItem s t i).prog = s.prog := rfl
@[simp] theorem addItem_cluster (s : State) (t : Nat) (i : Item) : (addItem s t i).cluster = s.cluster := rfl
@[simp] theorem addItem_dieSync (s : State) (t : Nat) (i : Item) : (addItem s t i).dieSync = s.dieSync := rfl
@[simp] theorem addItem_samples (s : State) (t : Nat) (i : Item) : (addItem s t i).samples = s.samples := rfl
@[simp] theorem addItem_closed (s : State) (t : Nat) (i : Item) : (addItem s t i).closed = s.closed := rfl
@[simp] theorem addItem_ovfLog (s : State) (t : Nat) (i : Item) : (addItem s t i).ovfLog = s.ovfLog := rfl
@[simp] theorem addItem_ovfOver (s : State) (t : Nat) (i : Item) : (addItem s t i).ovfOver = s.ovfOver := rfl
@[simp] theorem addItem_ovfSat (s : State) (t : Nat) (i : Item) : (addItem s t i).ovfSat = s.ovfSat := rfl
@[simp] theorem addItem_normStep (s : State) (t : Nat) (i : Item) : (addItem s t i).normStep = s.normStep := rfl
@[simp] theorem addItem_trees (s : State) (t : Nat) (i : Item) : (addItem s t i).trees = s.trees := rfl
@[simp] theorem addItem_mem (s : State) (t : Nat) (i : Item) : (addItem s t i).mem = s.mem := rfl
@[simp] theorem addItem_fab (s : State) (t : Nat) (i : Item) : (addItem s t i).fab = s.fab := rfl
@[simp] theorem addItem_ces (s : State) (t : Nat) (i : Item) : (addItem s t i).ces = s.ces := rfl
@[simp] theorem addItem_hamper (s : State) (t : Nat) (i : Item) : (addItem s t i).hamper = s.hamper := rfl
@[simp] theorem addItem_vkx (s : State) (t : Nat) (i : Item) : (addItem s t i).vkx = s.vkx := rfl
@[simp] theorem addItem_phys (s : State) (t : Nat) (i : Item) : (addItem s t i).phys = s.phys := rfl
@[simp] theorem addItem_out (s : State) (t : Nat) (i : Item) : (addItem s t i).out = s.out := rfl
@[simp] theorem addItem_free (s : State) (t : Nat) (i : Item) : (addItem s t i).free = s.free := rfl

/-! `noteOnDie` -/

@[simp] theorem noteOnDie_pending (s : State) (k n : Nat) : (noteOnDie s k n).pending = s.pending := rfl
@[simp] theorem noteOnDie_grade (s : State) (k n : Nat) : (noteOnDie s k n).grade = s.grade := rfl
@[simp] theorem noteOnDie_serial (s : State) (k n : Nat) : (noteOnDie s k n).serial = s.serial := rfl
@[simp] theorem noteOnDie_trust (s : State) (k n : Nat) : (noteOnDie s k n).trust = s.trust := rfl
@[simp] theorem noteOnDie_factoryBad (s : State) (k n : Nat) : (noteOnDie s k n).factoryBad = s.factoryBad := rfl
@[simp] theorem noteOnDie_time (s : State) (k n : Nat) : (noteOnDie s k n).time = s.time := rfl
@[simp] theorem noteOnDie_firm (s : State) (k n : Nat) : (noteOnDie s k n).firm = s.firm := rfl
@[simp] theorem noteOnDie_tiles (s : State) (k n : Nat) : (noteOnDie s k n).tiles = s.tiles := rfl
@[simp] theorem noteOnDie_saved (s : State) (k n : Nat) : (noteOnDie s k n).saved = s.saved := rfl
@[simp] theorem noteOnDie_slots (s : State) (k n : Nat) : (noteOnDie s k n).slots = s.slots := rfl
@[simp] theorem noteOnDie_prog (s : State) (k n : Nat) : (noteOnDie s k n).prog = s.prog := rfl
@[simp] theorem noteOnDie_cluster (s : State) (k n : Nat) : (noteOnDie s k n).cluster = s.cluster := rfl
@[simp] theorem noteOnDie_dieSync (s : State) (k n : Nat) : (noteOnDie s k n).dieSync = s.dieSync := rfl
@[simp] theorem noteOnDie_samples (s : State) (k n : Nat) : (noteOnDie s k n).samples = s.samples := rfl
@[simp] theorem noteOnDie_closed (s : State) (k n : Nat) : (noteOnDie s k n).closed = s.closed := rfl
@[simp] theorem noteOnDie_ovfLog (s : State) (k n : Nat) : (noteOnDie s k n).ovfLog = s.ovfLog := rfl
@[simp] theorem noteOnDie_ovfOver (s : State) (k n : Nat) : (noteOnDie s k n).ovfOver = s.ovfOver := rfl
@[simp] theorem noteOnDie_ovfSat (s : State) (k n : Nat) : (noteOnDie s k n).ovfSat = s.ovfSat := rfl
@[simp] theorem noteOnDie_normStep (s : State) (k n : Nat) : (noteOnDie s k n).normStep = s.normStep := rfl
@[simp] theorem noteOnDie_trees (s : State) (k n : Nat) : (noteOnDie s k n).trees = s.trees := rfl
@[simp] theorem noteOnDie_fab (s : State) (k n : Nat) : (noteOnDie s k n).fab = s.fab := rfl
@[simp] theorem noteOnDie_ces (s : State) (k n : Nat) : (noteOnDie s k n).ces = s.ces := rfl
@[simp] theorem noteOnDie_hamper (s : State) (k n : Nat) : (noteOnDie s k n).hamper = s.hamper := rfl
@[simp] theorem noteOnDie_vkx (s : State) (k n : Nat) : (noteOnDie s k n).vkx = s.vkx := rfl
@[simp] theorem noteOnDie_phys (s : State) (k n : Nat) : (noteOnDie s k n).phys = s.phys := rfl
@[simp] theorem noteOnDie_out (s : State) (k n : Nat) : (noteOnDie s k n).out = s.out := rfl
@[simp] theorem noteOnDie_free (s : State) (k n : Nat) : (noteOnDie s k n).free = s.free := rfl

/-! `toldRead` -/

@[simp] theorem toldRead_pending (s : State) (line : Nat) : (toldRead s line).pending = s.pending := rfl
@[simp] theorem toldRead_grade (s : State) (line : Nat) : (toldRead s line).grade = s.grade := rfl
@[simp] theorem toldRead_serial (s : State) (line : Nat) : (toldRead s line).serial = s.serial := rfl
@[simp] theorem toldRead_trust (s : State) (line : Nat) : (toldRead s line).trust = s.trust := rfl
@[simp] theorem toldRead_factoryBad (s : State) (line : Nat) : (toldRead s line).factoryBad = s.factoryBad := rfl
@[simp] theorem toldRead_time (s : State) (line : Nat) : (toldRead s line).time = s.time := rfl
@[simp] theorem toldRead_firm (s : State) (line : Nat) : (toldRead s line).firm = s.firm := rfl
@[simp] theorem toldRead_tiles (s : State) (line : Nat) : (toldRead s line).tiles = s.tiles := rfl
@[simp] theorem toldRead_saved (s : State) (line : Nat) : (toldRead s line).saved = s.saved := rfl
@[simp] theorem toldRead_slots (s : State) (line : Nat) : (toldRead s line).slots = s.slots := rfl
@[simp] theorem toldRead_prog (s : State) (line : Nat) : (toldRead s line).prog = s.prog := rfl
@[simp] theorem toldRead_cluster (s : State) (line : Nat) : (toldRead s line).cluster = s.cluster := rfl
@[simp] theorem toldRead_dieSync (s : State) (line : Nat) : (toldRead s line).dieSync = s.dieSync := rfl
@[simp] theorem toldRead_samples (s : State) (line : Nat) : (toldRead s line).samples = s.samples := rfl
@[simp] theorem toldRead_closed (s : State) (line : Nat) : (toldRead s line).closed = s.closed := rfl
@[simp] theorem toldRead_ovfLog (s : State) (line : Nat) : (toldRead s line).ovfLog = s.ovfLog := rfl
@[simp] theorem toldRead_ovfOver (s : State) (line : Nat) : (toldRead s line).ovfOver = s.ovfOver := rfl
@[simp] theorem toldRead_ovfSat (s : State) (line : Nat) : (toldRead s line).ovfSat = s.ovfSat := rfl
@[simp] theorem toldRead_normStep (s : State) (line : Nat) : (toldRead s line).normStep = s.normStep := rfl
@[simp] theorem toldRead_trees (s : State) (line : Nat) : (toldRead s line).trees = s.trees := rfl
@[simp] theorem toldRead_fab (s : State) (line : Nat) : (toldRead s line).fab = s.fab := rfl
@[simp] theorem toldRead_ces (s : State) (line : Nat) : (toldRead s line).ces = s.ces := rfl
@[simp] theorem toldRead_hamper (s : State) (line : Nat) : (toldRead s line).hamper = s.hamper := rfl
@[simp] theorem toldRead_vkx (s : State) (line : Nat) : (toldRead s line).vkx = s.vkx := rfl
@[simp] theorem toldRead_phys (s : State) (line : Nat) : (toldRead s line).phys = s.phys := rfl
@[simp] theorem toldRead_out (s : State) (line : Nat) : (toldRead s line).out = s.out := rfl
@[simp] theorem toldRead_free (s : State) (line : Nat) : (toldRead s line).free = s.free := rfl

/-! `modStack` -/

@[simp] theorem modStack_pending (s : State) (k : Nat) (f : Stack → Stack) : (modStack s k f).pending = s.pending := rfl
@[simp] theorem modStack_grade (s : State) (k : Nat) (f : Stack → Stack) : (modStack s k f).grade = s.grade := rfl
@[simp] theorem modStack_serial (s : State) (k : Nat) (f : Stack → Stack) : (modStack s k f).serial = s.serial := rfl
@[simp] theorem modStack_trust (s : State) (k : Nat) (f : Stack → Stack) : (modStack s k f).trust = s.trust := rfl
@[simp] theorem modStack_factoryBad (s : State) (k : Nat) (f : Stack → Stack) : (modStack s k f).factoryBad = s.factoryBad := rfl
@[simp] theorem modStack_time (s : State) (k : Nat) (f : Stack → Stack) : (modStack s k f).time = s.time := rfl
@[simp] theorem modStack_firm (s : State) (k : Nat) (f : Stack → Stack) : (modStack s k f).firm = s.firm := rfl
@[simp] theorem modStack_tiles (s : State) (k : Nat) (f : Stack → Stack) : (modStack s k f).tiles = s.tiles := rfl
@[simp] theorem modStack_saved (s : State) (k : Nat) (f : Stack → Stack) : (modStack s k f).saved = s.saved := rfl
@[simp] theorem modStack_slots (s : State) (k : Nat) (f : Stack → Stack) : (modStack s k f).slots = s.slots := rfl
@[simp] theorem modStack_prog (s : State) (k : Nat) (f : Stack → Stack) : (modStack s k f).prog = s.prog := rfl
@[simp] theorem modStack_cluster (s : State) (k : Nat) (f : Stack → Stack) : (modStack s k f).cluster = s.cluster := rfl
@[simp] theorem modStack_dieSync (s : State) (k : Nat) (f : Stack → Stack) : (modStack s k f).dieSync = s.dieSync := rfl
@[simp] theorem modStack_samples (s : State) (k : Nat) (f : Stack → Stack) : (modStack s k f).samples = s.samples := rfl
@[simp] theorem modStack_closed (s : State) (k : Nat) (f : Stack → Stack) : (modStack s k f).closed = s.closed := rfl
@[simp] theorem modStack_ovfLog (s : State) (k : Nat) (f : Stack → Stack) : (modStack s k f).ovfLog = s.ovfLog := rfl
@[simp] theorem modStack_ovfOver (s : State) (k : Nat) (f : Stack → Stack) : (modStack s k f).ovfOver = s.ovfOver := rfl
@[simp] theorem modStack_ovfSat (s : State) (k : Nat) (f : Stack → Stack) : (modStack s k f).ovfSat = s.ovfSat := rfl
@[simp] theorem modStack_normStep (s : State) (k : Nat) (f : Stack → Stack) : (modStack s k f).normStep = s.normStep := rfl
@[simp] theorem modStack_trees (s : State) (k : Nat) (f : Stack → Stack) : (modStack s k f).trees = s.trees := rfl
@[simp] theorem modStack_fab (s : State) (k : Nat) (f : Stack → Stack) : (modStack s k f).fab = s.fab := rfl
@[simp] theorem modStack_ces (s : State) (k : Nat) (f : Stack → Stack) : (modStack s k f).ces = s.ces := rfl
@[simp] theorem modStack_hamper (s : State) (k : Nat) (f : Stack → Stack) : (modStack s k f).hamper = s.hamper := rfl
@[simp] theorem modStack_vkx (s : State) (k : Nat) (f : Stack → Stack) : (modStack s k f).vkx = s.vkx := rfl
@[simp] theorem modStack_phys (s : State) (k : Nat) (f : Stack → Stack) : (modStack s k f).phys = s.phys := rfl
@[simp] theorem modStack_out (s : State) (k : Nat) (f : Stack → Stack) : (modStack s k f).out = s.out := rfl
@[simp] theorem modStack_free (s : State) (k : Nat) (f : Stack → Stack) : (modStack s k f).free = s.free := rfl

/-! `modSlice` -/

@[simp] theorem modSlice_pending (s : State) (k : Nat) (f : Slice → Slice) : (modSlice s k f).pending = s.pending := rfl
@[simp] theorem modSlice_grade (s : State) (k : Nat) (f : Slice → Slice) : (modSlice s k f).grade = s.grade := rfl
@[simp] theorem modSlice_serial (s : State) (k : Nat) (f : Slice → Slice) : (modSlice s k f).serial = s.serial := rfl
@[simp] theorem modSlice_trust (s : State) (k : Nat) (f : Slice → Slice) : (modSlice s k f).trust = s.trust := rfl
@[simp] theorem modSlice_factoryBad (s : State) (k : Nat) (f : Slice → Slice) : (modSlice s k f).factoryBad = s.factoryBad := rfl
@[simp] theorem modSlice_time (s : State) (k : Nat) (f : Slice → Slice) : (modSlice s k f).time = s.time := rfl
@[simp] theorem modSlice_firm (s : State) (k : Nat) (f : Slice → Slice) : (modSlice s k f).firm = s.firm := rfl
@[simp] theorem modSlice_tiles (s : State) (k : Nat) (f : Slice → Slice) : (modSlice s k f).tiles = s.tiles := rfl
@[simp] theorem modSlice_saved (s : State) (k : Nat) (f : Slice → Slice) : (modSlice s k f).saved = s.saved := rfl
@[simp] theorem modSlice_slots (s : State) (k : Nat) (f : Slice → Slice) : (modSlice s k f).slots = s.slots := rfl
@[simp] theorem modSlice_prog (s : State) (k : Nat) (f : Slice → Slice) : (modSlice s k f).prog = s.prog := rfl
@[simp] theorem modSlice_cluster (s : State) (k : Nat) (f : Slice → Slice) : (modSlice s k f).cluster = s.cluster := rfl
@[simp] theorem modSlice_dieSync (s : State) (k : Nat) (f : Slice → Slice) : (modSlice s k f).dieSync = s.dieSync := rfl
@[simp] theorem modSlice_samples (s : State) (k : Nat) (f : Slice → Slice) : (modSlice s k f).samples = s.samples := rfl
@[simp] theorem modSlice_closed (s : State) (k : Nat) (f : Slice → Slice) : (modSlice s k f).closed = s.closed := rfl
@[simp] theorem modSlice_ovfLog (s : State) (k : Nat) (f : Slice → Slice) : (modSlice s k f).ovfLog = s.ovfLog := rfl
@[simp] theorem modSlice_ovfOver (s : State) (k : Nat) (f : Slice → Slice) : (modSlice s k f).ovfOver = s.ovfOver := rfl
@[simp] theorem modSlice_ovfSat (s : State) (k : Nat) (f : Slice → Slice) : (modSlice s k f).ovfSat = s.ovfSat := rfl
@[simp] theorem modSlice_normStep (s : State) (k : Nat) (f : Slice → Slice) : (modSlice s k f).normStep = s.normStep := rfl
@[simp] theorem modSlice_trees (s : State) (k : Nat) (f : Slice → Slice) : (modSlice s k f).trees = s.trees := rfl
@[simp] theorem modSlice_fab (s : State) (k : Nat) (f : Slice → Slice) : (modSlice s k f).fab = s.fab := rfl
@[simp] theorem modSlice_ces (s : State) (k : Nat) (f : Slice → Slice) : (modSlice s k f).ces = s.ces := rfl
@[simp] theorem modSlice_hamper (s : State) (k : Nat) (f : Slice → Slice) : (modSlice s k f).hamper = s.hamper := rfl
@[simp] theorem modSlice_vkx (s : State) (k : Nat) (f : Slice → Slice) : (modSlice s k f).vkx = s.vkx := rfl
@[simp] theorem modSlice_phys (s : State) (k : Nat) (f : Slice → Slice) : (modSlice s k f).phys = s.phys := rfl
@[simp] theorem modSlice_out (s : State) (k : Nat) (f : Slice → Slice) : (modSlice s k f).out = s.out := rfl
@[simp] theorem modSlice_free (s : State) (k : Nat) (f : Slice → Slice) : (modSlice s k f).free = s.free := rfl

/-! `consumeQ` -/

@[simp] theorem consumeQ_pending (s : State) (via : QVia) : (consumeQ s via).pending = s.pending := rfl
@[simp] theorem consumeQ_grade (s : State) (via : QVia) : (consumeQ s via).grade = s.grade := rfl
@[simp] theorem consumeQ_serial (s : State) (via : QVia) : (consumeQ s via).serial = s.serial := rfl
@[simp] theorem consumeQ_trust (s : State) (via : QVia) : (consumeQ s via).trust = s.trust := rfl
@[simp] theorem consumeQ_factoryBad (s : State) (via : QVia) : (consumeQ s via).factoryBad = s.factoryBad := rfl
@[simp] theorem consumeQ_time (s : State) (via : QVia) : (consumeQ s via).time = s.time := rfl
@[simp] theorem consumeQ_firm (s : State) (via : QVia) : (consumeQ s via).firm = s.firm := rfl
@[simp] theorem consumeQ_tiles (s : State) (via : QVia) : (consumeQ s via).tiles = s.tiles := rfl
@[simp] theorem consumeQ_saved (s : State) (via : QVia) : (consumeQ s via).saved = s.saved := rfl
@[simp] theorem consumeQ_slots (s : State) (via : QVia) : (consumeQ s via).slots = s.slots := rfl
@[simp] theorem consumeQ_prog (s : State) (via : QVia) : (consumeQ s via).prog = s.prog := rfl
@[simp] theorem consumeQ_cluster (s : State) (via : QVia) : (consumeQ s via).cluster = s.cluster := rfl
@[simp] theorem consumeQ_dieSync (s : State) (via : QVia) : (consumeQ s via).dieSync = s.dieSync := rfl
@[simp] theorem consumeQ_samples (s : State) (via : QVia) : (consumeQ s via).samples = s.samples := rfl
@[simp] theorem consumeQ_closed (s : State) (via : QVia) : (consumeQ s via).closed = s.closed := rfl
@[simp] theorem consumeQ_ovfLog (s : State) (via : QVia) : (consumeQ s via).ovfLog = s.ovfLog := rfl
@[simp] theorem consumeQ_ovfOver (s : State) (via : QVia) : (consumeQ s via).ovfOver = s.ovfOver := rfl
@[simp] theorem consumeQ_ovfSat (s : State) (via : QVia) : (consumeQ s via).ovfSat = s.ovfSat := rfl
@[simp] theorem consumeQ_normStep (s : State) (via : QVia) : (consumeQ s via).normStep = s.normStep := rfl
@[simp] theorem consumeQ_trees (s : State) (via : QVia) : (consumeQ s via).trees = s.trees := rfl
@[simp] theorem consumeQ_mem (s : State) (via : QVia) : (consumeQ s via).mem = s.mem := rfl
@[simp] theorem consumeQ_fab (s : State) (via : QVia) : (consumeQ s via).fab = s.fab := rfl
@[simp] theorem consumeQ_ces (s : State) (via : QVia) : (consumeQ s via).ces = s.ces := rfl
@[simp] theorem consumeQ_hamper (s : State) (via : QVia) : (consumeQ s via).hamper = s.hamper := rfl
@[simp] theorem consumeQ_vkx (s : State) (via : QVia) : (consumeQ s via).vkx = s.vkx := rfl
@[simp] theorem consumeQ_phys (s : State) (via : QVia) : (consumeQ s via).phys = s.phys := rfl
@[simp] theorem consumeQ_free (s : State) (via : QVia) : (consumeQ s via).free = s.free := rfl

/-! `ignoreQ` -/

@[simp] theorem ignoreQ_pending (s : State) : (ignoreQ s).pending = s.pending := rfl
@[simp] theorem ignoreQ_grade (s : State) : (ignoreQ s).grade = s.grade := rfl
@[simp] theorem ignoreQ_serial (s : State) : (ignoreQ s).serial = s.serial := rfl
@[simp] theorem ignoreQ_trust (s : State) : (ignoreQ s).trust = s.trust := rfl
@[simp] theorem ignoreQ_factoryBad (s : State) : (ignoreQ s).factoryBad = s.factoryBad := rfl
@[simp] theorem ignoreQ_time (s : State) : (ignoreQ s).time = s.time := rfl
@[simp] theorem ignoreQ_firm (s : State) : (ignoreQ s).firm = s.firm := rfl
@[simp] theorem ignoreQ_tiles (s : State) : (ignoreQ s).tiles = s.tiles := rfl
@[simp] theorem ignoreQ_saved (s : State) : (ignoreQ s).saved = s.saved := rfl
@[simp] theorem ignoreQ_slots (s : State) : (ignoreQ s).slots = s.slots := rfl
@[simp] theorem ignoreQ_prog (s : State) : (ignoreQ s).prog = s.prog := rfl
@[simp] theorem ignoreQ_cluster (s : State) : (ignoreQ s).cluster = s.cluster := rfl
@[simp] theorem ignoreQ_dieSync (s : State) : (ignoreQ s).dieSync = s.dieSync := rfl
@[simp] theorem ignoreQ_samples (s : State) : (ignoreQ s).samples = s.samples := rfl
@[simp] theorem ignoreQ_closed (s : State) : (ignoreQ s).closed = s.closed := rfl
@[simp] theorem ignoreQ_ovfLog (s : State) : (ignoreQ s).ovfLog = s.ovfLog := rfl
@[simp] theorem ignoreQ_ovfOver (s : State) : (ignoreQ s).ovfOver = s.ovfOver := rfl
@[simp] theorem ignoreQ_ovfSat (s : State) : (ignoreQ s).ovfSat = s.ovfSat := rfl
@[simp] theorem ignoreQ_normStep (s : State) : (ignoreQ s).normStep = s.normStep := rfl
@[simp] theorem ignoreQ_trees (s : State) : (ignoreQ s).trees = s.trees := rfl
@[simp] theorem ignoreQ_mem (s : State) : (ignoreQ s).mem = s.mem := rfl
@[simp] theorem ignoreQ_ces (s : State) : (ignoreQ s).ces = s.ces := rfl
@[simp] theorem ignoreQ_hamper (s : State) : (ignoreQ s).hamper = s.hamper := rfl
@[simp] theorem ignoreQ_vkx (s : State) : (ignoreQ s).vkx = s.vkx := rfl
@[simp] theorem ignoreQ_phys (s : State) : (ignoreQ s).phys = s.phys := rfl
@[simp] theorem ignoreQ_out (s : State) : (ignoreQ s).out = s.out := rfl
@[simp] theorem ignoreQ_free (s : State) : (ignoreQ s).free = s.free := rfl

/-! `noteIssue` -/

@[simp] theorem noteIssue_pending (s : State) (t : Nat) (st : Stream) : (noteIssue s t st).pending = s.pending := rfl
@[simp] theorem noteIssue_grade (s : State) (t : Nat) (st : Stream) : (noteIssue s t st).grade = s.grade := rfl
@[simp] theorem noteIssue_serial (s : State) (t : Nat) (st : Stream) : (noteIssue s t st).serial = s.serial := rfl
@[simp] theorem noteIssue_trust (s : State) (t : Nat) (st : Stream) : (noteIssue s t st).trust = s.trust := rfl
@[simp] theorem noteIssue_factoryBad (s : State) (t : Nat) (st : Stream) : (noteIssue s t st).factoryBad = s.factoryBad := rfl
@[simp] theorem noteIssue_time (s : State) (t : Nat) (st : Stream) : (noteIssue s t st).time = s.time := rfl
@[simp] theorem noteIssue_firm (s : State) (t : Nat) (st : Stream) : (noteIssue s t st).firm = s.firm := rfl
@[simp] theorem noteIssue_saved (s : State) (t : Nat) (st : Stream) : (noteIssue s t st).saved = s.saved := rfl
@[simp] theorem noteIssue_slots (s : State) (t : Nat) (st : Stream) : (noteIssue s t st).slots = s.slots := rfl
@[simp] theorem noteIssue_prog (s : State) (t : Nat) (st : Stream) : (noteIssue s t st).prog = s.prog := rfl
@[simp] theorem noteIssue_cluster (s : State) (t : Nat) (st : Stream) : (noteIssue s t st).cluster = s.cluster := rfl
@[simp] theorem noteIssue_dieSync (s : State) (t : Nat) (st : Stream) : (noteIssue s t st).dieSync = s.dieSync := rfl
@[simp] theorem noteIssue_samples (s : State) (t : Nat) (st : Stream) : (noteIssue s t st).samples = s.samples := rfl
@[simp] theorem noteIssue_closed (s : State) (t : Nat) (st : Stream) : (noteIssue s t st).closed = s.closed := rfl
@[simp] theorem noteIssue_ovfLog (s : State) (t : Nat) (st : Stream) : (noteIssue s t st).ovfLog = s.ovfLog := rfl
@[simp] theorem noteIssue_ovfOver (s : State) (t : Nat) (st : Stream) : (noteIssue s t st).ovfOver = s.ovfOver := rfl
@[simp] theorem noteIssue_ovfSat (s : State) (t : Nat) (st : Stream) : (noteIssue s t st).ovfSat = s.ovfSat := rfl
@[simp] theorem noteIssue_normStep (s : State) (t : Nat) (st : Stream) : (noteIssue s t st).normStep = s.normStep := rfl
@[simp] theorem noteIssue_trees (s : State) (t : Nat) (st : Stream) : (noteIssue s t st).trees = s.trees := rfl
@[simp] theorem noteIssue_mem (s : State) (t : Nat) (st : Stream) : (noteIssue s t st).mem = s.mem := rfl
@[simp] theorem noteIssue_fab (s : State) (t : Nat) (st : Stream) : (noteIssue s t st).fab = s.fab := rfl
@[simp] theorem noteIssue_ces (s : State) (t : Nat) (st : Stream) : (noteIssue s t st).ces = s.ces := rfl
@[simp] theorem noteIssue_hamper (s : State) (t : Nat) (st : Stream) : (noteIssue s t st).hamper = s.hamper := rfl
@[simp] theorem noteIssue_vkx (s : State) (t : Nat) (st : Stream) : (noteIssue s t st).vkx = s.vkx := rfl
@[simp] theorem noteIssue_phys (s : State) (t : Nat) (st : Stream) : (noteIssue s t st).phys = s.phys := rfl
@[simp] theorem noteIssue_out (s : State) (t : Nat) (st : Stream) : (noteIssue s t st).out = s.out := rfl
@[simp] theorem noteIssue_free (s : State) (t : Nat) (st : Stream) : (noteIssue s t st).free = s.free := rfl

/-! `interlock` -/

@[simp] theorem interlock_pending (s : State) (t : Nat) (st : Stream) : (interlock s t st).pending = s.pending := rfl
@[simp] theorem interlock_grade (s : State) (t : Nat) (st : Stream) : (interlock s t st).grade = s.grade := rfl
@[simp] theorem interlock_serial (s : State) (t : Nat) (st : Stream) : (interlock s t st).serial = s.serial := rfl
@[simp] theorem interlock_trust (s : State) (t : Nat) (st : Stream) : (interlock s t st).trust = s.trust := rfl
@[simp] theorem interlock_factoryBad (s : State) (t : Nat) (st : Stream) : (interlock s t st).factoryBad = s.factoryBad := rfl
@[simp] theorem interlock_time (s : State) (t : Nat) (st : Stream) : (interlock s t st).time = s.time := rfl
@[simp] theorem interlock_firm (s : State) (t : Nat) (st : Stream) : (interlock s t st).firm = s.firm := rfl
@[simp] theorem interlock_saved (s : State) (t : Nat) (st : Stream) : (interlock s t st).saved = s.saved := rfl
@[simp] theorem interlock_slots (s : State) (t : Nat) (st : Stream) : (interlock s t st).slots = s.slots := rfl
@[simp] theorem interlock_prog (s : State) (t : Nat) (st : Stream) : (interlock s t st).prog = s.prog := rfl
@[simp] theorem interlock_cluster (s : State) (t : Nat) (st : Stream) : (interlock s t st).cluster = s.cluster := rfl
@[simp] theorem interlock_dieSync (s : State) (t : Nat) (st : Stream) : (interlock s t st).dieSync = s.dieSync := rfl
@[simp] theorem interlock_samples (s : State) (t : Nat) (st : Stream) : (interlock s t st).samples = s.samples := rfl
@[simp] theorem interlock_closed (s : State) (t : Nat) (st : Stream) : (interlock s t st).closed = s.closed := rfl
@[simp] theorem interlock_ovfLog (s : State) (t : Nat) (st : Stream) : (interlock s t st).ovfLog = s.ovfLog := rfl
@[simp] theorem interlock_ovfOver (s : State) (t : Nat) (st : Stream) : (interlock s t st).ovfOver = s.ovfOver := rfl
@[simp] theorem interlock_ovfSat (s : State) (t : Nat) (st : Stream) : (interlock s t st).ovfSat = s.ovfSat := rfl
@[simp] theorem interlock_normStep (s : State) (t : Nat) (st : Stream) : (interlock s t st).normStep = s.normStep := rfl
@[simp] theorem interlock_trees (s : State) (t : Nat) (st : Stream) : (interlock s t st).trees = s.trees := rfl
@[simp] theorem interlock_mem (s : State) (t : Nat) (st : Stream) : (interlock s t st).mem = s.mem := rfl
@[simp] theorem interlock_fab (s : State) (t : Nat) (st : Stream) : (interlock s t st).fab = s.fab := rfl
@[simp] theorem interlock_ces (s : State) (t : Nat) (st : Stream) : (interlock s t st).ces = s.ces := rfl
@[simp] theorem interlock_hamper (s : State) (t : Nat) (st : Stream) : (interlock s t st).hamper = s.hamper := rfl
@[simp] theorem interlock_vkx (s : State) (t : Nat) (st : Stream) : (interlock s t st).vkx = s.vkx := rfl
@[simp] theorem interlock_phys (s : State) (t : Nat) (st : Stream) : (interlock s t st).phys = s.phys := rfl
@[simp] theorem interlock_out (s : State) (t : Nat) (st : Stream) : (interlock s t st).out = s.out := rfl
@[simp] theorem interlock_free (s : State) (t : Nat) (st : Stream) : (interlock s t st).free = s.free := rfl

/-! `enqueue` -/

@[simp] theorem enqueue_pending (s : State) (q : Nat) (p : FabPacket) : (enqueue s q p).pending = s.pending := rfl
@[simp] theorem enqueue_grade (s : State) (q : Nat) (p : FabPacket) : (enqueue s q p).grade = s.grade := rfl
@[simp] theorem enqueue_serial (s : State) (q : Nat) (p : FabPacket) : (enqueue s q p).serial = s.serial := rfl
@[simp] theorem enqueue_trust (s : State) (q : Nat) (p : FabPacket) : (enqueue s q p).trust = s.trust := rfl
@[simp] theorem enqueue_factoryBad (s : State) (q : Nat) (p : FabPacket) : (enqueue s q p).factoryBad = s.factoryBad := rfl
@[simp] theorem enqueue_time (s : State) (q : Nat) (p : FabPacket) : (enqueue s q p).time = s.time := rfl
@[simp] theorem enqueue_firm (s : State) (q : Nat) (p : FabPacket) : (enqueue s q p).firm = s.firm := rfl
@[simp] theorem enqueue_tiles (s : State) (q : Nat) (p : FabPacket) : (enqueue s q p).tiles = s.tiles := rfl
@[simp] theorem enqueue_saved (s : State) (q : Nat) (p : FabPacket) : (enqueue s q p).saved = s.saved := rfl
@[simp] theorem enqueue_slots (s : State) (q : Nat) (p : FabPacket) : (enqueue s q p).slots = s.slots := rfl
@[simp] theorem enqueue_prog (s : State) (q : Nat) (p : FabPacket) : (enqueue s q p).prog = s.prog := rfl
@[simp] theorem enqueue_cluster (s : State) (q : Nat) (p : FabPacket) : (enqueue s q p).cluster = s.cluster := rfl
@[simp] theorem enqueue_dieSync (s : State) (q : Nat) (p : FabPacket) : (enqueue s q p).dieSync = s.dieSync := rfl
@[simp] theorem enqueue_samples (s : State) (q : Nat) (p : FabPacket) : (enqueue s q p).samples = s.samples := rfl
@[simp] theorem enqueue_closed (s : State) (q : Nat) (p : FabPacket) : (enqueue s q p).closed = s.closed := rfl
@[simp] theorem enqueue_ovfLog (s : State) (q : Nat) (p : FabPacket) : (enqueue s q p).ovfLog = s.ovfLog := rfl
@[simp] theorem enqueue_ovfOver (s : State) (q : Nat) (p : FabPacket) : (enqueue s q p).ovfOver = s.ovfOver := rfl
@[simp] theorem enqueue_ovfSat (s : State) (q : Nat) (p : FabPacket) : (enqueue s q p).ovfSat = s.ovfSat := rfl
@[simp] theorem enqueue_normStep (s : State) (q : Nat) (p : FabPacket) : (enqueue s q p).normStep = s.normStep := rfl
@[simp] theorem enqueue_trees (s : State) (q : Nat) (p : FabPacket) : (enqueue s q p).trees = s.trees := rfl
@[simp] theorem enqueue_mem (s : State) (q : Nat) (p : FabPacket) : (enqueue s q p).mem = s.mem := rfl
@[simp] theorem enqueue_ces (s : State) (q : Nat) (p : FabPacket) : (enqueue s q p).ces = s.ces := rfl
@[simp] theorem enqueue_hamper (s : State) (q : Nat) (p : FabPacket) : (enqueue s q p).hamper = s.hamper := rfl
@[simp] theorem enqueue_vkx (s : State) (q : Nat) (p : FabPacket) : (enqueue s q p).vkx = s.vkx := rfl
@[simp] theorem enqueue_phys (s : State) (q : Nat) (p : FabPacket) : (enqueue s q p).phys = s.phys := rfl
@[simp] theorem enqueue_out (s : State) (q : Nat) (p : FabPacket) : (enqueue s q p).out = s.out := rfl
@[simp] theorem enqueue_free (s : State) (q : Nat) (p : FabPacket) : (enqueue s q p).free = s.free := rfl

/-! `pruneUses` -/

@[simp] theorem pruneUses_pending (s : State) : (pruneUses s).pending = s.pending := rfl
@[simp] theorem pruneUses_grade (s : State) : (pruneUses s).grade = s.grade := rfl
@[simp] theorem pruneUses_serial (s : State) : (pruneUses s).serial = s.serial := rfl
@[simp] theorem pruneUses_trust (s : State) : (pruneUses s).trust = s.trust := rfl
@[simp] theorem pruneUses_factoryBad (s : State) : (pruneUses s).factoryBad = s.factoryBad := rfl
@[simp] theorem pruneUses_time (s : State) : (pruneUses s).time = s.time := rfl
@[simp] theorem pruneUses_firm (s : State) : (pruneUses s).firm = s.firm := rfl
@[simp] theorem pruneUses_saved (s : State) : (pruneUses s).saved = s.saved := rfl
@[simp] theorem pruneUses_slots (s : State) : (pruneUses s).slots = s.slots := rfl
@[simp] theorem pruneUses_prog (s : State) : (pruneUses s).prog = s.prog := rfl
@[simp] theorem pruneUses_cluster (s : State) : (pruneUses s).cluster = s.cluster := rfl
@[simp] theorem pruneUses_dieSync (s : State) : (pruneUses s).dieSync = s.dieSync := rfl
@[simp] theorem pruneUses_samples (s : State) : (pruneUses s).samples = s.samples := rfl
@[simp] theorem pruneUses_closed (s : State) : (pruneUses s).closed = s.closed := rfl
@[simp] theorem pruneUses_ovfLog (s : State) : (pruneUses s).ovfLog = s.ovfLog := rfl
@[simp] theorem pruneUses_ovfOver (s : State) : (pruneUses s).ovfOver = s.ovfOver := rfl
@[simp] theorem pruneUses_ovfSat (s : State) : (pruneUses s).ovfSat = s.ovfSat := rfl
@[simp] theorem pruneUses_normStep (s : State) : (pruneUses s).normStep = s.normStep := rfl
@[simp] theorem pruneUses_trees (s : State) : (pruneUses s).trees = s.trees := rfl
@[simp] theorem pruneUses_mem (s : State) : (pruneUses s).mem = s.mem := rfl
@[simp] theorem pruneUses_fab (s : State) : (pruneUses s).fab = s.fab := rfl
@[simp] theorem pruneUses_ces (s : State) : (pruneUses s).ces = s.ces := rfl
@[simp] theorem pruneUses_hamper (s : State) : (pruneUses s).hamper = s.hamper := rfl
@[simp] theorem pruneUses_vkx (s : State) : (pruneUses s).vkx = s.vkx := rfl
@[simp] theorem pruneUses_phys (s : State) : (pruneUses s).phys = s.phys := rfl
@[simp] theorem pruneUses_out (s : State) : (pruneUses s).out = s.out := rfl
@[simp] theorem pruneUses_free (s : State) : (pruneUses s).free = s.free := rfl

/-! `dropItem` -/

@[simp] theorem dropItem_pending (s : State) (t : Nat) (st : Stream) (seq : BitVec 32) : (dropItem s t st seq).pending = s.pending := rfl
@[simp] theorem dropItem_grade (s : State) (t : Nat) (st : Stream) (seq : BitVec 32) : (dropItem s t st seq).grade = s.grade := rfl
@[simp] theorem dropItem_serial (s : State) (t : Nat) (st : Stream) (seq : BitVec 32) : (dropItem s t st seq).serial = s.serial := rfl
@[simp] theorem dropItem_trust (s : State) (t : Nat) (st : Stream) (seq : BitVec 32) : (dropItem s t st seq).trust = s.trust := rfl
@[simp] theorem dropItem_factoryBad (s : State) (t : Nat) (st : Stream) (seq : BitVec 32) :
    (dropItem s t st seq).factoryBad = s.factoryBad := rfl
@[simp] theorem dropItem_time (s : State) (t : Nat) (st : Stream) (seq : BitVec 32) : (dropItem s t st seq).time = s.time := rfl
@[simp] theorem dropItem_firm (s : State) (t : Nat) (st : Stream) (seq : BitVec 32) : (dropItem s t st seq).firm = s.firm := rfl
@[simp] theorem dropItem_saved (s : State) (t : Nat) (st : Stream) (seq : BitVec 32) : (dropItem s t st seq).saved = s.saved := rfl
@[simp] theorem dropItem_slots (s : State) (t : Nat) (st : Stream) (seq : BitVec 32) : (dropItem s t st seq).slots = s.slots := rfl
@[simp] theorem dropItem_prog (s : State) (t : Nat) (st : Stream) (seq : BitVec 32) : (dropItem s t st seq).prog = s.prog := rfl
@[simp] theorem dropItem_cluster (s : State) (t : Nat) (st : Stream) (seq : BitVec 32) : (dropItem s t st seq).cluster = s.cluster := rfl
@[simp] theorem dropItem_dieSync (s : State) (t : Nat) (st : Stream) (seq : BitVec 32) : (dropItem s t st seq).dieSync = s.dieSync := rfl
@[simp] theorem dropItem_samples (s : State) (t : Nat) (st : Stream) (seq : BitVec 32) : (dropItem s t st seq).samples = s.samples := rfl
@[simp] theorem dropItem_closed (s : State) (t : Nat) (st : Stream) (seq : BitVec 32) : (dropItem s t st seq).closed = s.closed := rfl
@[simp] theorem dropItem_ovfLog (s : State) (t : Nat) (st : Stream) (seq : BitVec 32) : (dropItem s t st seq).ovfLog = s.ovfLog := rfl
@[simp] theorem dropItem_ovfOver (s : State) (t : Nat) (st : Stream) (seq : BitVec 32) : (dropItem s t st seq).ovfOver = s.ovfOver := rfl
@[simp] theorem dropItem_ovfSat (s : State) (t : Nat) (st : Stream) (seq : BitVec 32) : (dropItem s t st seq).ovfSat = s.ovfSat := rfl
@[simp] theorem dropItem_normStep (s : State) (t : Nat) (st : Stream) (seq : BitVec 32) : (dropItem s t st seq).normStep = s.normStep := rfl
@[simp] theorem dropItem_trees (s : State) (t : Nat) (st : Stream) (seq : BitVec 32) : (dropItem s t st seq).trees = s.trees := rfl
@[simp] theorem dropItem_mem (s : State) (t : Nat) (st : Stream) (seq : BitVec 32) : (dropItem s t st seq).mem = s.mem := rfl
@[simp] theorem dropItem_fab (s : State) (t : Nat) (st : Stream) (seq : BitVec 32) : (dropItem s t st seq).fab = s.fab := rfl
@[simp] theorem dropItem_ces (s : State) (t : Nat) (st : Stream) (seq : BitVec 32) : (dropItem s t st seq).ces = s.ces := rfl
@[simp] theorem dropItem_hamper (s : State) (t : Nat) (st : Stream) (seq : BitVec 32) : (dropItem s t st seq).hamper = s.hamper := rfl
@[simp] theorem dropItem_vkx (s : State) (t : Nat) (st : Stream) (seq : BitVec 32) : (dropItem s t st seq).vkx = s.vkx := rfl
@[simp] theorem dropItem_phys (s : State) (t : Nat) (st : Stream) (seq : BitVec 32) : (dropItem s t st seq).phys = s.phys := rfl
@[simp] theorem dropItem_out (s : State) (t : Nat) (st : Stream) (seq : BitVec 32) : (dropItem s t st seq).out = s.out := rfl
@[simp] theorem dropItem_free (s : State) (t : Nat) (st : Stream) (seq : BitVec 32) : (dropItem s t st seq).free = s.free := rfl

/-! `appendJ` -/

@[simp] theorem appendJ_pending (s : State) (type reason index : Nat) (gen : BitVec 32) (body : List Byte) :
    (appendJ s type reason index gen body).pending = s.pending := rfl
@[simp] theorem appendJ_grade (s : State) (type reason index : Nat) (gen : BitVec 32) (body : List Byte) :
    (appendJ s type reason index gen body).grade = s.grade := rfl
@[simp] theorem appendJ_serial (s : State) (type reason index : Nat) (gen : BitVec 32) (body : List Byte) :
    (appendJ s type reason index gen body).serial = s.serial := rfl
@[simp] theorem appendJ_trust (s : State) (type reason index : Nat) (gen : BitVec 32) (body : List Byte) :
    (appendJ s type reason index gen body).trust = s.trust := rfl
@[simp] theorem appendJ_factoryBad (s : State) (type reason index : Nat) (gen : BitVec 32) (body : List Byte) :
    (appendJ s type reason index gen body).factoryBad = s.factoryBad := rfl
@[simp] theorem appendJ_time (s : State) (type reason index : Nat) (gen : BitVec 32) (body : List Byte) :
    (appendJ s type reason index gen body).time = s.time := rfl
@[simp] theorem appendJ_firm (s : State) (type reason index : Nat) (gen : BitVec 32) (body : List Byte) :
    (appendJ s type reason index gen body).firm = s.firm := rfl
@[simp] theorem appendJ_tiles (s : State) (type reason index : Nat) (gen : BitVec 32) (body : List Byte) :
    (appendJ s type reason index gen body).tiles = s.tiles := rfl
@[simp] theorem appendJ_saved (s : State) (type reason index : Nat) (gen : BitVec 32) (body : List Byte) :
    (appendJ s type reason index gen body).saved = s.saved := rfl
@[simp] theorem appendJ_slots (s : State) (type reason index : Nat) (gen : BitVec 32) (body : List Byte) :
    (appendJ s type reason index gen body).slots = s.slots := rfl
@[simp] theorem appendJ_prog (s : State) (type reason index : Nat) (gen : BitVec 32) (body : List Byte) :
    (appendJ s type reason index gen body).prog = s.prog := rfl
@[simp] theorem appendJ_cluster (s : State) (type reason index : Nat) (gen : BitVec 32) (body : List Byte) :
    (appendJ s type reason index gen body).cluster = s.cluster := rfl
@[simp] theorem appendJ_dieSync (s : State) (type reason index : Nat) (gen : BitVec 32) (body : List Byte) :
    (appendJ s type reason index gen body).dieSync = s.dieSync := rfl
@[simp] theorem appendJ_samples (s : State) (type reason index : Nat) (gen : BitVec 32) (body : List Byte) :
    (appendJ s type reason index gen body).samples = s.samples := rfl
@[simp] theorem appendJ_closed (s : State) (type reason index : Nat) (gen : BitVec 32) (body : List Byte) :
    (appendJ s type reason index gen body).closed = s.closed := rfl
@[simp] theorem appendJ_ovfLog (s : State) (type reason index : Nat) (gen : BitVec 32) (body : List Byte) :
    (appendJ s type reason index gen body).ovfLog = s.ovfLog := rfl
@[simp] theorem appendJ_ovfOver (s : State) (type reason index : Nat) (gen : BitVec 32) (body : List Byte) :
    (appendJ s type reason index gen body).ovfOver = s.ovfOver := rfl
@[simp] theorem appendJ_ovfSat (s : State) (type reason index : Nat) (gen : BitVec 32) (body : List Byte) :
    (appendJ s type reason index gen body).ovfSat = s.ovfSat := rfl
@[simp] theorem appendJ_normStep (s : State) (type reason index : Nat) (gen : BitVec 32) (body : List Byte) :
    (appendJ s type reason index gen body).normStep = s.normStep := rfl
@[simp] theorem appendJ_trees (s : State) (type reason index : Nat) (gen : BitVec 32) (body : List Byte) :
    (appendJ s type reason index gen body).trees = s.trees := rfl
@[simp] theorem appendJ_mem (s : State) (type reason index : Nat) (gen : BitVec 32) (body : List Byte) :
    (appendJ s type reason index gen body).mem = s.mem := rfl
@[simp] theorem appendJ_fab (s : State) (type reason index : Nat) (gen : BitVec 32) (body : List Byte) :
    (appendJ s type reason index gen body).fab = s.fab := rfl
@[simp] theorem appendJ_ces (s : State) (type reason index : Nat) (gen : BitVec 32) (body : List Byte) :
    (appendJ s type reason index gen body).ces = s.ces := rfl
@[simp] theorem appendJ_vkx (s : State) (type reason index : Nat) (gen : BitVec 32) (body : List Byte) :
    (appendJ s type reason index gen body).vkx = s.vkx := rfl
@[simp] theorem appendJ_phys (s : State) (type reason index : Nat) (gen : BitVec 32) (body : List Byte) :
    (appendJ s type reason index gen body).phys = s.phys := rfl
@[simp] theorem appendJ_out (s : State) (type reason index : Nat) (gen : BitVec 32) (body : List Byte) :
    (appendJ s type reason index gen body).out = s.out := rfl
@[simp] theorem appendJ_free (s : State) (type reason index : Nat) (gen : BitVec 32) (body : List Byte) :
    (appendJ s type reason index gen body).free = s.free := rfl

/-! `takeHolder` -/

@[simp] theorem takeHolder_pending (s : State) (t : Nat) (st : Stream) (unit : Nat) : (takeHolder s t st unit).pending = s.pending := rfl
@[simp] theorem takeHolder_grade (s : State) (t : Nat) (st : Stream) (unit : Nat) : (takeHolder s t st unit).grade = s.grade := rfl
@[simp] theorem takeHolder_serial (s : State) (t : Nat) (st : Stream) (unit : Nat) : (takeHolder s t st unit).serial = s.serial := rfl
@[simp] theorem takeHolder_trust (s : State) (t : Nat) (st : Stream) (unit : Nat) : (takeHolder s t st unit).trust = s.trust := rfl
@[simp] theorem takeHolder_factoryBad (s : State) (t : Nat) (st : Stream) (unit : Nat) :
    (takeHolder s t st unit).factoryBad = s.factoryBad := rfl
@[simp] theorem takeHolder_time (s : State) (t : Nat) (st : Stream) (unit : Nat) : (takeHolder s t st unit).time = s.time := rfl
@[simp] theorem takeHolder_firm (s : State) (t : Nat) (st : Stream) (unit : Nat) : (takeHolder s t st unit).firm = s.firm := rfl
@[simp] theorem takeHolder_saved (s : State) (t : Nat) (st : Stream) (unit : Nat) : (takeHolder s t st unit).saved = s.saved := rfl
@[simp] theorem takeHolder_slots (s : State) (t : Nat) (st : Stream) (unit : Nat) : (takeHolder s t st unit).slots = s.slots := rfl
@[simp] theorem takeHolder_prog (s : State) (t : Nat) (st : Stream) (unit : Nat) : (takeHolder s t st unit).prog = s.prog := rfl
@[simp] theorem takeHolder_cluster (s : State) (t : Nat) (st : Stream) (unit : Nat) : (takeHolder s t st unit).cluster = s.cluster := rfl
@[simp] theorem takeHolder_dieSync (s : State) (t : Nat) (st : Stream) (unit : Nat) : (takeHolder s t st unit).dieSync = s.dieSync := rfl
@[simp] theorem takeHolder_samples (s : State) (t : Nat) (st : Stream) (unit : Nat) : (takeHolder s t st unit).samples = s.samples := rfl
@[simp] theorem takeHolder_closed (s : State) (t : Nat) (st : Stream) (unit : Nat) : (takeHolder s t st unit).closed = s.closed := rfl
@[simp] theorem takeHolder_ovfLog (s : State) (t : Nat) (st : Stream) (unit : Nat) : (takeHolder s t st unit).ovfLog = s.ovfLog := rfl
@[simp] theorem takeHolder_ovfOver (s : State) (t : Nat) (st : Stream) (unit : Nat) : (takeHolder s t st unit).ovfOver = s.ovfOver := rfl
@[simp] theorem takeHolder_ovfSat (s : State) (t : Nat) (st : Stream) (unit : Nat) : (takeHolder s t st unit).ovfSat = s.ovfSat := rfl
@[simp] theorem takeHolder_normStep (s : State) (t : Nat) (st : Stream) (unit : Nat) : (takeHolder s t st unit).normStep = s.normStep := rfl
@[simp] theorem takeHolder_trees (s : State) (t : Nat) (st : Stream) (unit : Nat) : (takeHolder s t st unit).trees = s.trees := rfl
@[simp] theorem takeHolder_mem (s : State) (t : Nat) (st : Stream) (unit : Nat) : (takeHolder s t st unit).mem = s.mem := rfl
@[simp] theorem takeHolder_fab (s : State) (t : Nat) (st : Stream) (unit : Nat) : (takeHolder s t st unit).fab = s.fab := rfl
@[simp] theorem takeHolder_ces (s : State) (t : Nat) (st : Stream) (unit : Nat) : (takeHolder s t st unit).ces = s.ces := rfl
@[simp] theorem takeHolder_hamper (s : State) (t : Nat) (st : Stream) (unit : Nat) : (takeHolder s t st unit).hamper = s.hamper := rfl
@[simp] theorem takeHolder_vkx (s : State) (t : Nat) (st : Stream) (unit : Nat) : (takeHolder s t st unit).vkx = s.vkx := rfl
@[simp] theorem takeHolder_phys (s : State) (t : Nat) (st : Stream) (unit : Nat) : (takeHolder s t st unit).phys = s.phys := rfl
@[simp] theorem takeHolder_out (s : State) (t : Nat) (st : Stream) (unit : Nat) : (takeHolder s t st unit).out = s.out := rfl
@[simp] theorem takeHolder_free (s : State) (t : Nat) (st : Stream) (unit : Nat) : (takeHolder s t st unit).free = s.free := rfl

end Sys2Proof.Machine
end

