-- ==== Sys2Proof/Laws/Operations.lean ====
section
/-! SUPPORT. The fields that the shared operations leave alone (messages, events, counters, contexts), and what a read gives after an
update of a tile, a stream, a strand, a port, a channel or a tree. -/

namespace Sys2Proof.Machine

/-! `emit` -/

@[simp] theorem emit_pending (s : State) (o : Out) : (emit s o).pending = s.pending := by unfold emit; split <;> rfl
@[simp] theorem emit_grade (s : State) (o : Out) : (emit s o).grade = s.grade := by unfold emit; split <;> rfl
@[simp] theorem emit_serial (s : State) (o : Out) : (emit s o).serial = s.serial := by unfold emit; split <;> rfl
@[simp] theorem emit_trust (s : State) (o : Out) : (emit s o).trust = s.trust := by unfold emit; split <;> rfl
@[simp] theorem emit_factoryBad (s : State) (o : Out) : (emit s o).factoryBad = s.factoryBad := by unfold emit; split <;> rfl
@[simp] theorem emit_time (s : State) (o : Out) : (emit s o).time = s.time := by unfold emit; split <;> rfl
@[simp] theorem emit_firm (s : State) (o : Out) : (emit s o).firm = s.firm := by unfold emit; split <;> rfl
@[simp] theorem emit_tiles (s : State) (o : Out) : (emit s o).tiles = s.tiles := by unfold emit; split <;> rfl
@[simp] theorem emit_saved (s : State) (o : Out) : (emit s o).saved = s.saved := by unfold emit; split <;> rfl
@[simp] theorem emit_slots (s : State) (o : Out) : (emit s o).slots = s.slots := by unfold emit; split <;> rfl
@[simp] theorem emit_prog (s : State) (o : Out) : (emit s o).prog = s.prog := by unfold emit; split <;> rfl
@[simp] theorem emit_cluster (s : State) (o : Out) : (emit s o).cluster = s.cluster := by unfold emit; split <;> rfl
@[simp] theorem emit_dieSync (s : State) (o : Out) : (emit s o).dieSync = s.dieSync := by unfold emit; split <;> rfl
@[simp] theorem emit_samples (s : State) (o : Out) : (emit s o).samples = s.samples := by unfold emit; split <;> rfl
@[simp] theorem emit_closed (s : State) (o : Out) : (emit s o).closed = s.closed := by unfold emit; split <;> rfl
@[simp] theorem emit_ovfLog (s : State) (o : Out) : (emit s o).ovfLog = s.ovfLog := by unfold emit; split <;> rfl
@[simp] theorem emit_ovfOver (s : State) (o : Out) : (emit s o).ovfOver = s.ovfOver := by unfold emit; split <;> rfl
@[simp] theorem emit_ovfSat (s : State) (o : Out) : (emit s o).ovfSat = s.ovfSat := by unfold emit; split <;> rfl
@[simp] theorem emit_normStep (s : State) (o : Out) : (emit s o).normStep = s.normStep := by unfold emit; split <;> rfl
@[simp] theorem emit_trees (s : State) (o : Out) : (emit s o).trees = s.trees := by unfold emit; split <;> rfl
@[simp] theorem emit_mem (s : State) (o : Out) : (emit s o).mem = s.mem := by unfold emit; split <;> rfl
@[simp] theorem emit_ces (s : State) (o : Out) : (emit s o).ces = s.ces := by unfold emit; split <;> rfl
@[simp] theorem emit_hamper (s : State) (o : Out) : (emit s o).hamper = s.hamper := by unfold emit; split <;> rfl
@[simp] theorem emit_vkx (s : State) (o : Out) : (emit s o).vkx = s.vkx := by unfold emit; split <;> rfl
@[simp] theorem emit_phys (s : State) (o : Out) : (emit s o).phys = s.phys := by unfold emit; split <;> rfl
@[simp] theorem emit_free (s : State) (o : Out) : (emit s o).free = s.free := by unfold emit; split <;> rfl

/-! `modCtxOf` -/

@[simp] theorem modCtxOf_pending (s : State) (p : Nat) (f : Context → Context) :
    (modCtxOf s p f).pending = s.pending := by unfold modCtxOf; dsimp only; split <;> rfl
@[simp] theorem modCtxOf_grade (s : State) (p : Nat) (f : Context → Context) :
    (modCtxOf s p f).grade = s.grade := by unfold modCtxOf; dsimp only; split <;> rfl
@[simp] theorem modCtxOf_serial (s : State) (p : Nat) (f : Context → Context) :
    (modCtxOf s p f).serial = s.serial := by unfold modCtxOf; dsimp only; split <;> rfl
@[simp] theorem modCtxOf_trust (s : State) (p : Nat) (f : Context → Context) :
    (modCtxOf s p f).trust = s.trust := by unfold modCtxOf; dsimp only; split <;> rfl
@[simp] theorem modCtxOf_factoryBad (s : State) (p : Nat) (f : Context → Context) :
    (modCtxOf s p f).factoryBad = s.factoryBad := by unfold modCtxOf; dsimp only; split <;> rfl
@[simp] theorem modCtxOf_time (s : State) (p : Nat) (f : Context → Context) :
    (modCtxOf s p f).time = s.time := by unfold modCtxOf; dsimp only; split <;> rfl
@[simp] theorem modCtxOf_firm (s : State) (p : Nat) (f : Context → Context) :
    (modCtxOf s p f).firm = s.firm := by unfold modCtxOf; dsimp only; split <;> rfl
@[simp] theorem modCtxOf_slots (s : State) (p : Nat) (f : Context → Context) :
    (modCtxOf s p f).slots = s.slots := by unfold modCtxOf; dsimp only; split <;> rfl
@[simp] theorem modCtxOf_prog (s : State) (p : Nat) (f : Context → Context) :
    (modCtxOf s p f).prog = s.prog := by unfold modCtxOf; dsimp only; split <;> rfl
@[simp] theorem modCtxOf_cluster (s : State) (p : Nat) (f : Context → Context) :
    (modCtxOf s p f).cluster = s.cluster := by unfold modCtxOf; dsimp only; split <;> rfl
@[simp] theorem modCtxOf_dieSync (s : State) (p : Nat) (f : Context → Context) :
    (modCtxOf s p f).dieSync = s.dieSync := by unfold modCtxOf; dsimp only; split <;> rfl
@[simp] theorem modCtxOf_samples (s : State) (p : Nat) (f : Context → Context) :
    (modCtxOf s p f).samples = s.samples := by unfold modCtxOf; dsimp only; split <;> rfl
@[simp] theorem modCtxOf_closed (s : State) (p : Nat) (f : Context → Context) :
    (modCtxOf s p f).closed = s.closed := by unfold modCtxOf; dsimp only; split <;> rfl
@[simp] theorem modCtxOf_ovfLog (s : State) (p : Nat) (f : Context → Context) :
    (modCtxOf s p f).ovfLog = s.ovfLog := by unfold modCtxOf; dsimp only; split <;> rfl
@[simp] theorem modCtxOf_ovfOver (s : State) (p : Nat) (f : Context → Context) :
    (modCtxOf s p f).ovfOver = s.ovfOver := by unfold modCtxOf; dsimp only; split <;> rfl
@[simp] theorem modCtxOf_ovfSat (s : State) (p : Nat) (f : Context → Context) :
    (modCtxOf s p f).ovfSat = s.ovfSat := by unfold modCtxOf; dsimp only; split <;> rfl
@[simp] theorem modCtxOf_normStep (s : State) (p : Nat) (f : Context → Context) :
    (modCtxOf s p f).normStep = s.normStep := by unfold modCtxOf; dsimp only; split <;> rfl
@[simp] theorem modCtxOf_trees (s : State) (p : Nat) (f : Context → Context) :
    (modCtxOf s p f).trees = s.trees := by unfold modCtxOf; dsimp only; split <;> rfl
@[simp] theorem modCtxOf_mem (s : State) (p : Nat) (f : Context → Context) :
    (modCtxOf s p f).mem = s.mem := by unfold modCtxOf; dsimp only; split <;> rfl
@[simp] theorem modCtxOf_fab (s : State) (p : Nat) (f : Context → Context) :
    (modCtxOf s p f).fab = s.fab := by unfold modCtxOf; dsimp only; split <;> rfl
@[simp] theorem modCtxOf_ces (s : State) (p : Nat) (f : Context → Context) :
    (modCtxOf s p f).ces = s.ces := by unfold modCtxOf; dsimp only; split <;> rfl
@[simp] theorem modCtxOf_hamper (s : State) (p : Nat) (f : Context → Context) :
    (modCtxOf s p f).hamper = s.hamper := by unfold modCtxOf; dsimp only; split <;> rfl
@[simp] theorem modCtxOf_vkx (s : State) (p : Nat) (f : Context → Context) :
    (modCtxOf s p f).vkx = s.vkx := by unfold modCtxOf; dsimp only; split <;> rfl
@[simp] theorem modCtxOf_phys (s : State) (p : Nat) (f : Context → Context) :
    (modCtxOf s p f).phys = s.phys := by unfold modCtxOf; dsimp only; split <;> rfl
@[simp] theorem modCtxOf_out (s : State) (p : Nat) (f : Context → Context) :
    (modCtxOf s p f).out = s.out := by unfold modCtxOf; dsimp only; split <;> rfl
@[simp] theorem modCtxOf_free (s : State) (p : Nat) (f : Context → Context) :
    (modCtxOf s p f).free = s.free := by unfold modCtxOf; dsimp only; split <;> rfl

/-! `ctrSet` -/

@[simp] theorem ctrSet_pending (s : State) (scope target i v : Nat) :
    (ctrSet s scope target i v).pending = s.pending := by unfold ctrSet; (repeat' split) <;> simp
@[simp] theorem ctrSet_grade (s : State) (scope target i v : Nat) :
    (ctrSet s scope target i v).grade = s.grade := by unfold ctrSet; (repeat' split) <;> simp
@[simp] theorem ctrSet_serial (s : State) (scope target i v : Nat) :
    (ctrSet s scope target i v).serial = s.serial := by unfold ctrSet; (repeat' split) <;> simp
@[simp] theorem ctrSet_trust (s : State) (scope target i v : Nat) :
    (ctrSet s scope target i v).trust = s.trust := by unfold ctrSet; (repeat' split) <;> simp
@[simp] theorem ctrSet_factoryBad (s : State) (scope target i v : Nat) :
    (ctrSet s scope target i v).factoryBad = s.factoryBad := by unfold ctrSet; (repeat' split) <;> simp
@[simp] theorem ctrSet_time (s : State) (scope target i v : Nat) :
    (ctrSet s scope target i v).time = s.time := by unfold ctrSet; (repeat' split) <;> simp
@[simp] theorem ctrSet_firm (s : State) (scope target i v : Nat) :
    (ctrSet s scope target i v).firm = s.firm := by unfold ctrSet; (repeat' split) <;> simp
@[simp] theorem ctrSet_slots (s : State) (scope target i v : Nat) :
    (ctrSet s scope target i v).slots = s.slots := by unfold ctrSet; (repeat' split) <;> simp
@[simp] theorem ctrSet_prog (s : State) (scope target i v : Nat) :
    (ctrSet s scope target i v).prog = s.prog := by unfold ctrSet; (repeat' split) <;> simp
@[simp] theorem ctrSet_samples (s : State) (scope target i v : Nat) :
    (ctrSet s scope target i v).samples = s.samples := by unfold ctrSet; (repeat' split) <;> simp
@[simp] theorem ctrSet_closed (s : State) (scope target i v : Nat) :
    (ctrSet s scope target i v).closed = s.closed := by unfold ctrSet; (repeat' split) <;> simp
@[simp] theorem ctrSet_ovfLog (s : State) (scope target i v : Nat) :
    (ctrSet s scope target i v).ovfLog = s.ovfLog := by unfold ctrSet; (repeat' split) <;> simp
@[simp] theorem ctrSet_ovfOver (s : State) (scope target i v : Nat) :
    (ctrSet s scope target i v).ovfOver = s.ovfOver := by unfold ctrSet; (repeat' split) <;> simp
@[simp] theorem ctrSet_ovfSat (s : State) (scope target i v : Nat) :
    (ctrSet s scope target i v).ovfSat = s.ovfSat := by unfold ctrSet; (repeat' split) <;> simp
@[simp] theorem ctrSet_normStep (s : State) (scope target i v : Nat) :
    (ctrSet s scope target i v).normStep = s.normStep := by unfold ctrSet; (repeat' split) <;> simp
@[simp] theorem ctrSet_trees (s : State) (scope target i v : Nat) :
    (ctrSet s scope target i v).trees = s.trees := by unfold ctrSet; (repeat' split) <;> simp
@[simp] theorem ctrSet_mem (s : State) (scope target i v : Nat) :
    (ctrSet s scope target i v).mem = s.mem := by unfold ctrSet; (repeat' split) <;> simp
@[simp] theorem ctrSet_fab (s : State) (scope target i v : Nat) :
    (ctrSet s scope target i v).fab = s.fab := by unfold ctrSet; (repeat' split) <;> simp
@[simp] theorem ctrSet_ces (s : State) (scope target i v : Nat) :
    (ctrSet s scope target i v).ces = s.ces := by unfold ctrSet; (repeat' split) <;> simp
@[simp] theorem ctrSet_hamper (s : State) (scope target i v : Nat) :
    (ctrSet s scope target i v).hamper = s.hamper := by unfold ctrSet; (repeat' split) <;> simp
@[simp] theorem ctrSet_vkx (s : State) (scope target i v : Nat) :
    (ctrSet s scope target i v).vkx = s.vkx := by unfold ctrSet; (repeat' split) <;> simp
@[simp] theorem ctrSet_phys (s : State) (scope target i v : Nat) :
    (ctrSet s scope target i v).phys = s.phys := by unfold ctrSet; (repeat' split) <;> simp
@[simp] theorem ctrSet_out (s : State) (scope target i v : Nat) :
    (ctrSet s scope target i v).out = s.out := by unfold ctrSet; (repeat' split) <;> simp
@[simp] theorem ctrSet_free (s : State) (scope target i v : Nat) :
    (ctrSet s scope target i v).free = s.free := by unfold ctrSet; (repeat' split) <;> simp

/-! `stamp` -/

@[simp] theorem stamp_pending (s : State) (p page g : Nat) : (stamp s p page g).pending = s.pending := by simp [stamp]
@[simp] theorem stamp_grade (s : State) (p page g : Nat) : (stamp s p page g).grade = s.grade := by simp [stamp]
@[simp] theorem stamp_serial (s : State) (p page g : Nat) : (stamp s p page g).serial = s.serial := by simp [stamp]
@[simp] theorem stamp_trust (s : State) (p page g : Nat) : (stamp s p page g).trust = s.trust := by simp [stamp]
@[simp] theorem stamp_factoryBad (s : State) (p page g : Nat) : (stamp s p page g).factoryBad = s.factoryBad := by simp [stamp]
@[simp] theorem stamp_time (s : State) (p page g : Nat) : (stamp s p page g).time = s.time := by simp [stamp]
@[simp] theorem stamp_firm (s : State) (p page g : Nat) : (stamp s p page g).firm = s.firm := by simp [stamp]
@[simp] theorem stamp_slots (s : State) (p page g : Nat) : (stamp s p page g).slots = s.slots := by simp [stamp]
@[simp] theorem stamp_prog (s : State) (p page g : Nat) : (stamp s p page g).prog = s.prog := by simp [stamp]
@[simp] theorem stamp_cluster (s : State) (p page g : Nat) : (stamp s p page g).cluster = s.cluster := by simp [stamp]
@[simp] theorem stamp_dieSync (s : State) (p page g : Nat) : (stamp s p page g).dieSync = s.dieSync := by simp [stamp]
@[simp] theorem stamp_samples (s : State) (p page g : Nat) : (stamp s p page g).samples = s.samples := by simp [stamp]
@[simp] theorem stamp_closed (s : State) (p page g : Nat) : (stamp s p page g).closed = s.closed := by simp [stamp]
@[simp] theorem stamp_ovfLog (s : State) (p page g : Nat) : (stamp s p page g).ovfLog = s.ovfLog := by simp [stamp]
@[simp] theorem stamp_ovfOver (s : State) (p page g : Nat) : (stamp s p page g).ovfOver = s.ovfOver := by simp [stamp]
@[simp] theorem stamp_ovfSat (s : State) (p page g : Nat) : (stamp s p page g).ovfSat = s.ovfSat := by simp [stamp]
@[simp] theorem stamp_normStep (s : State) (p page g : Nat) : (stamp s p page g).normStep = s.normStep := by simp [stamp]
@[simp] theorem stamp_trees (s : State) (p page g : Nat) : (stamp s p page g).trees = s.trees := by simp [stamp]
@[simp] theorem stamp_mem (s : State) (p page g : Nat) : (stamp s p page g).mem = s.mem := by simp [stamp]
@[simp] theorem stamp_fab (s : State) (p page g : Nat) : (stamp s p page g).fab = s.fab := by simp [stamp]
@[simp] theorem stamp_ces (s : State) (p page g : Nat) : (stamp s p page g).ces = s.ces := by simp [stamp]
@[simp] theorem stamp_hamper (s : State) (p page g : Nat) : (stamp s p page g).hamper = s.hamper := by simp [stamp]
@[simp] theorem stamp_vkx (s : State) (p page g : Nat) : (stamp s p page g).vkx = s.vkx := by simp [stamp]
@[simp] theorem stamp_phys (s : State) (p page g : Nat) : (stamp s p page g).phys = s.phys := by simp [stamp]
@[simp] theorem stamp_out (s : State) (p page g : Nat) : (stamp s p page g).out = s.out := by simp [stamp]
@[simp] theorem stamp_free (s : State) (p page g : Nat) : (stamp s p page g).free = s.free := by simp [stamp]

/-! `setNextGen` -/

@[simp] theorem setNextGen_pending (s : State) : (setNextGen s).pending = s.pending := by unfold setNextGen; split <;> rfl
@[simp] theorem setNextGen_grade (s : State) : (setNextGen s).grade = s.grade := by unfold setNextGen; split <;> rfl
@[simp] theorem setNextGen_serial (s : State) : (setNextGen s).serial = s.serial := by unfold setNextGen; split <;> rfl
@[simp] theorem setNextGen_trust (s : State) : (setNextGen s).trust = s.trust := by unfold setNextGen; split <;> rfl
@[simp] theorem setNextGen_factoryBad (s : State) : (setNextGen s).factoryBad = s.factoryBad := by unfold setNextGen; split <;> rfl
@[simp] theorem setNextGen_time (s : State) : (setNextGen s).time = s.time := by unfold setNextGen; split <;> rfl
@[simp] theorem setNextGen_firm (s : State) : (setNextGen s).firm = s.firm := by unfold setNextGen; split <;> rfl
@[simp] theorem setNextGen_tiles (s : State) : (setNextGen s).tiles = s.tiles := by unfold setNextGen; split <;> rfl
@[simp] theorem setNextGen_saved (s : State) : (setNextGen s).saved = s.saved := by unfold setNextGen; split <;> rfl
@[simp] theorem setNextGen_slots (s : State) : (setNextGen s).slots = s.slots := by unfold setNextGen; split <;> rfl
@[simp] theorem setNextGen_prog (s : State) : (setNextGen s).prog = s.prog := by unfold setNextGen; split <;> rfl
@[simp] theorem setNextGen_cluster (s : State) : (setNextGen s).cluster = s.cluster := by unfold setNextGen; split <;> rfl
@[simp] theorem setNextGen_dieSync (s : State) : (setNextGen s).dieSync = s.dieSync := by unfold setNextGen; split <;> rfl
@[simp] theorem setNextGen_samples (s : State) : (setNextGen s).samples = s.samples := by unfold setNextGen; split <;> rfl
@[simp] theorem setNextGen_closed (s : State) : (setNextGen s).closed = s.closed := by unfold setNextGen; split <;> rfl
@[simp] theorem setNextGen_ovfLog (s : State) : (setNextGen s).ovfLog = s.ovfLog := by unfold setNextGen; split <;> rfl
@[simp] theorem setNextGen_ovfOver (s : State) : (setNextGen s).ovfOver = s.ovfOver := by unfold setNextGen; split <;> rfl
@[simp] theorem setNextGen_ovfSat (s : State) : (setNextGen s).ovfSat = s.ovfSat := by unfold setNextGen; split <;> rfl
@[simp] theorem setNextGen_normStep (s : State) : (setNextGen s).normStep = s.normStep := by unfold setNextGen; split <;> rfl
@[simp] theorem setNextGen_trees (s : State) : (setNextGen s).trees = s.trees := by unfold setNextGen; split <;> rfl
@[simp] theorem setNextGen_mem (s : State) : (setNextGen s).mem = s.mem := by unfold setNextGen; split <;> rfl
@[simp] theorem setNextGen_fab (s : State) : (setNextGen s).fab = s.fab := by unfold setNextGen; split <;> rfl
@[simp] theorem setNextGen_ces (s : State) : (setNextGen s).ces = s.ces := by unfold setNextGen; split <;> rfl
@[simp] theorem setNextGen_vkx (s : State) : (setNextGen s).vkx = s.vkx := by unfold setNextGen; split <;> rfl
@[simp] theorem setNextGen_phys (s : State) : (setNextGen s).phys = s.phys := by unfold setNextGen; split <;> rfl
@[simp] theorem setNextGen_out (s : State) : (setNextGen s).out = s.out := by unfold setNextGen; split <;> rfl

/-! `putByte` -/

@[simp] theorem putByte_pending (s : State) (q a : Nat) (b : Byte) : (putByte s q a b).pending = s.pending := by simp [putByte]
@[simp] theorem putByte_grade (s : State) (q a : Nat) (b : Byte) : (putByte s q a b).grade = s.grade := by simp [putByte]
@[simp] theorem putByte_serial (s : State) (q a : Nat) (b : Byte) : (putByte s q a b).serial = s.serial := by simp [putByte]
@[simp] theorem putByte_trust (s : State) (q a : Nat) (b : Byte) : (putByte s q a b).trust = s.trust := by simp [putByte]
@[simp] theorem putByte_factoryBad (s : State) (q a : Nat) (b : Byte) : (putByte s q a b).factoryBad = s.factoryBad := by simp [putByte]
@[simp] theorem putByte_time (s : State) (q a : Nat) (b : Byte) : (putByte s q a b).time = s.time := by simp [putByte]
@[simp] theorem putByte_firm (s : State) (q a : Nat) (b : Byte) : (putByte s q a b).firm = s.firm := by simp [putByte]
@[simp] theorem putByte_slots (s : State) (q a : Nat) (b : Byte) : (putByte s q a b).slots = s.slots := by simp [putByte]
@[simp] theorem putByte_prog (s : State) (q a : Nat) (b : Byte) : (putByte s q a b).prog = s.prog := by simp [putByte]
@[simp] theorem putByte_cluster (s : State) (q a : Nat) (b : Byte) : (putByte s q a b).cluster = s.cluster := by simp [putByte]
@[simp] theorem putByte_dieSync (s : State) (q a : Nat) (b : Byte) : (putByte s q a b).dieSync = s.dieSync := by simp [putByte]
@[simp] theorem putByte_samples (s : State) (q a : Nat) (b : Byte) : (putByte s q a b).samples = s.samples := by simp [putByte]
@[simp] theorem putByte_closed (s : State) (q a : Nat) (b : Byte) : (putByte s q a b).closed = s.closed := by simp [putByte]
@[simp] theorem putByte_ovfLog (s : State) (q a : Nat) (b : Byte) : (putByte s q a b).ovfLog = s.ovfLog := by simp [putByte]
@[simp] theorem putByte_ovfOver (s : State) (q a : Nat) (b : Byte) : (putByte s q a b).ovfOver = s.ovfOver := by simp [putByte]
@[simp] theorem putByte_ovfSat (s : State) (q a : Nat) (b : Byte) : (putByte s q a b).ovfSat = s.ovfSat := by simp [putByte]
@[simp] theorem putByte_normStep (s : State) (q a : Nat) (b : Byte) : (putByte s q a b).normStep = s.normStep := by simp [putByte]
@[simp] theorem putByte_trees (s : State) (q a : Nat) (b : Byte) : (putByte s q a b).trees = s.trees := by simp [putByte]
@[simp] theorem putByte_mem (s : State) (q a : Nat) (b : Byte) : (putByte s q a b).mem = s.mem := by simp [putByte]
@[simp] theorem putByte_fab (s : State) (q a : Nat) (b : Byte) : (putByte s q a b).fab = s.fab := by simp [putByte]
@[simp] theorem putByte_ces (s : State) (q a : Nat) (b : Byte) : (putByte s q a b).ces = s.ces := by simp [putByte]
@[simp] theorem putByte_hamper (s : State) (q a : Nat) (b : Byte) : (putByte s q a b).hamper = s.hamper := by simp [putByte]
@[simp] theorem putByte_vkx (s : State) (q a : Nat) (b : Byte) : (putByte s q a b).vkx = s.vkx := by simp [putByte]
@[simp] theorem putByte_phys (s : State) (q a : Nat) (b : Byte) : (putByte s q a b).phys = s.phys := by simp [putByte]
@[simp] theorem putByte_out (s : State) (q a : Nat) (b : Byte) : (putByte s q a b).out = s.out := by simp [putByte]
@[simp] theorem putByte_free (s : State) (q a : Nat) (b : Byte) : (putByte s q a b).free = s.free := by simp [putByte]

/-! `putQ` -/

@[simp] theorem putQ_pending (s : State) (p vc : Nat) (held : Option (Fin 8 × Fin 2)) (m : QLoad) :
    (putQ s p vc held m).pending = s.pending := by unfold putQ; dsimp only; (repeat' split) <;> simp
@[simp] theorem putQ_grade (s : State) (p vc : Nat) (held : Option (Fin 8 × Fin 2)) (m : QLoad) :
    (putQ s p vc held m).grade = s.grade := by unfold putQ; dsimp only; (repeat' split) <;> simp
@[simp] theorem putQ_serial (s : State) (p vc : Nat) (held : Option (Fin 8 × Fin 2)) (m : QLoad) :
    (putQ s p vc held m).serial = s.serial := by unfold putQ; dsimp only; (repeat' split) <;> simp
@[simp] theorem putQ_trust (s : State) (p vc : Nat) (held : Option (Fin 8 × Fin 2)) (m : QLoad) :
    (putQ s p vc held m).trust = s.trust := by unfold putQ; dsimp only; (repeat' split) <;> simp
@[simp] theorem putQ_factoryBad (s : State) (p vc : Nat) (held : Option (Fin 8 × Fin 2)) (m : QLoad) :
    (putQ s p vc held m).factoryBad = s.factoryBad := by unfold putQ; dsimp only; (repeat' split) <;> simp
@[simp] theorem putQ_time (s : State) (p vc : Nat) (held : Option (Fin 8 × Fin 2)) (m : QLoad) :
    (putQ s p vc held m).time = s.time := by unfold putQ; dsimp only; (repeat' split) <;> simp
@[simp] theorem putQ_firm (s : State) (p vc : Nat) (held : Option (Fin 8 × Fin 2)) (m : QLoad) :
    (putQ s p vc held m).firm = s.firm := by unfold putQ; dsimp only; (repeat' split) <;> simp
@[simp] theorem putQ_tiles (s : State) (p vc : Nat) (held : Option (Fin 8 × Fin 2)) (m : QLoad) :
    (putQ s p vc held m).tiles = s.tiles := by unfold putQ; dsimp only; (repeat' split) <;> simp
@[simp] theorem putQ_saved (s : State) (p vc : Nat) (held : Option (Fin 8 × Fin 2)) (m : QLoad) :
    (putQ s p vc held m).saved = s.saved := by unfold putQ; dsimp only; (repeat' split) <;> simp
@[simp] theorem putQ_slots (s : State) (p vc : Nat) (held : Option (Fin 8 × Fin 2)) (m : QLoad) :
    (putQ s p vc held m).slots = s.slots := by unfold putQ; dsimp only; (repeat' split) <;> simp
@[simp] theorem putQ_prog (s : State) (p vc : Nat) (held : Option (Fin 8 × Fin 2)) (m : QLoad) :
    (putQ s p vc held m).prog = s.prog := by unfold putQ; dsimp only; (repeat' split) <;> simp
@[simp] theorem putQ_cluster (s : State) (p vc : Nat) (held : Option (Fin 8 × Fin 2)) (m : QLoad) :
    (putQ s p vc held m).cluster = s.cluster := by unfold putQ; dsimp only; (repeat' split) <;> simp
@[simp] theorem putQ_dieSync (s : State) (p vc : Nat) (held : Option (Fin 8 × Fin 2)) (m : QLoad) :
    (putQ s p vc held m).dieSync = s.dieSync := by unfold putQ; dsimp only; (repeat' split) <;> simp
@[simp] theorem putQ_samples (s : State) (p vc : Nat) (held : Option (Fin 8 × Fin 2)) (m : QLoad) :
    (putQ s p vc held m).samples = s.samples := by unfold putQ; dsimp only; (repeat' split) <;> simp
@[simp] theorem putQ_closed (s : State) (p vc : Nat) (held : Option (Fin 8 × Fin 2)) (m : QLoad) :
    (putQ s p vc held m).closed = s.closed := by unfold putQ; dsimp only; (repeat' split) <;> simp
@[simp] theorem putQ_ovfLog (s : State) (p vc : Nat) (held : Option (Fin 8 × Fin 2)) (m : QLoad) :
    (putQ s p vc held m).ovfLog = s.ovfLog := by unfold putQ; dsimp only; (repeat' split) <;> simp
@[simp] theorem putQ_ovfOver (s : State) (p vc : Nat) (held : Option (Fin 8 × Fin 2)) (m : QLoad) :
    (putQ s p vc held m).ovfOver = s.ovfOver := by unfold putQ; dsimp only; (repeat' split) <;> simp
@[simp] theorem putQ_ovfSat (s : State) (p vc : Nat) (held : Option (Fin 8 × Fin 2)) (m : QLoad) :
    (putQ s p vc held m).ovfSat = s.ovfSat := by unfold putQ; dsimp only; (repeat' split) <;> simp
@[simp] theorem putQ_normStep (s : State) (p vc : Nat) (held : Option (Fin 8 × Fin 2)) (m : QLoad) :
    (putQ s p vc held m).normStep = s.normStep := by unfold putQ; dsimp only; (repeat' split) <;> simp
@[simp] theorem putQ_trees (s : State) (p vc : Nat) (held : Option (Fin 8 × Fin 2)) (m : QLoad) :
    (putQ s p vc held m).trees = s.trees := by unfold putQ; dsimp only; (repeat' split) <;> simp
@[simp] theorem putQ_mem (s : State) (p vc : Nat) (held : Option (Fin 8 × Fin 2)) (m : QLoad) :
    (putQ s p vc held m).mem = s.mem := by unfold putQ; dsimp only; (repeat' split) <;> simp
@[simp] theorem putQ_ces (s : State) (p vc : Nat) (held : Option (Fin 8 × Fin 2)) (m : QLoad) :
    (putQ s p vc held m).ces = s.ces := by unfold putQ; dsimp only; (repeat' split) <;> simp
@[simp] theorem putQ_hamper (s : State) (p vc : Nat) (held : Option (Fin 8 × Fin 2)) (m : QLoad) :
    (putQ s p vc held m).hamper = s.hamper := by unfold putQ; dsimp only; (repeat' split) <;> simp
@[simp] theorem putQ_vkx (s : State) (p vc : Nat) (held : Option (Fin 8 × Fin 2)) (m : QLoad) :
    (putQ s p vc held m).vkx = s.vkx := by unfold putQ; dsimp only; (repeat' split) <;> simp
@[simp] theorem putQ_phys (s : State) (p vc : Nat) (held : Option (Fin 8 × Fin 2)) (m : QLoad) :
    (putQ s p vc held m).phys = s.phys := by unfold putQ; dsimp only; (repeat' split) <;> simp
@[simp] theorem putQ_free (s : State) (p vc : Nat) (held : Option (Fin 8 × Fin 2)) (m : QLoad) :
    (putQ s p vc held m).free = s.free := by unfold putQ; dsimp only; (repeat' split) <;> simp

/-! `routeQ` -/

@[simp] theorem routeQ_pending (s : State) (m : QMsg) : (routeQ s m).pending = s.pending := by unfold routeQ; split <;> simp
@[simp] theorem routeQ_grade (s : State) (m : QMsg) : (routeQ s m).grade = s.grade := by unfold routeQ; split <;> simp
@[simp] theorem routeQ_serial (s : State) (m : QMsg) : (routeQ s m).serial = s.serial := by unfold routeQ; split <;> simp
@[simp] theorem routeQ_trust (s : State) (m : QMsg) : (routeQ s m).trust = s.trust := by unfold routeQ; split <;> simp
@[simp] theorem routeQ_factoryBad (s : State) (m : QMsg) : (routeQ s m).factoryBad = s.factoryBad := by unfold routeQ; split <;> simp
@[simp] theorem routeQ_time (s : State) (m : QMsg) : (routeQ s m).time = s.time := by unfold routeQ; split <;> simp
@[simp] theorem routeQ_firm (s : State) (m : QMsg) : (routeQ s m).firm = s.firm := by unfold routeQ; split <;> simp
@[simp] theorem routeQ_tiles (s : State) (m : QMsg) : (routeQ s m).tiles = s.tiles := by unfold routeQ; split <;> simp
@[simp] theorem routeQ_saved (s : State) (m : QMsg) : (routeQ s m).saved = s.saved := by unfold routeQ; split <;> simp
@[simp] theorem routeQ_slots (s : State) (m : QMsg) : (routeQ s m).slots = s.slots := by unfold routeQ; split <;> simp
@[simp] theorem routeQ_prog (s : State) (m : QMsg) : (routeQ s m).prog = s.prog := by unfold routeQ; split <;> simp
@[simp] theorem routeQ_cluster (s : State) (m : QMsg) : (routeQ s m).cluster = s.cluster := by unfold routeQ; split <;> simp
@[simp] theorem routeQ_dieSync (s : State) (m : QMsg) : (routeQ s m).dieSync = s.dieSync := by unfold routeQ; split <;> simp
@[simp] theorem routeQ_samples (s : State) (m : QMsg) : (routeQ s m).samples = s.samples := by unfold routeQ; split <;> simp
@[simp] theorem routeQ_closed (s : State) (m : QMsg) : (routeQ s m).closed = s.closed := by unfold routeQ; split <;> simp
@[simp] theorem routeQ_ovfLog (s : State) (m : QMsg) : (routeQ s m).ovfLog = s.ovfLog := by unfold routeQ; split <;> simp
@[simp] theorem routeQ_ovfOver (s : State) (m : QMsg) : (routeQ s m).ovfOver = s.ovfOver := by unfold routeQ; split <;> simp
@[simp] theorem routeQ_ovfSat (s : State) (m : QMsg) : (routeQ s m).ovfSat = s.ovfSat := by unfold routeQ; split <;> simp
@[simp] theorem routeQ_normStep (s : State) (m : QMsg) : (routeQ s m).normStep = s.normStep := by unfold routeQ; split <;> simp
@[simp] theorem routeQ_trees (s : State) (m : QMsg) : (routeQ s m).trees = s.trees := by unfold routeQ; split <;> simp
@[simp] theorem routeQ_mem (s : State) (m : QMsg) : (routeQ s m).mem = s.mem := by unfold routeQ; split <;> simp
@[simp] theorem routeQ_ces (s : State) (m : QMsg) : (routeQ s m).ces = s.ces := by unfold routeQ; split <;> simp
@[simp] theorem routeQ_hamper (s : State) (m : QMsg) : (routeQ s m).hamper = s.hamper := by unfold routeQ; split <;> simp
@[simp] theorem routeQ_vkx (s : State) (m : QMsg) : (routeQ s m).vkx = s.vkx := by unfold routeQ; split <;> simp
@[simp] theorem routeQ_phys (s : State) (m : QMsg) : (routeQ s m).phys = s.phys := by unfold routeQ; split <;> simp
@[simp] theorem routeQ_free (s : State) (m : QMsg) : (routeQ s m).free = s.free := by unfold routeQ; split <;> simp

/-! `ctrAdd` -/

@[simp] theorem ctrAdd_pending (s : State) (scope target i inc : Nat) :
    (ctrAdd s scope target i inc).pending = s.pending := by simp [ctrAdd]
@[simp] theorem ctrAdd_grade (s : State) (scope target i inc : Nat) : (ctrAdd s scope target i inc).grade = s.grade := by simp [ctrAdd]
@[simp] theorem ctrAdd_serial (s : State) (scope target i inc : Nat) : (ctrAdd s scope target i inc).serial = s.serial := by simp [ctrAdd]
@[simp] theorem ctrAdd_trust (s : State) (scope target i inc : Nat) : (ctrAdd s scope target i inc).trust = s.trust := by simp [ctrAdd]
@[simp] theorem ctrAdd_factoryBad (s : State) (scope target i inc : Nat) :
    (ctrAdd s scope target i inc).factoryBad = s.factoryBad := by simp [ctrAdd]
@[simp] theorem ctrAdd_time (s : State) (scope target i inc : Nat) : (ctrAdd s scope target i inc).time = s.time := by simp [ctrAdd]
@[simp] theorem ctrAdd_firm (s : State) (scope target i inc : Nat) : (ctrAdd s scope target i inc).firm = s.firm := by simp [ctrAdd]
@[simp] theorem ctrAdd_slots (s : State) (scope target i inc : Nat) : (ctrAdd s scope target i inc).slots = s.slots := by simp [ctrAdd]
@[simp] theorem ctrAdd_prog (s : State) (scope target i inc : Nat) : (ctrAdd s scope target i inc).prog = s.prog := by simp [ctrAdd]
@[simp] theorem ctrAdd_samples (s : State) (scope target i inc : Nat) :
    (ctrAdd s scope target i inc).samples = s.samples := by simp [ctrAdd]
@[simp] theorem ctrAdd_closed (s : State) (scope target i inc : Nat) : (ctrAdd s scope target i inc).closed = s.closed := by simp [ctrAdd]
@[simp] theorem ctrAdd_ovfLog (s : State) (scope target i inc : Nat) : (ctrAdd s scope target i inc).ovfLog = s.ovfLog := by simp [ctrAdd]
@[simp] theorem ctrAdd_ovfOver (s : State) (scope target i inc : Nat) :
    (ctrAdd s scope target i inc).ovfOver = s.ovfOver := by simp [ctrAdd]
@[simp] theorem ctrAdd_ovfSat (s : State) (scope target i inc : Nat) : (ctrAdd s scope target i inc).ovfSat = s.ovfSat := by simp [ctrAdd]
@[simp] theorem ctrAdd_normStep (s : State) (scope target i inc : Nat) :
    (ctrAdd s scope target i inc).normStep = s.normStep := by simp [ctrAdd]
@[simp] theorem ctrAdd_trees (s : State) (scope target i inc : Nat) : (ctrAdd s scope target i inc).trees = s.trees := by simp [ctrAdd]
@[simp] theorem ctrAdd_mem (s : State) (scope target i inc : Nat) : (ctrAdd s scope target i inc).mem = s.mem := by simp [ctrAdd]
@[simp] theorem ctrAdd_fab (s : State) (scope target i inc : Nat) : (ctrAdd s scope target i inc).fab = s.fab := by simp [ctrAdd]
@[simp] theorem ctrAdd_ces (s : State) (scope target i inc : Nat) : (ctrAdd s scope target i inc).ces = s.ces := by simp [ctrAdd]
@[simp] theorem ctrAdd_hamper (s : State) (scope target i inc : Nat) : (ctrAdd s scope target i inc).hamper = s.hamper := by simp [ctrAdd]
@[simp] theorem ctrAdd_vkx (s : State) (scope target i inc : Nat) : (ctrAdd s scope target i inc).vkx = s.vkx := by simp [ctrAdd]
@[simp] theorem ctrAdd_phys (s : State) (scope target i inc : Nat) : (ctrAdd s scope target i inc).phys = s.phys := by simp [ctrAdd]
@[simp] theorem ctrAdd_out (s : State) (scope target i inc : Nat) : (ctrAdd s scope target i inc).out = s.out := by simp [ctrAdd]
@[simp] theorem ctrAdd_free (s : State) (scope target i inc : Nat) : (ctrAdd s scope target i inc).free = s.free := by simp [ctrAdd]

/-! `sendQ` -/

@[simp] theorem sendQ_pending (s : State) (dst : BitVec 16) (qtype : Nat) (slice : BitVec 6) (tag : BitVec 32) (body : List Byte) :
    (sendQ s dst qtype slice tag body).pending = s.pending := by simp [sendQ]
@[simp] theorem sendQ_grade (s : State) (dst : BitVec 16) (qtype : Nat) (slice : BitVec 6) (tag : BitVec 32) (body : List Byte) :
    (sendQ s dst qtype slice tag body).grade = s.grade := by simp [sendQ]
@[simp] theorem sendQ_serial (s : State) (dst : BitVec 16) (qtype : Nat) (slice : BitVec 6) (tag : BitVec 32) (body : List Byte) :
    (sendQ s dst qtype slice tag body).serial = s.serial := by simp [sendQ]
@[simp] theorem sendQ_trust (s : State) (dst : BitVec 16) (qtype : Nat) (slice : BitVec 6) (tag : BitVec 32) (body : List Byte) :
    (sendQ s dst qtype slice tag body).trust = s.trust := by simp [sendQ]
@[simp] theorem sendQ_factoryBad (s : State) (dst : BitVec 16) (qtype : Nat) (slice : BitVec 6) (tag : BitVec 32) (body : List Byte) :
    (sendQ s dst qtype slice tag body).factoryBad = s.factoryBad := by simp [sendQ]
@[simp] theorem sendQ_time (s : State) (dst : BitVec 16) (qtype : Nat) (slice : BitVec 6) (tag : BitVec 32) (body : List Byte) :
    (sendQ s dst qtype slice tag body).time = s.time := by simp [sendQ]
@[simp] theorem sendQ_firm (s : State) (dst : BitVec 16) (qtype : Nat) (slice : BitVec 6) (tag : BitVec 32) (body : List Byte) :
    (sendQ s dst qtype slice tag body).firm = s.firm := by simp [sendQ]
@[simp] theorem sendQ_tiles (s : State) (dst : BitVec 16) (qtype : Nat) (slice : BitVec 6) (tag : BitVec 32) (body : List Byte) :
    (sendQ s dst qtype slice tag body).tiles = s.tiles := by simp [sendQ]
@[simp] theorem sendQ_saved (s : State) (dst : BitVec 16) (qtype : Nat) (slice : BitVec 6) (tag : BitVec 32) (body : List Byte) :
    (sendQ s dst qtype slice tag body).saved = s.saved := by simp [sendQ]
@[simp] theorem sendQ_slots (s : State) (dst : BitVec 16) (qtype : Nat) (slice : BitVec 6) (tag : BitVec 32) (body : List Byte) :
    (sendQ s dst qtype slice tag body).slots = s.slots := by simp [sendQ]
@[simp] theorem sendQ_prog (s : State) (dst : BitVec 16) (qtype : Nat) (slice : BitVec 6) (tag : BitVec 32) (body : List Byte) :
    (sendQ s dst qtype slice tag body).prog = s.prog := by simp [sendQ]
@[simp] theorem sendQ_cluster (s : State) (dst : BitVec 16) (qtype : Nat) (slice : BitVec 6) (tag : BitVec 32) (body : List Byte) :
    (sendQ s dst qtype slice tag body).cluster = s.cluster := by simp [sendQ]
@[simp] theorem sendQ_dieSync (s : State) (dst : BitVec 16) (qtype : Nat) (slice : BitVec 6) (tag : BitVec 32) (body : List Byte) :
    (sendQ s dst qtype slice tag body).dieSync = s.dieSync := by simp [sendQ]
@[simp] theorem sendQ_samples (s : State) (dst : BitVec 16) (qtype : Nat) (slice : BitVec 6) (tag : BitVec 32) (body : List Byte) :
    (sendQ s dst qtype slice tag body).samples = s.samples := by simp [sendQ]
@[simp] theorem sendQ_closed (s : State) (dst : BitVec 16) (qtype : Nat) (slice : BitVec 6) (tag : BitVec 32) (body : List Byte) :
    (sendQ s dst qtype slice tag body).closed = s.closed := by simp [sendQ]
@[simp] theorem sendQ_ovfLog (s : State) (dst : BitVec 16) (qtype : Nat) (slice : BitVec 6) (tag : BitVec 32) (body : List Byte) :
    (sendQ s dst qtype slice tag body).ovfLog = s.ovfLog := by simp [sendQ]
@[simp] theorem sendQ_ovfOver (s : State) (dst : BitVec 16) (qtype : Nat) (slice : BitVec 6) (tag : BitVec 32) (body : List Byte) :
    (sendQ s dst qtype slice tag body).ovfOver = s.ovfOver := by simp [sendQ]
@[simp] theorem sendQ_ovfSat (s : State) (dst : BitVec 16) (qtype : Nat) (slice : BitVec 6) (tag : BitVec 32) (body : List Byte) :
    (sendQ s dst qtype slice tag body).ovfSat = s.ovfSat := by simp [sendQ]
@[simp] theorem sendQ_normStep (s : State) (dst : BitVec 16) (qtype : Nat) (slice : BitVec 6) (tag : BitVec 32) (body : List Byte) :
    (sendQ s dst qtype slice tag body).normStep = s.normStep := by simp [sendQ]
@[simp] theorem sendQ_trees (s : State) (dst : BitVec 16) (qtype : Nat) (slice : BitVec 6) (tag : BitVec 32) (body : List Byte) :
    (sendQ s dst qtype slice tag body).trees = s.trees := by simp [sendQ]
@[simp] theorem sendQ_mem (s : State) (dst : BitVec 16) (qtype : Nat) (slice : BitVec 6) (tag : BitVec 32) (body : List Byte) :
    (sendQ s dst qtype slice tag body).mem = s.mem := by simp [sendQ]
@[simp] theorem sendQ_ces (s : State) (dst : BitVec 16) (qtype : Nat) (slice : BitVec 6) (tag : BitVec 32) (body : List Byte) :
    (sendQ s dst qtype slice tag body).ces = s.ces := by simp [sendQ]
@[simp] theorem sendQ_hamper (s : State) (dst : BitVec 16) (qtype : Nat) (slice : BitVec 6) (tag : BitVec 32) (body : List Byte) :
    (sendQ s dst qtype slice tag body).hamper = s.hamper := by simp [sendQ]
@[simp] theorem sendQ_vkx (s : State) (dst : BitVec 16) (qtype : Nat) (slice : BitVec 6) (tag : BitVec 32) (body : List Byte) :
    (sendQ s dst qtype slice tag body).vkx = s.vkx := by simp [sendQ]
@[simp] theorem sendQ_phys (s : State) (dst : BitVec 16) (qtype : Nat) (slice : BitVec 6) (tag : BitVec 32) (body : List Byte) :
    (sendQ s dst qtype slice tag body).phys = s.phys := by simp [sendQ]
@[simp] theorem sendQ_free (s : State) (dst : BitVec 16) (qtype : Nat) (slice : BitVec 6) (tag : BitVec 32) (body : List Byte) :
    (sendQ s dst qtype slice tag body).free = s.free := by simp [sendQ]

/-! `forwardEvent` -/

@[simp] theorem forwardEvent_pending (s : State) (e : RingEntry) :
    (forwardEvent s e).pending = s.pending := by unfold forwardEvent; split <;> simp
@[simp] theorem forwardEvent_grade (s : State) (e : RingEntry) :
    (forwardEvent s e).grade = s.grade := by unfold forwardEvent; split <;> simp
@[simp] theorem forwardEvent_serial (s : State) (e : RingEntry) :
    (forwardEvent s e).serial = s.serial := by unfold forwardEvent; split <;> simp
@[simp] theorem forwardEvent_trust (s : State) (e : RingEntry) :
    (forwardEvent s e).trust = s.trust := by unfold forwardEvent; split <;> simp
@[simp] theorem forwardEvent_factoryBad (s : State) (e : RingEntry) :
    (forwardEvent s e).factoryBad = s.factoryBad := by unfold forwardEvent; split <;> simp
@[simp] theorem forwardEvent_time (s : State) (e : RingEntry) : (forwardEvent s e).time = s.time := by unfold forwardEvent; split <;> simp
@[simp] theorem forwardEvent_firm (s : State) (e : RingEntry) : (forwardEvent s e).firm = s.firm := by unfold forwardEvent; split <;> simp
@[simp] theorem forwardEvent_tiles (s : State) (e : RingEntry) :
    (forwardEvent s e).tiles = s.tiles := by unfold forwardEvent; split <;> simp
@[simp] theorem forwardEvent_saved (s : State) (e : RingEntry) :
    (forwardEvent s e).saved = s.saved := by unfold forwardEvent; split <;> simp
@[simp] theorem forwardEvent_slots (s : State) (e : RingEntry) :
    (forwardEvent s e).slots = s.slots := by unfold forwardEvent; split <;> simp
@[simp] theorem forwardEvent_prog (s : State) (e : RingEntry) : (forwardEvent s e).prog = s.prog := by unfold forwardEvent; split <;> simp
@[simp] theorem forwardEvent_cluster (s : State) (e : RingEntry) :
    (forwardEvent s e).cluster = s.cluster := by unfold forwardEvent; split <;> simp
@[simp] theorem forwardEvent_dieSync (s : State) (e : RingEntry) :
    (forwardEvent s e).dieSync = s.dieSync := by unfold forwardEvent; split <;> simp
@[simp] theorem forwardEvent_samples (s : State) (e : RingEntry) :
    (forwardEvent s e).samples = s.samples := by unfold forwardEvent; split <;> simp
@[simp] theorem forwardEvent_closed (s : State) (e : RingEntry) :
    (forwardEvent s e).closed = s.closed := by unfold forwardEvent; split <;> simp
@[simp] theorem forwardEvent_ovfLog (s : State) (e : RingEntry) :
    (forwardEvent s e).ovfLog = s.ovfLog := by unfold forwardEvent; split <;> simp
@[simp] theorem forwardEvent_ovfOver (s : State) (e : RingEntry) :
    (forwardEvent s e).ovfOver = s.ovfOver := by unfold forwardEvent; split <;> simp
@[simp] theorem forwardEvent_ovfSat (s : State) (e : RingEntry) :
    (forwardEvent s e).ovfSat = s.ovfSat := by unfold forwardEvent; split <;> simp
@[simp] theorem forwardEvent_normStep (s : State) (e : RingEntry) :
    (forwardEvent s e).normStep = s.normStep := by unfold forwardEvent; split <;> simp
@[simp] theorem forwardEvent_trees (s : State) (e : RingEntry) :
    (forwardEvent s e).trees = s.trees := by unfold forwardEvent; split <;> simp
@[simp] theorem forwardEvent_mem (s : State) (e : RingEntry) : (forwardEvent s e).mem = s.mem := by unfold forwardEvent; split <;> simp
@[simp] theorem forwardEvent_ces (s : State) (e : RingEntry) : (forwardEvent s e).ces = s.ces := by unfold forwardEvent; split <;> simp
@[simp] theorem forwardEvent_hamper (s : State) (e : RingEntry) :
    (forwardEvent s e).hamper = s.hamper := by unfold forwardEvent; split <;> simp
@[simp] theorem forwardEvent_vkx (s : State) (e : RingEntry) : (forwardEvent s e).vkx = s.vkx := by unfold forwardEvent; split <;> simp
@[simp] theorem forwardEvent_phys (s : State) (e : RingEntry) : (forwardEvent s e).phys = s.phys := by unfold forwardEvent; split <;> simp
@[simp] theorem forwardEvent_free (s : State) (e : RingEntry) : (forwardEvent s e).free = s.free := by unfold forwardEvent; split <;> simp

/-! `queueEvent` -/

@[simp] theorem queueEvent_pending (s : State) (e : RingEntry) :
    (queueEvent s e).pending = s.pending := by unfold queueEvent; (repeat' split) <;> rfl
@[simp] theorem queueEvent_grade (s : State) (e : RingEntry) :
    (queueEvent s e).grade = s.grade := by unfold queueEvent; (repeat' split) <;> rfl
@[simp] theorem queueEvent_serial (s : State) (e : RingEntry) :
    (queueEvent s e).serial = s.serial := by unfold queueEvent; (repeat' split) <;> rfl
@[simp] theorem queueEvent_trust (s : State) (e : RingEntry) :
    (queueEvent s e).trust = s.trust := by unfold queueEvent; (repeat' split) <;> rfl
@[simp] theorem queueEvent_factoryBad (s : State) (e : RingEntry) :
    (queueEvent s e).factoryBad = s.factoryBad := by unfold queueEvent; (repeat' split) <;> rfl
@[simp] theorem queueEvent_time (s : State) (e : RingEntry) :
    (queueEvent s e).time = s.time := by unfold queueEvent; (repeat' split) <;> rfl
@[simp] theorem queueEvent_firm (s : State) (e : RingEntry) :
    (queueEvent s e).firm = s.firm := by unfold queueEvent; (repeat' split) <;> rfl
@[simp] theorem queueEvent_tiles (s : State) (e : RingEntry) :
    (queueEvent s e).tiles = s.tiles := by unfold queueEvent; (repeat' split) <;> rfl
@[simp] theorem queueEvent_saved (s : State) (e : RingEntry) :
    (queueEvent s e).saved = s.saved := by unfold queueEvent; (repeat' split) <;> rfl
@[simp] theorem queueEvent_slots (s : State) (e : RingEntry) :
    (queueEvent s e).slots = s.slots := by unfold queueEvent; (repeat' split) <;> rfl
@[simp] theorem queueEvent_prog (s : State) (e : RingEntry) :
    (queueEvent s e).prog = s.prog := by unfold queueEvent; (repeat' split) <;> rfl
@[simp] theorem queueEvent_cluster (s : State) (e : RingEntry) :
    (queueEvent s e).cluster = s.cluster := by unfold queueEvent; (repeat' split) <;> rfl
@[simp] theorem queueEvent_dieSync (s : State) (e : RingEntry) :
    (queueEvent s e).dieSync = s.dieSync := by unfold queueEvent; (repeat' split) <;> rfl
@[simp] theorem queueEvent_samples (s : State) (e : RingEntry) :
    (queueEvent s e).samples = s.samples := by unfold queueEvent; (repeat' split) <;> rfl
@[simp] theorem queueEvent_closed (s : State) (e : RingEntry) :
    (queueEvent s e).closed = s.closed := by unfold queueEvent; (repeat' split) <;> rfl
@[simp] theorem queueEvent_ovfLog (s : State) (e : RingEntry) :
    (queueEvent s e).ovfLog = s.ovfLog := by unfold queueEvent; (repeat' split) <;> rfl
@[simp] theorem queueEvent_ovfOver (s : State) (e : RingEntry) :
    (queueEvent s e).ovfOver = s.ovfOver := by unfold queueEvent; (repeat' split) <;> rfl
@[simp] theorem queueEvent_ovfSat (s : State) (e : RingEntry) :
    (queueEvent s e).ovfSat = s.ovfSat := by unfold queueEvent; (repeat' split) <;> rfl
@[simp] theorem queueEvent_normStep (s : State) (e : RingEntry) :
    (queueEvent s e).normStep = s.normStep := by unfold queueEvent; (repeat' split) <;> rfl
@[simp] theorem queueEvent_trees (s : State) (e : RingEntry) :
    (queueEvent s e).trees = s.trees := by unfold queueEvent; (repeat' split) <;> rfl
@[simp] theorem queueEvent_mem (s : State) (e : RingEntry) : (queueEvent s e).mem = s.mem := by unfold queueEvent; (repeat' split) <;> rfl
@[simp] theorem queueEvent_fab (s : State) (e : RingEntry) : (queueEvent s e).fab = s.fab := by unfold queueEvent; (repeat' split) <;> rfl
@[simp] theorem queueEvent_ces (s : State) (e : RingEntry) : (queueEvent s e).ces = s.ces := by unfold queueEvent; (repeat' split) <;> rfl
@[simp] theorem queueEvent_hamper (s : State) (e : RingEntry) :
    (queueEvent s e).hamper = s.hamper := by unfold queueEvent; (repeat' split) <;> rfl
@[simp] theorem queueEvent_phys (s : State) (e : RingEntry) :
    (queueEvent s e).phys = s.phys := by unfold queueEvent; (repeat' split) <;> rfl
@[simp] theorem queueEvent_free (s : State) (e : RingEntry) :
    (queueEvent s e).free = s.free := by unfold queueEvent; (repeat' split) <;> rfl

/-! `raiseEvent` -/

@[simp] theorem raiseEvent_pending (s : State) (code cls : Nat) (path : Word) (body : List Byte) :
    (raiseEvent s code cls path body).pending = s.pending := by simp [raiseEvent]
@[simp] theorem raiseEvent_grade (s : State) (code cls : Nat) (path : Word) (body : List Byte) :
    (raiseEvent s code cls path body).grade = s.grade := by simp [raiseEvent]
@[simp] theorem raiseEvent_serial (s : State) (code cls : Nat) (path : Word) (body : List Byte) :
    (raiseEvent s code cls path body).serial = s.serial := by simp [raiseEvent]
@[simp] theorem raiseEvent_trust (s : State) (code cls : Nat) (path : Word) (body : List Byte) :
    (raiseEvent s code cls path body).trust = s.trust := by simp [raiseEvent]
@[simp] theorem raiseEvent_factoryBad (s : State) (code cls : Nat) (path : Word) (body : List Byte) :
    (raiseEvent s code cls path body).factoryBad = s.factoryBad := by simp [raiseEvent]
@[simp] theorem raiseEvent_time (s : State) (code cls : Nat) (path : Word) (body : List Byte) :
    (raiseEvent s code cls path body).time = s.time := by simp [raiseEvent]
@[simp] theorem raiseEvent_firm (s : State) (code cls : Nat) (path : Word) (body : List Byte) :
    (raiseEvent s code cls path body).firm = s.firm := by simp [raiseEvent]
@[simp] theorem raiseEvent_tiles (s : State) (code cls : Nat) (path : Word) (body : List Byte) :
    (raiseEvent s code cls path body).tiles = s.tiles := by simp [raiseEvent]
@[simp] theorem raiseEvent_saved (s : State) (code cls : Nat) (path : Word) (body : List Byte) :
    (raiseEvent s code cls path body).saved = s.saved := by simp [raiseEvent]
@[simp] theorem raiseEvent_slots (s : State) (code cls : Nat) (path : Word) (body : List Byte) :
    (raiseEvent s code cls path body).slots = s.slots := by simp [raiseEvent]
@[simp] theorem raiseEvent_prog (s : State) (code cls : Nat) (path : Word) (body : List Byte) :
    (raiseEvent s code cls path body).prog = s.prog := by simp [raiseEvent]
@[simp] theorem raiseEvent_cluster (s : State) (code cls : Nat) (path : Word) (body : List Byte) :
    (raiseEvent s code cls path body).cluster = s.cluster := by simp [raiseEvent]
@[simp] theorem raiseEvent_dieSync (s : State) (code cls : Nat) (path : Word) (body : List Byte) :
    (raiseEvent s code cls path body).dieSync = s.dieSync := by simp [raiseEvent]
@[simp] theorem raiseEvent_samples (s : State) (code cls : Nat) (path : Word) (body : List Byte) :
    (raiseEvent s code cls path body).samples = s.samples := by simp [raiseEvent]
@[simp] theorem raiseEvent_closed (s : State) (code cls : Nat) (path : Word) (body : List Byte) :
    (raiseEvent s code cls path body).closed = s.closed := by simp [raiseEvent]
@[simp] theorem raiseEvent_ovfLog (s : State) (code cls : Nat) (path : Word) (body : List Byte) :
    (raiseEvent s code cls path body).ovfLog = s.ovfLog := by simp [raiseEvent]
@[simp] theorem raiseEvent_ovfOver (s : State) (code cls : Nat) (path : Word) (body : List Byte) :
    (raiseEvent s code cls path body).ovfOver = s.ovfOver := by simp [raiseEvent]
@[simp] theorem raiseEvent_ovfSat (s : State) (code cls : Nat) (path : Word) (body : List Byte) :
    (raiseEvent s code cls path body).ovfSat = s.ovfSat := by simp [raiseEvent]
@[simp] theorem raiseEvent_normStep (s : State) (code cls : Nat) (path : Word) (body : List Byte) :
    (raiseEvent s code cls path body).normStep = s.normStep := by simp [raiseEvent]
@[simp] theorem raiseEvent_trees (s : State) (code cls : Nat) (path : Word) (body : List Byte) :
    (raiseEvent s code cls path body).trees = s.trees := by simp [raiseEvent]
@[simp] theorem raiseEvent_mem (s : State) (code cls : Nat) (path : Word) (body : List Byte) :
    (raiseEvent s code cls path body).mem = s.mem := by simp [raiseEvent]
@[simp] theorem raiseEvent_ces (s : State) (code cls : Nat) (path : Word) (body : List Byte) :
    (raiseEvent s code cls path body).ces = s.ces := by simp [raiseEvent]
@[simp] theorem raiseEvent_hamper (s : State) (code cls : Nat) (path : Word) (body : List Byte) :
    (raiseEvent s code cls path body).hamper = s.hamper := by simp [raiseEvent]
@[simp] theorem raiseEvent_phys (s : State) (code cls : Nat) (path : Word) (body : List Byte) :
    (raiseEvent s code cls path body).phys = s.phys := by simp [raiseEvent]
@[simp] theorem raiseEvent_free (s : State) (code cls : Nat) (path : Word) (body : List Byte) :
    (raiseEvent s code cls path body).free = s.free := by simp [raiseEvent]

/-! `cmdRecord` -/

@[simp] theorem cmdRecord_pending (s : State) (c : PendCmd) (status : Nat) (detail : Word) :
    (cmdRecord s c status detail).pending = s.pending := by simp [cmdRecord]
@[simp] theorem cmdRecord_grade (s : State) (c : PendCmd) (status : Nat) (detail : Word) :
    (cmdRecord s c status detail).grade = s.grade := by simp [cmdRecord]
@[simp] theorem cmdRecord_serial (s : State) (c : PendCmd) (status : Nat) (detail : Word) :
    (cmdRecord s c status detail).serial = s.serial := by simp [cmdRecord]
@[simp] theorem cmdRecord_trust (s : State) (c : PendCmd) (status : Nat) (detail : Word) :
    (cmdRecord s c status detail).trust = s.trust := by simp [cmdRecord]
@[simp] theorem cmdRecord_factoryBad (s : State) (c : PendCmd) (status : Nat) (detail : Word) :
    (cmdRecord s c status detail).factoryBad = s.factoryBad := by simp [cmdRecord]
@[simp] theorem cmdRecord_time (s : State) (c : PendCmd) (status : Nat) (detail : Word) :
    (cmdRecord s c status detail).time = s.time := by simp [cmdRecord]
@[simp] theorem cmdRecord_tiles (s : State) (c : PendCmd) (status : Nat) (detail : Word) :
    (cmdRecord s c status detail).tiles = s.tiles := by simp [cmdRecord]
@[simp] theorem cmdRecord_saved (s : State) (c : PendCmd) (status : Nat) (detail : Word) :
    (cmdRecord s c status detail).saved = s.saved := by simp [cmdRecord]
@[simp] theorem cmdRecord_slots (s : State) (c : PendCmd) (status : Nat) (detail : Word) :
    (cmdRecord s c status detail).slots = s.slots := by simp [cmdRecord]
@[simp] theorem cmdRecord_prog (s : State) (c : PendCmd) (status : Nat) (detail : Word) :
    (cmdRecord s c status detail).prog = s.prog := by simp [cmdRecord]
@[simp] theorem cmdRecord_cluster (s : State) (c : PendCmd) (status : Nat) (detail : Word) :
    (cmdRecord s c status detail).cluster = s.cluster := by simp [cmdRecord]
@[simp] theorem cmdRecord_dieSync (s : State) (c : PendCmd) (status : Nat) (detail : Word) :
    (cmdRecord s c status detail).dieSync = s.dieSync := by simp [cmdRecord]
@[simp] theorem cmdRecord_samples (s : State) (c : PendCmd) (status : Nat) (detail : Word) :
    (cmdRecord s c status detail).samples = s.samples := by simp [cmdRecord]
@[simp] theorem cmdRecord_closed (s : State) (c : PendCmd) (status : Nat) (detail : Word) :
    (cmdRecord s c status detail).closed = s.closed := by simp [cmdRecord]
@[simp] theorem cmdRecord_ovfLog (s : State) (c : PendCmd) (status : Nat) (detail : Word) :
    (cmdRecord s c status detail).ovfLog = s.ovfLog := by simp [cmdRecord]
@[simp] theorem cmdRecord_ovfOver (s : State) (c : PendCmd) (status : Nat) (detail : Word) :
    (cmdRecord s c status detail).ovfOver = s.ovfOver := by simp [cmdRecord]
@[simp] theorem cmdRecord_ovfSat (s : State) (c : PendCmd) (status : Nat) (detail : Word) :
    (cmdRecord s c status detail).ovfSat = s.ovfSat := by simp [cmdRecord]
@[simp] theorem cmdRecord_normStep (s : State) (c : PendCmd) (status : Nat) (detail : Word) :
    (cmdRecord s c status detail).normStep = s.normStep := by simp [cmdRecord]
@[simp] theorem cmdRecord_trees (s : State) (c : PendCmd) (status : Nat) (detail : Word) :
    (cmdRecord s c status detail).trees = s.trees := by simp [cmdRecord]
@[simp] theorem cmdRecord_mem (s : State) (c : PendCmd) (status : Nat) (detail : Word) :
    (cmdRecord s c status detail).mem = s.mem := by simp [cmdRecord]
@[simp] theorem cmdRecord_fab (s : State) (c : PendCmd) (status : Nat) (detail : Word) :
    (cmdRecord s c status detail).fab = s.fab := by simp [cmdRecord]
@[simp] theorem cmdRecord_ces (s : State) (c : PendCmd) (status : Nat) (detail : Word) :
    (cmdRecord s c status detail).ces = s.ces := by simp [cmdRecord]
@[simp] theorem cmdRecord_hamper (s : State) (c : PendCmd) (status : Nat) (detail : Word) :
    (cmdRecord s c status detail).hamper = s.hamper := by simp [cmdRecord]
@[simp] theorem cmdRecord_vkx (s : State) (c : PendCmd) (status : Nat) (detail : Word) :
    (cmdRecord s c status detail).vkx = s.vkx := by simp [cmdRecord]
@[simp] theorem cmdRecord_phys (s : State) (c : PendCmd) (status : Nat) (detail : Word) :
    (cmdRecord s c status detail).phys = s.phys := by simp [cmdRecord]
@[simp] theorem cmdRecord_out (s : State) (c : PendCmd) (status : Nat) (detail : Word) :
    (cmdRecord s c status detail).out = s.out := by simp [cmdRecord]
@[simp] theorem cmdRecord_free (s : State) (c : PendCmd) (status : Nat) (detail : Word) :
    (cmdRecord s c status detail).free = s.free := by simp [cmdRecord]

/-! `outEntry` -/

@[simp] theorem outEntry_pending (s : State) (r : Route) (e : RingEntry) :
    (outEntry s r e).pending = s.pending := by unfold outEntry; split <;> simp
@[simp] theorem outEntry_grade (s : State) (r : Route) (e : RingEntry) :
    (outEntry s r e).grade = s.grade := by unfold outEntry; split <;> simp
@[simp] theorem outEntry_serial (s : State) (r : Route) (e : RingEntry) :
    (outEntry s r e).serial = s.serial := by unfold outEntry; split <;> simp
@[simp] theorem outEntry_trust (s : State) (r : Route) (e : RingEntry) :
    (outEntry s r e).trust = s.trust := by unfold outEntry; split <;> simp
@[simp] theorem outEntry_factoryBad (s : State) (r : Route) (e : RingEntry) :
    (outEntry s r e).factoryBad = s.factoryBad := by unfold outEntry; split <;> simp
@[simp] theorem outEntry_time (s : State) (r : Route) (e : RingEntry) : (outEntry s r e).time = s.time := by unfold outEntry; split <;> simp
@[simp] theorem outEntry_firm (s : State) (r : Route) (e : RingEntry) : (outEntry s r e).firm = s.firm := by unfold outEntry; split <;> simp
@[simp] theorem outEntry_tiles (s : State) (r : Route) (e : RingEntry) :
    (outEntry s r e).tiles = s.tiles := by unfold outEntry; split <;> simp
@[simp] theorem outEntry_saved (s : State) (r : Route) (e : RingEntry) :
    (outEntry s r e).saved = s.saved := by unfold outEntry; split <;> simp
@[simp] theorem outEntry_slots (s : State) (r : Route) (e : RingEntry) :
    (outEntry s r e).slots = s.slots := by unfold outEntry; split <;> simp
@[simp] theorem outEntry_prog (s : State) (r : Route) (e : RingEntry) : (outEntry s r e).prog = s.prog := by unfold outEntry; split <;> simp
@[simp] theorem outEntry_cluster (s : State) (r : Route) (e : RingEntry) :
    (outEntry s r e).cluster = s.cluster := by unfold outEntry; split <;> simp
@[simp] theorem outEntry_dieSync (s : State) (r : Route) (e : RingEntry) :
    (outEntry s r e).dieSync = s.dieSync := by unfold outEntry; split <;> simp
@[simp] theorem outEntry_samples (s : State) (r : Route) (e : RingEntry) :
    (outEntry s r e).samples = s.samples := by unfold outEntry; split <;> simp
@[simp] theorem outEntry_closed (s : State) (r : Route) (e : RingEntry) :
    (outEntry s r e).closed = s.closed := by unfold outEntry; split <;> simp
@[simp] theorem outEntry_ovfLog (s : State) (r : Route) (e : RingEntry) :
    (outEntry s r e).ovfLog = s.ovfLog := by unfold outEntry; split <;> simp
@[simp] theorem outEntry_ovfOver (s : State) (r : Route) (e : RingEntry) :
    (outEntry s r e).ovfOver = s.ovfOver := by unfold outEntry; split <;> simp
@[simp] theorem outEntry_ovfSat (s : State) (r : Route) (e : RingEntry) :
    (outEntry s r e).ovfSat = s.ovfSat := by unfold outEntry; split <;> simp
@[simp] theorem outEntry_normStep (s : State) (r : Route) (e : RingEntry) :
    (outEntry s r e).normStep = s.normStep := by unfold outEntry; split <;> simp
@[simp] theorem outEntry_trees (s : State) (r : Route) (e : RingEntry) :
    (outEntry s r e).trees = s.trees := by unfold outEntry; split <;> simp
@[simp] theorem outEntry_mem (s : State) (r : Route) (e : RingEntry) : (outEntry s r e).mem = s.mem := by unfold outEntry; split <;> simp
@[simp] theorem outEntry_ces (s : State) (r : Route) (e : RingEntry) : (outEntry s r e).ces = s.ces := by unfold outEntry; split <;> simp
@[simp] theorem outEntry_hamper (s : State) (r : Route) (e : RingEntry) :
    (outEntry s r e).hamper = s.hamper := by unfold outEntry; split <;> simp
@[simp] theorem outEntry_phys (s : State) (r : Route) (e : RingEntry) : (outEntry s r e).phys = s.phys := by unfold outEntry; split <;> simp
@[simp] theorem outEntry_free (s : State) (r : Route) (e : RingEntry) : (outEntry s r e).free = s.free := by unfold outEntry; split <;> simp

/-! `linkEvent` -/

@[simp] theorem linkEvent_pending (s : State) (k handle : Nat) : (linkEvent s k handle).pending = s.pending := by simp [linkEvent]
@[simp] theorem linkEvent_grade (s : State) (k handle : Nat) : (linkEvent s k handle).grade = s.grade := by simp [linkEvent]
@[simp] theorem linkEvent_serial (s : State) (k handle : Nat) : (linkEvent s k handle).serial = s.serial := by simp [linkEvent]
@[simp] theorem linkEvent_trust (s : State) (k handle : Nat) : (linkEvent s k handle).trust = s.trust := by simp [linkEvent]
@[simp] theorem linkEvent_factoryBad (s : State) (k handle : Nat) : (linkEvent s k handle).factoryBad = s.factoryBad := by simp [linkEvent]
@[simp] theorem linkEvent_time (s : State) (k handle : Nat) : (linkEvent s k handle).time = s.time := by simp [linkEvent]
@[simp] theorem linkEvent_firm (s : State) (k handle : Nat) : (linkEvent s k handle).firm = s.firm := by simp [linkEvent]
@[simp] theorem linkEvent_tiles (s : State) (k handle : Nat) : (linkEvent s k handle).tiles = s.tiles := by simp [linkEvent]
@[simp] theorem linkEvent_saved (s : State) (k handle : Nat) : (linkEvent s k handle).saved = s.saved := by simp [linkEvent]
@[simp] theorem linkEvent_slots (s : State) (k handle : Nat) : (linkEvent s k handle).slots = s.slots := by simp [linkEvent]
@[simp] theorem linkEvent_prog (s : State) (k handle : Nat) : (linkEvent s k handle).prog = s.prog := by simp [linkEvent]
@[simp] theorem linkEvent_cluster (s : State) (k handle : Nat) : (linkEvent s k handle).cluster = s.cluster := by simp [linkEvent]
@[simp] theorem linkEvent_dieSync (s : State) (k handle : Nat) : (linkEvent s k handle).dieSync = s.dieSync := by simp [linkEvent]
@[simp] theorem linkEvent_samples (s : State) (k handle : Nat) : (linkEvent s k handle).samples = s.samples := by simp [linkEvent]
@[simp] theorem linkEvent_closed (s : State) (k handle : Nat) : (linkEvent s k handle).closed = s.closed := by simp [linkEvent]
@[simp] theorem linkEvent_ovfLog (s : State) (k handle : Nat) : (linkEvent s k handle).ovfLog = s.ovfLog := by simp [linkEvent]
@[simp] theorem linkEvent_ovfOver (s : State) (k handle : Nat) : (linkEvent s k handle).ovfOver = s.ovfOver := by simp [linkEvent]
@[simp] theorem linkEvent_ovfSat (s : State) (k handle : Nat) : (linkEvent s k handle).ovfSat = s.ovfSat := by simp [linkEvent]
@[simp] theorem linkEvent_normStep (s : State) (k handle : Nat) : (linkEvent s k handle).normStep = s.normStep := by simp [linkEvent]
@[simp] theorem linkEvent_trees (s : State) (k handle : Nat) : (linkEvent s k handle).trees = s.trees := by simp [linkEvent]
@[simp] theorem linkEvent_mem (s : State) (k handle : Nat) : (linkEvent s k handle).mem = s.mem := by simp [linkEvent]
@[simp] theorem linkEvent_ces (s : State) (k handle : Nat) : (linkEvent s k handle).ces = s.ces := by simp [linkEvent]
@[simp] theorem linkEvent_hamper (s : State) (k handle : Nat) : (linkEvent s k handle).hamper = s.hamper := by simp [linkEvent]
@[simp] theorem linkEvent_phys (s : State) (k handle : Nat) : (linkEvent s k handle).phys = s.phys := by simp [linkEvent]
@[simp] theorem linkEvent_free (s : State) (k handle : Nat) : (linkEvent s k handle).free = s.free := by simp [linkEvent]

/-! `thermalEvent` -/

@[simp] theorem thermalEvent_pending (s : State) (kind : Nat) : (thermalEvent s kind).pending = s.pending := by simp [thermalEvent]
@[simp] theorem thermalEvent_grade (s : State) (kind : Nat) : (thermalEvent s kind).grade = s.grade := by simp [thermalEvent]
@[simp] theorem thermalEvent_serial (s : State) (kind : Nat) : (thermalEvent s kind).serial = s.serial := by simp [thermalEvent]
@[simp] theorem thermalEvent_trust (s : State) (kind : Nat) : (thermalEvent s kind).trust = s.trust := by simp [thermalEvent]
@[simp] theorem thermalEvent_factoryBad (s : State) (kind : Nat) : (thermalEvent s kind).factoryBad = s.factoryBad := by simp [thermalEvent]
@[simp] theorem thermalEvent_time (s : State) (kind : Nat) : (thermalEvent s kind).time = s.time := by simp [thermalEvent]
@[simp] theorem thermalEvent_firm (s : State) (kind : Nat) : (thermalEvent s kind).firm = s.firm := by simp [thermalEvent]
@[simp] theorem thermalEvent_tiles (s : State) (kind : Nat) : (thermalEvent s kind).tiles = s.tiles := by simp [thermalEvent]
@[simp] theorem thermalEvent_saved (s : State) (kind : Nat) : (thermalEvent s kind).saved = s.saved := by simp [thermalEvent]
@[simp] theorem thermalEvent_slots (s : State) (kind : Nat) : (thermalEvent s kind).slots = s.slots := by simp [thermalEvent]
@[simp] theorem thermalEvent_prog (s : State) (kind : Nat) : (thermalEvent s kind).prog = s.prog := by simp [thermalEvent]
@[simp] theorem thermalEvent_cluster (s : State) (kind : Nat) : (thermalEvent s kind).cluster = s.cluster := by simp [thermalEvent]
@[simp] theorem thermalEvent_dieSync (s : State) (kind : Nat) : (thermalEvent s kind).dieSync = s.dieSync := by simp [thermalEvent]
@[simp] theorem thermalEvent_samples (s : State) (kind : Nat) : (thermalEvent s kind).samples = s.samples := by simp [thermalEvent]
@[simp] theorem thermalEvent_closed (s : State) (kind : Nat) : (thermalEvent s kind).closed = s.closed := by simp [thermalEvent]
@[simp] theorem thermalEvent_ovfLog (s : State) (kind : Nat) : (thermalEvent s kind).ovfLog = s.ovfLog := by simp [thermalEvent]
@[simp] theorem thermalEvent_ovfOver (s : State) (kind : Nat) : (thermalEvent s kind).ovfOver = s.ovfOver := by simp [thermalEvent]
@[simp] theorem thermalEvent_ovfSat (s : State) (kind : Nat) : (thermalEvent s kind).ovfSat = s.ovfSat := by simp [thermalEvent]
@[simp] theorem thermalEvent_normStep (s : State) (kind : Nat) : (thermalEvent s kind).normStep = s.normStep := by simp [thermalEvent]
@[simp] theorem thermalEvent_trees (s : State) (kind : Nat) : (thermalEvent s kind).trees = s.trees := by simp [thermalEvent]
@[simp] theorem thermalEvent_mem (s : State) (kind : Nat) : (thermalEvent s kind).mem = s.mem := by simp [thermalEvent]
@[simp] theorem thermalEvent_ces (s : State) (kind : Nat) : (thermalEvent s kind).ces = s.ces := by simp [thermalEvent]
@[simp] theorem thermalEvent_hamper (s : State) (kind : Nat) : (thermalEvent s kind).hamper = s.hamper := by simp [thermalEvent]
@[simp] theorem thermalEvent_phys (s : State) (kind : Nat) : (thermalEvent s kind).phys = s.phys := by simp [thermalEvent]
@[simp] theorem thermalEvent_free (s : State) (kind : Nat) : (thermalEvent s kind).free = s.free := by simp [thermalEvent]

/-! `setState` -/

@[simp] theorem setState_pending (s : State) (d : DevState) : (setState s d).pending = s.pending := by unfold setState; split <;> simp
@[simp] theorem setState_grade (s : State) (d : DevState) : (setState s d).grade = s.grade := by unfold setState; split <;> simp
@[simp] theorem setState_serial (s : State) (d : DevState) : (setState s d).serial = s.serial := by unfold setState; split <;> simp
@[simp] theorem setState_trust (s : State) (d : DevState) : (setState s d).trust = s.trust := by unfold setState; split <;> simp
@[simp] theorem setState_factoryBad (s : State) (d : DevState) :
    (setState s d).factoryBad = s.factoryBad := by unfold setState; split <;> simp
@[simp] theorem setState_time (s : State) (d : DevState) : (setState s d).time = s.time := by unfold setState; split <;> simp
@[simp] theorem setState_tiles (s : State) (d : DevState) : (setState s d).tiles = s.tiles := by unfold setState; split <;> simp
@[simp] theorem setState_saved (s : State) (d : DevState) : (setState s d).saved = s.saved := by unfold setState; split <;> simp
@[simp] theorem setState_slots (s : State) (d : DevState) : (setState s d).slots = s.slots := by unfold setState; split <;> simp
@[simp] theorem setState_prog (s : State) (d : DevState) : (setState s d).prog = s.prog := by unfold setState; split <;> simp
@[simp] theorem setState_cluster (s : State) (d : DevState) : (setState s d).cluster = s.cluster := by unfold setState; split <;> simp
@[simp] theorem setState_dieSync (s : State) (d : DevState) : (setState s d).dieSync = s.dieSync := by unfold setState; split <;> simp
@[simp] theorem setState_samples (s : State) (d : DevState) : (setState s d).samples = s.samples := by unfold setState; split <;> simp
@[simp] theorem setState_closed (s : State) (d : DevState) : (setState s d).closed = s.closed := by unfold setState; split <;> simp
@[simp] theorem setState_ovfLog (s : State) (d : DevState) : (setState s d).ovfLog = s.ovfLog := by unfold setState; split <;> simp
@[simp] theorem setState_ovfOver (s : State) (d : DevState) : (setState s d).ovfOver = s.ovfOver := by unfold setState; split <;> simp
@[simp] theorem setState_ovfSat (s : State) (d : DevState) : (setState s d).ovfSat = s.ovfSat := by unfold setState; split <;> simp
@[simp] theorem setState_normStep (s : State) (d : DevState) : (setState s d).normStep = s.normStep := by unfold setState; split <;> simp
@[simp] theorem setState_trees (s : State) (d : DevState) : (setState s d).trees = s.trees := by unfold setState; split <;> simp
@[simp] theorem setState_mem (s : State) (d : DevState) : (setState s d).mem = s.mem := by unfold setState; split <;> simp
@[simp] theorem setState_ces (s : State) (d : DevState) : (setState s d).ces = s.ces := by unfold setState; split <;> simp
@[simp] theorem setState_hamper (s : State) (d : DevState) : (setState s d).hamper = s.hamper := by unfold setState; split <;> simp
@[simp] theorem setState_phys (s : State) (d : DevState) : (setState s d).phys = s.phys := by unfold setState; split <;> simp
@[simp] theorem setState_free (s : State) (d : DevState) : (setState s d).free = s.free := by unfold setState; split <;> simp

/-! ### Reads after updates -/

theorem rd_upd {α : Type} [DecidableEq α] (d : α) (t : Table α) (k j : Nat) (f : α → α) :
    rd d (upd d t k f) j = if j = k then f (rd d t k) else rd d t j := rd_wr d t k j _

theorem tileAt_putTile (s : State) (t n : Nat) (x : Tile) : tileAt (putTile s t x) n = if n = t then x else tileAt s n :=
  rd_wr ({} : Tile) s.tiles t n x

theorem tileAt_modTile (s : State) (t n : Nat) (f : Tile → Tile) :
    tileAt (modTile s t f) n = if n = t then f (tileAt s t) else tileAt s n := tileAt_putTile s t n _

@[simp] theorem tileAt_modTile_same (s : State) (t : Nat) (f : Tile → Tile) : tileAt (modTile s t f) t = f (tileAt s t) := by
  simp [tileAt_modTile]

theorem tileAt_modTile_other (s : State) {t n : Nat} (f : Tile → Tile) (h : n ≠ t) : tileAt (modTile s t f) n = tileAt s n := by
  simp [tileAt_modTile, h]

@[simp] theorem ctxS_ctxPut_same (c : Context) (st : Stream) (x : StreamCtx) : ctxS (ctxPut c st x) st = x := by cases st <;> rfl

theorem ctxS_ctxPut_other (c : Context) {st q : Stream} (x : StreamCtx) (h : q ≠ st) : ctxS (ctxPut c st x) q = ctxS c q := by
  cases st <;> cases q <;> simp_all [ctxPut, ctxS]

@[simp] theorem strm_modStrm_same (s : State) (t : Nat) (st : Stream) (f : StreamCtx → StreamCtx) :
    strm (modStrm s t st f) t st = f (strm s t st) := by
  simp [strm, modStrm, modCtx]

theorem strm_modStrm_other (s : State) {t n : Nat} {st q : Stream} (f : StreamCtx → StreamCtx) (h : n ≠ t ∨ q ≠ st) :
    strm (modStrm s t st f) n q = strm s n q := by
  simp only [strm, modStrm, modCtx, tileAt_modTile]
  split
  · next hn =>
    subst hn
    exact ctxS_ctxPut_other _ _ (h.resolve_left fun hne => hne rfl)
  · rfl

theorem strandAt_modStrand (s : State) (k j : Nat) (f : Strand → Strand) :
    strandAt (modStrand s k f) j = if j = k then f (strandAt s k) else strandAt s j := rd_upd ({} : Strand) s.fab.strands k j f

theorem portAt_modPort (s : State) (p q : Nat) (f : Port → Port) :
    portAt (modPort s p f) q = if q = p then f (portAt s p) else portAt s q := rd_upd ({} : Port) s.fab.ports p q f

theorem tree_modTree (s : State) (k j : Nat) (f : Tree → Tree) :
    rd {} (modTree s k f).trees j = if j = k then f (rd {} s.trees k) else rd {} s.trees j := rd_upd ({} : Tree) s.trees k j f

theorem blockAt_modBlock (s : State) (k j : Nat) (f : Block → Block) :
    blockAt (modBlock s k f) j = if j = k then f (blockAt s k) else blockAt s j := rd_upd ({} : Block) s.hamper.blocks k j f

theorem slice_modSlice (s : State) (k j : Nat) (f : Slice → Slice) :
    rd {} (modSlice s k f).mem.slices j = if j = k then f (rd {} s.mem.slices k) else rd {} s.mem.slices j :=
  rd_upd ({} : Slice) s.mem.slices k j f

theorem stack_modStack (s : State) (k j : Nat) (f : Stack → Stack) :
    rd {} (modStack s k f).mem.hbm j = if j = k then f (rd {} s.mem.hbm k) else rd {} s.mem.hbm j :=
  rd_upd ({} : Stack) s.mem.hbm k j f

/-- A counter as it is set, read back, and the counters beside it (R310). -/
theorem emit_out (s : State) (o : Out) : (emit s o).out = s.out ++ [o] := by unfold emit; dsimp only; split <;> rfl

theorem record_records (s : State) (r : Record) : (record s r).firm.records = s.firm.records ++ [r] := rfl

end Sys2Proof.Machine
end

