-- ==== Sys2Proof/Laws/Memory.lean ====
section
/-! SUPPORT. Device and host memory: every operation on them keeps the canonical form, the caches of the home slices change no byte, and a
write leaves the bytes outside its range. -/

namespace Sys2Proof.Machine

/-! ### Cleared ranges -/

theorem wfFrom_filter {α : Type} [DecidableEq α] (d : α) (p : Nat × α → Bool) (t : Table α) (lo : Option Nat)
    (hw : wfFrom d lo t = true) : wfFrom d lo (t.filter p) = true := by
  induction t generalizing lo with
  | nil => rfl
  | cons e t ih =>
    obtain ⟨k, v⟩ := e
    simp only [wfFrom, Bool.and_eq_true] at hw
    by_cases hp : p (k, v) = true
    · simp only [List.filter_cons_of_pos hp, wfFrom, Bool.and_eq_true]
      exact ⟨hw.1, ih _ hw.2⟩
    · rw [List.filter_cons_of_neg hp]
      refine wfFrom_weaken d _ ?_ (ih _ hw.2)
      rintro l rfl
      exact ⟨k, rfl, by have := hw.1.1; simp at this; omega⟩

/-- Clearing a range keeps the canonical form. -/
theorem wf_clearRange {α : Type} [DecidableEq α] (d : α) (t : Table α) (a n : Nat) (hw : tableWf d t = true) :
    tableWf d (clearRange t a n) = true := wfFrom_filter d _ t none hw

/-- A cleared range reads as the default, and every other key as before. -/
theorem rd_clearRange {α : Type} (d : α) (t : Table α) (a n k : Nat) :
    rd d (clearRange t a n) k = if a ≤ k ∧ k < a + n then d else rd d t k := by
  induction t with
  | nil => simp [clearRange, rd]
  | cons e t ih =>
    obtain ⟨k', v⟩ := e
    unfold clearRange at ih ⊢
    by_cases hin : a ≤ k' ∧ k' < a + n
    · rw [List.filter_cons_of_neg (by simp [hin]), ih]
      by_cases hk : k = k'
      · subst hk; simp [hin]
      · simp [rd, hk]
    · rw [List.filter_cons_of_pos (by simp; omega)]
      by_cases hk : k = k'
      · subst hk; simp [rd, hin]
      · simp only [rd, hk, if_false]; exact ih

theorem foldl_wf {β : Type} (f : Table Byte → β → Table Byte) (hf : ∀ t b, tableWf 0 t = true → tableWf 0 (f t b) = true)
    (l : List β) (t : Table Byte) (hw : tableWf 0 t = true) : tableWf 0 (l.foldl f t) = true := by
  induction l generalizing t with
  | nil => exact hw
  | cons b l ih => exact ih _ (hf t b hw)

/-- Writing past marked units keeps the canonical form. -/
theorem wf_wrMarked (t : Table Byte) (marks : List Nat) (u a : Nat) (bs : List Byte) (hw : tableWf 0 t = true) :
    tableWf 0 (wrMarked t marks u a bs).1 = true := by
  unfold wrMarked
  exact foldl_wf _ (fun x _ h => wf_wrBytes x _ _ h) _ _ (wf_wrBytes t a bs hw)

/-! ### The operations on device and host memory -/

@[simp] theorem reset_memory_wf : State.reset.mem.wf = true := rfl

theorem Memory.wf_iff (m : Memory) : m.wf = true ↔ tableWf 0 m.dev = true ∧ tableWf 0 m.host = true := by simp [Memory.wf]

/-- A device write keeps the canonical form. -/
theorem devWrite_wf (s : State) (a : Nat) (bs : List Byte) (hw : s.mem.wf = true) : (devWrite s a bs).1.mem.wf = true := by
  rw [Memory.wf_iff] at hw ⊢
  unfold devWrite
  split
  · exact hw
  · exact ⟨foldl_wf _ (fun x _ h => wf_wrBytes x _ _ h) _ _ (wf_wrMarked _ _ _ _ _ hw.1), hw.2⟩

/-- A write to host memory keeps it. -/
theorem hostWrite_wf (s : State) (a : Nat) (bs : List Byte) (hw : s.mem.wf = true) : (hostWrite s a bs).mem.wf = true := by
  rw [Memory.wf_iff] at hw ⊢
  exact ⟨hw.1, wf_wrBytes _ a bs hw.2⟩

/-- The zeroing of HBM keeps it. -/
theorem zeroHbm_wf (s : State) (hw : s.mem.wf = true) : (zeroHbm s).mem.wf = true := by
  rw [Memory.wf_iff] at hw ⊢
  exact ⟨wf_clearRange 0 _ 0 hbmSize hw.1, hw.2⟩

/-! ### The caches of the home slices change no byte (R233-R235) -/

/-- Two states hold the same bytes of device and host memory. -/
def SameBytes (s t : State) : Prop := t.mem.dev = s.mem.dev ∧ t.mem.host = s.mem.host

theorem modSlice_bytes (s : State) (k : Nat) (f : Slice → Slice) : SameBytes s (modSlice s k f) := ⟨rfl, rfl⟩
theorem memRequest_bytes (s : State) (cls : Nat) (write : Bool) (line : Nat) : SameBytes s (memRequest s cls write line) := ⟨rfl, rfl⟩
theorem SameBytes.trans {s t u : State} (h : SameBytes s t) (k : SameBytes t u) : SameBytes s u := ⟨k.1.trans h.1, k.2.trans h.2⟩
theorem SameBytes.refl (s : State) : SameBytes s s := ⟨rfl, rfl⟩

theorem writeBack_bytes (s : State) (cls line : Nat) : SameBytes s (writeBack s cls line) := ⟨rfl, rfl⟩

theorem dropLine_bytes (s : State) (cls line : Nat) : SameBytes s (dropLine s cls line) := by
  unfold dropLine uncache
  refine SameBytes.trans ?_ (modSlice_bytes _ _ _)
  split
  · exact writeBack_bytes s cls line
  · exact SameBytes.refl s

theorem touchLine_bytes (cls : Nat) (write whole : Bool) (s : State) (line : Nat) :
    SameBytes s (touchLine cls write whole s line) := by
  unfold touchLine
  dsimp only
  split
  · exact modSlice_bytes s _ _
  · split
    · exact memRequest_bytes s _ _ _
    · split
      · exact memRequest_bytes s _ _ _
      · have h : ∀ u : State, SameBytes s u → SameBytes s (if write && whole then u else memRequest u cls false line) := by
          intro u hu
          split
          · exact hu
          · exact hu.trans (memRequest_bytes u _ _ _)
        refine h _ (SameBytes.trans ?_ (modSlice_bytes _ _ _))
        split
        · exact SameBytes.refl s
        · exact dropLine_bytes s _ _

/-- An access through the caches leaves every byte. -/
theorem touch_bytes (cls : Nat) (write : Bool) (s : State) (a n : Nat) : SameBytes s (touch cls write s a n) := by
  unfold touch SameBytes
  constructor
  · refine foldl_keeps (fun s : State => s.mem.dev) _ (fun s l => ?_) _ s
    dsimp only
    split
    · exact (touchLine_bytes _ _ _ s l).1
    · rfl
  · refine foldl_keeps (fun s : State => s.mem.host) _ (fun s l => ?_) _ s
    dsimp only
    split
    · exact (touchLine_bytes _ _ _ s l).2
    · rfl

theorem touch_wf (cls : Nat) (write : Bool) (s : State) (a n : Nat) : (touch cls write s a n).mem.wf = s.mem.wf := by
  unfold Memory.wf
  rw [(touch_bytes cls write s a n).1, (touch_bytes cls write s a n).2]

/-- A restored extent keeps the canonical form. -/
theorem loadExtent_wf (s : State) (x : Extent) (h2 : x.kind ≠ 2) (hw : s.mem.wf = true) : (loadExtent s x).mem.wf = true := by
  unfold loadExtent
  split
  · split <;> exact hw
  · split
    · exact hw
    · rw [Memory.wf_iff]
      dsimp only
      have ht : ((if x.kind = 3 then s else touch 3 true s (extAddr x) x.len).mem).wf = true := by
        split
        · exact hw
        · rw [touch_wf]; exact hw
      rw [Memory.wf_iff] at ht
      exact ⟨foldl_wf _ (fun t e h => wf_wr 0 t _ _ h) _ _ (wf_clearRange 0 _ _ _ ht.1), ht.2⟩

/-! ### A device write leaves the bytes outside its range -/

theorem foldl_rd {β : Type} (f : Table Byte → β → Table Byte) (k : Nat) (hf : ∀ t b, rd 0 (f t b) k = rd 0 t k) (l : List β)
    (t : Table Byte) : rd 0 (l.foldl f t) k = rd 0 t k := foldl_keeps (fun t => rd 0 t k) f hf l t

theorem rd_wrMarked_other (t : Table Byte) (marks : List Nat) (u a : Nat) (bs : List Byte) (k : Nat) (h : k < a ∨ a + bs.length ≤ k) :
    rd 0 (wrMarked t marks u a bs).1 k = rd 0 t k := by
  unfold wrMarked
  refine (foldl_rd _ k (fun x m => ?_) _ _).trans (rd_wrBytes_other t a bs h)
  refine rd_wrBytes_other x _ _ ?_
  simp only [rdBytes, List.length_map, List.length_range]
  omega

/-- A byte outside the range of a device write reads as before. -/
theorem devWrite_other (s : State) (a : Nat) (bs : List Byte) (k : Nat) (h : k < a ∨ a + bs.length ≤ k) :
    rd 0 (devWrite s a bs).1.mem.dev k = rd 0 s.mem.dev k := by
  unfold devWrite
  split
  · rfl
  · refine (foldl_rd _ k (fun x g => ?_) _ _).trans (rd_wrMarked_other _ _ _ a bs k h)
    refine rd_wrBytes_other x _ _ ?_
    simp only [rdBytes, List.length_map, List.length_range]
    omega

/-- A device write changes no register, no record and no message: outside memory and the scratchpads the state is as before. -/
theorem devWrite_frame (s : State) (a : Nat) (bs : List Byte) :
    (devWrite s a bs).1.firm = s.firm ∧ (devWrite s a bs).1.fab = s.fab ∧ (devWrite s a bs).1.hamper = s.hamper ∧
      (devWrite s a bs).1.vkx = s.vkx ∧ (devWrite s a bs).1.time = s.time ∧ (devWrite s a bs).1.out = s.out ∧
      (devWrite s a bs).1.mem.host = s.mem.host := by
  unfold devWrite
  split <;> exact ⟨rfl, rfl, rfl, rfl, rfl, rfl, rfl⟩

end Sys2Proof.Machine
end

