-- ==== Sys2Proof/Laws/PerInstr.lean ====
section
/-! SUPPORT. The family WordOf: a well-formed tile instruction is read back from the word that it is written as,
with every bit at every value. -/

namespace Sys2Proof.Laws.WordOf

/-- The word that an instruction is written as decodes to it. -/
def Statement (i : Instr) : Prop :=
  wellFormed i = true → ∀ a w, wordOf i = some (a, w) → decodeTile a w = i

theorem opcode_tileWord (op : Nat) (w : BitVec 246) (h : op < 1024) : wordOpcode (tileWord op w) = op := by
  unfold wordOpcode tileWord
  rw [BitVec.extractLsb'_append_eq_left]
  simp; omega

theorem body_tileWord (op : Nat) (w : BitVec 246) : wordBody (tileWord op w) = w := by
  unfold wordBody tileWord
  rw [BitVec.extractLsb'_append_eq_right]

/-- A tile instruction's word decodes by its opcode alone. -/
theorem tile_roundtrip {i : Instr} {a : Issue} {op : Nat} {w : BitVec 246} {f : BitVec 246 → Instr} (hop : op < 1024)
    (hd : ∀ v, wordOpcode v = op → decodeTile a v = f (wordBody v)) (hi : f w = i)
    (hw : wordOf i = some (a, tileWord op w)) : Statement i := by
  intro _ b v hv
  rw [hw] at hv
  obtain ⟨rfl, rfl⟩ := by simpa using hv
  rw [hd _ (opcode_tileWord op w hop), body_tileWord, hi]

/-- A command that is no tile instruction has no word. -/
theorem no_word {i : Instr} (h : wordOf i = none) : Statement i := by
  intro _ a w hw
  rw [h] at hw
  cases hw

theorem nop (i : Issue) (w : BitVec 246) : Statement (.nop i w) :=
  tile_roundtrip (op := 0x000) (f := .nop i) (by decide) (fun v h => by unfold decodeTile; rw [h]; rfl) rfl rfl

theorem endStream (i : Issue) (w : BitVec 246) : Statement (.endStream i w) :=
  tile_roundtrip (op := 0x001) (f := .endStream i) (by decide) (fun v h => by unfold decodeTile; rw [h]; rfl) rfl rfl

theorem jmp (i : Issue) (w : BitVec 246) : Statement (.jmp i w) :=
  tile_roundtrip (op := 0x002) (f := .jmp i) (by decide) (fun v h => by unfold decodeTile; rw [h]; rfl) rfl rfl

theorem bnz (i : Issue) (w : BitVec 246) : Statement (.bnz i w) :=
  tile_roundtrip (op := 0x003) (f := .bnz i) (by decide) (fun v h => by unfold decodeTile; rw [h]; rfl) rfl rfl

theorem loop (i : Issue) (w : BitVec 246) : Statement (.loop i w) :=
  tile_roundtrip (op := 0x004) (f := .loop i) (by decide) (fun v h => by unfold decodeTile; rw [h]; rfl) rfl rfl

theorem sli (i : Issue) (w : BitVec 246) : Statement (.sli i w) :=
  tile_roundtrip (op := 0x008) (f := .sli i) (by decide) (fun v h => by unfold decodeTile; rw [h]; rfl) rfl rfl

theorem ali (i : Issue) (w : BitVec 246) : Statement (.ali i w) :=
  tile_roundtrip (op := 0x009) (f := .ali i) (by decide) (fun v h => by unfold decodeTile; rw [h]; rfl) rfl rfl

theorem sop (i : Issue) (w : BitVec 246) : Statement (.sop i w) :=
  tile_roundtrip (op := 0x00A) (f := .sop i) (by decide) (fun v h => by unfold decodeTile; rw [h]; rfl) rfl rfl

theorem aadd (i : Issue) (w : BitVec 246) : Statement (.aadd i w) :=
  tile_roundtrip (op := 0x00B) (f := .aadd i) (by decide) (fun v h => by unfold decodeTile; rw [h]; rfl) rfl rfl

theorem sld (i : Issue) (w : BitVec 246) : Statement (.sld i w) :=
  tile_roundtrip (op := 0x00C) (f := .sld i) (by decide) (fun v h => by unfold decodeTile; rw [h]; rfl) rfl rfl

theorem sst (i : Issue) (w : BitVec 246) : Statement (.sst i w) :=
  tile_roundtrip (op := 0x00D) (f := .sst i) (by decide) (fun v h => by unfold decodeTile; rw [h]; rfl) rfl rfl

theorem nutset (i : Issue) (w : BitVec 246) : Statement (.nutset i w) :=
  tile_roundtrip (op := 0x010) (f := .nutset i) (by decide) (fun v h => by unfold decodeTile; rw [h]; rfl) rfl rfl

theorem sealset (i : Issue) (w : BitVec 246) : Statement (.sealset i w) :=
  tile_roundtrip (op := 0x011) (f := .sealset i) (by decide) (fun v h => by unfold decodeTile; rw [h]; rfl) rfl rfl

theorem wait (i : Issue) (w : BitVec 246) : Statement (.wait i w) :=
  tile_roundtrip (op := 0x040) (f := .wait i) (by decide) (fun v h => by unfold decodeTile; rw [h]; rfl) rfl rfl

theorem waitSatisfied (t : Fin 64) (st : Stream) : Statement (.waitSatisfied t st) := no_word rfl

theorem signal (i : Issue) (w : BitVec 246) : Statement (.signal i w) :=
  tile_roundtrip (op := 0x041) (f := .signal i) (by decide) (fun v h => by unfold decodeTile; rw [h]; rfl) rfl rfl

theorem signalArrival (t : Fin 64) (st : Stream) : Statement (.signalArrival t st) := no_word rfl

theorem arrive (i : Issue) (w : BitVec 246) : Statement (.arrive i w) :=
  tile_roundtrip (op := 0x042) (f := .arrive i) (by decide) (fun v h => by unfold decodeTile; rw [h]; rfl) rfl rfl

theorem slot (i : Issue) (w : BitVec 246) : Statement (.slot i w) :=
  tile_roundtrip (op := 0x043) (f := .slot i) (by decide) (fun v h => by unfold decodeTile; rw [h]; rfl) rfl rfl

theorem dma (i : Issue) (w : BitVec 246) : Statement (.dma i w) :=
  tile_roundtrip (op := 0x060) (f := .dma i) (by decide) (fun v h => by unfold decodeTile; rw [h]; rfl) rfl rfl

theorem dmaDescriptorStart (t : Fin 64) : Statement (.dmaDescriptorStart t) := no_word rfl

theorem dmaComplete (t : Fin 64) (st : Stream) (seq : BitVec 32) (e : ReadFault) : Statement (.dmaComplete t st seq e) := no_word rfl

theorem mma (i : Issue) (w : BitVec 246) : Statement (.mma i w) :=
  tile_roundtrip (op := 0x080) (f := .mma i) (by decide) (fun v h => by unfold decodeTile; rw [h]; rfl) rfl rfl

theorem mmaCoutComplete (t : Fin 64) (st : Stream) (seq : BitVec 32) (c : DrainCheck) : Statement (.mmaCoutComplete t st seq c) := no_word rfl

theorem mmaDrainComplete (t : Fin 64) (st : Stream) (seq : BitVec 32) (c : DrainCheck) : Statement (.mmaDrainComplete t st seq c) := no_word rfl

theorem fencedReissue (t : Fin 64) : Statement (.fencedReissue t) := no_word rfl

theorem withyOverflow (t : Fin 64) (st : Stream) (seq : BitVec 32) : Statement (.withyOverflow t st seq) := no_word rfl

theorem drainTimeout (t : Fin 64) (st : Stream) (seq : BitVec 32) (at_ : EdgeLane) : Statement (.drainTimeout t st seq at_) := no_word rfl

theorem streamWatchdog (t : Fin 64) (st : Stream) : Statement (.streamWatchdog t st) := no_word rfl

theorem contextSwitch (t : Fin 64) : Statement (.contextSwitch t) := no_word rfl

theorem contextTakeUp (t : Fin 64) : Statement (.contextTakeUp t) := no_word rfl

theorem fetchLineArrival (t : Fin 64) (st : Stream) (line : BitVec 42) : Statement (.fetchLineArrival t st line) := no_word rfl

theorem vld (i : Issue) (w : BitVec 246) : Statement (.vld i w) :=
  tile_roundtrip (op := 0x100) (f := .vld i) (by decide) (fun v h => by unfold decodeTile; rw [h]; rfl) rfl rfl

theorem vst (i : Issue) (w : BitVec 246) : Statement (.vst i w) :=
  tile_roundtrip (op := 0x101) (f := .vst i) (by decide) (fun v h => by unfold decodeTile; rw [h]; rfl) rfl rfl

theorem vcvtl (i : Issue) (w : BitVec 246) : Statement (.vcvtl i w) :=
  tile_roundtrip (op := 0x102) (f := .vcvtl i) (by decide) (fun v h => by unfold decodeTile; rw [h]; rfl) rfl rfl

theorem vcvts (i : Issue) (w : BitVec 246) : Statement (.vcvts i w) :=
  tile_roundtrip (op := 0x103) (f := .vcvts i) (by decide) (fun v h => by unfold decodeTile; rw [h]; rfl) rfl rfl

theorem vcvt (i : Issue) (w : BitVec 246) : Statement (.vcvt i w) :=
  tile_roundtrip (op := 0x104) (f := .vcvt i) (by decide) (fun v h => by unfold decodeTile; rw [h]; rfl) rfl rfl

theorem vadd (i : Issue) (w : BitVec 246) : Statement (.vadd i w) :=
  tile_roundtrip (op := 0x110) (f := .vadd i) (by decide) (fun v h => by unfold decodeTile; rw [h]; rfl) rfl rfl

theorem vsub (i : Issue) (w : BitVec 246) : Statement (.vsub i w) :=
  tile_roundtrip (op := 0x111) (f := .vsub i) (by decide) (fun v h => by unfold decodeTile; rw [h]; rfl) rfl rfl

theorem vadds (i : Issue) (w : BitVec 246) : Statement (.vadds i w) :=
  tile_roundtrip (op := 0x112) (f := .vadds i) (by decide) (fun v h => by unfold decodeTile; rw [h]; rfl) rfl rfl

theorem vsubs (i : Issue) (w : BitVec 246) : Statement (.vsubs i w) :=
  tile_roundtrip (op := 0x113) (f := .vsubs i) (by decide) (fun v h => by unfold decodeTile; rw [h]; rfl) rfl rfl

theorem vmul (i : Issue) (w : BitVec 246) : Statement (.vmul i w) :=
  tile_roundtrip (op := 0x114) (f := .vmul i) (by decide) (fun v h => by unfold decodeTile; rw [h]; rfl) rfl rfl

theorem vmulh (i : Issue) (w : BitVec 246) : Statement (.vmulh i w) :=
  tile_roundtrip (op := 0x115) (f := .vmulh i) (by decide) (fun v h => by unfold decodeTile; rw [h]; rfl) rfl rfl

theorem vsrs (i : Issue) (w : BitVec 246) : Statement (.vsrs i w) :=
  tile_roundtrip (op := 0x116) (f := .vsrs i) (by decide) (fun v h => by unfold decodeTile; rw [h]; rfl) rfl rfl

theorem vsrn (i : Issue) (w : BitVec 246) : Statement (.vsrn i w) :=
  tile_roundtrip (op := 0x117) (f := .vsrn i) (by decide) (fun v h => by unfold decodeTile; rw [h]; rfl) rfl rfl

theorem vshls (i : Issue) (w : BitVec 246) : Statement (.vshls i w) :=
  tile_roundtrip (op := 0x118) (f := .vshls i) (by decide) (fun v h => by unfold decodeTile; rw [h]; rfl) rfl rfl

theorem vwid (i : Issue) (w : BitVec 246) : Statement (.vwid i w) :=
  tile_roundtrip (op := 0x119) (f := .vwid i) (by decide) (fun v h => by unfold decodeTile; rw [h]; rfl) rfl rfl

theorem vmin (i : Issue) (w : BitVec 246) : Statement (.vmin i w) :=
  tile_roundtrip (op := 0x11A) (f := .vmin i) (by decide) (fun v h => by unfold decodeTile; rw [h]; rfl) rfl rfl

theorem vmax (i : Issue) (w : BitVec 246) : Statement (.vmax i w) :=
  tile_roundtrip (op := 0x11B) (f := .vmax i) (by decide) (fun v h => by unfold decodeTile; rw [h]; rfl) rfl rfl

theorem vand (i : Issue) (w : BitVec 246) : Statement (.vand i w) :=
  tile_roundtrip (op := 0x11C) (f := .vand i) (by decide) (fun v h => by unfold decodeTile; rw [h]; rfl) rfl rfl

theorem vor (i : Issue) (w : BitVec 246) : Statement (.vor i w) :=
  tile_roundtrip (op := 0x11D) (f := .vor i) (by decide) (fun v h => by unfold decodeTile; rw [h]; rfl) rfl rfl

theorem vxor (i : Issue) (w : BitVec 246) : Statement (.vxor i w) :=
  tile_roundtrip (op := 0x11E) (f := .vxor i) (by decide) (fun v h => by unfold decodeTile; rw [h]; rfl) rfl rfl

theorem vcmplt (i : Issue) (w : BitVec 246) : Statement (.vcmplt i w) :=
  tile_roundtrip (op := 0x11F) (f := .vcmplt i) (by decide) (fun v h => by unfold decodeTile; rw [h]; rfl) rfl rfl

theorem vcmpeq (i : Issue) (w : BitVec 246) : Statement (.vcmpeq i w) :=
  tile_roundtrip (op := 0x120) (f := .vcmpeq i) (by decide) (fun v h => by unfold decodeTile; rw [h]; rfl) rfl rfl

theorem vsel (i : Issue) (w : BitVec 246) : Statement (.vsel i w) :=
  tile_roundtrip (op := 0x121) (f := .vsel i) (by decide) (fun v h => by unfold decodeTile; rw [h]; rfl) rfl rfl

theorem vbcast (i : Issue) (w : BitVec 246) : Statement (.vbcast i w) :=
  tile_roundtrip (op := 0x122) (f := .vbcast i) (by decide) (fun v h => by unfold decodeTile; rw [h]; rfl) rfl rfl

theorem vmov (i : Issue) (w : BitVec 246) : Statement (.vmov i w) :=
  tile_roundtrip (op := 0x123) (f := .vmov i) (by decide) (fun v h => by unfold decodeTile; rw [h]; rfl) rfl rfl

theorem vabss (i : Issue) (w : BitVec 246) : Statement (.vabss i w) :=
  tile_roundtrip (op := 0x124) (f := .vabss i) (by decide) (fun v h => by unfold decodeTile; rw [h]; rfl) rfl rfl

theorem vnegs (i : Issue) (w : BitVec 246) : Statement (.vnegs i w) :=
  tile_roundtrip (op := 0x125) (f := .vnegs i) (by decide) (fun v h => by unfold decodeTile; rw [h]; rfl) rfl rfl

theorem vfadd (i : Issue) (w : BitVec 246) : Statement (.vfadd i w) :=
  tile_roundtrip (op := 0x140) (f := .vfadd i) (by decide) (fun v h => by unfold decodeTile; rw [h]; rfl) rfl rfl

theorem vfsub (i : Issue) (w : BitVec 246) : Statement (.vfsub i w) :=
  tile_roundtrip (op := 0x141) (f := .vfsub i) (by decide) (fun v h => by unfold decodeTile; rw [h]; rfl) rfl rfl

theorem vfmul (i : Issue) (w : BitVec 246) : Statement (.vfmul i w) :=
  tile_roundtrip (op := 0x142) (f := .vfmul i) (by decide) (fun v h => by unfold decodeTile; rw [h]; rfl) rfl rfl

theorem vfma (i : Issue) (w : BitVec 246) : Statement (.vfma i w) :=
  tile_roundtrip (op := 0x143) (f := .vfma i) (by decide) (fun v h => by unfold decodeTile; rw [h]; rfl) rfl rfl

theorem vfnma (i : Issue) (w : BitVec 246) : Statement (.vfnma i w) :=
  tile_roundtrip (op := 0x144) (f := .vfnma i) (by decide) (fun v h => by unfold decodeTile; rw [h]; rfl) rfl rfl

theorem vfdiv (i : Issue) (w : BitVec 246) : Statement (.vfdiv i w) :=
  tile_roundtrip (op := 0x145) (f := .vfdiv i) (by decide) (fun v h => by unfold decodeTile; rw [h]; rfl) rfl rfl

theorem vfsqrt (i : Issue) (w : BitVec 246) : Statement (.vfsqrt i w) :=
  tile_roundtrip (op := 0x146) (f := .vfsqrt i) (by decide) (fun v h => by unfold decodeTile; rw [h]; rfl) rfl rfl

theorem vfmin (i : Issue) (w : BitVec 246) : Statement (.vfmin i w) :=
  tile_roundtrip (op := 0x147) (f := .vfmin i) (by decide) (fun v h => by unfold decodeTile; rw [h]; rfl) rfl rfl

theorem vfmax (i : Issue) (w : BitVec 246) : Statement (.vfmax i w) :=
  tile_roundtrip (op := 0x148) (f := .vfmax i) (by decide) (fun v h => by unfold decodeTile; rw [h]; rfl) rfl rfl

theorem vfscale (i : Issue) (w : BitVec 246) : Statement (.vfscale i w) :=
  tile_roundtrip (op := 0x149) (f := .vfscale i) (by decide) (fun v h => by unfold decodeTile; rw [h]; rfl) rfl rfl

theorem vrsum (i : Issue) (w : BitVec 246) : Statement (.vrsum i w) :=
  tile_roundtrip (op := 0x160) (f := .vrsum i) (by decide) (fun v h => by unfold decodeTile; rw [h]; rfl) rfl rfl

theorem vrssq (i : Issue) (w : BitVec 246) : Statement (.vrssq i w) :=
  tile_roundtrip (op := 0x161) (f := .vrssq i) (by decide) (fun v h => by unfold decodeTile; rw [h]; rfl) rfl rfl

theorem vrdot (i : Issue) (w : BitVec 246) : Statement (.vrdot i w) :=
  tile_roundtrip (op := 0x162) (f := .vrdot i) (by decide) (fun v h => by unfold decodeTile; rw [h]; rfl) rfl rfl

theorem vramax (i : Issue) (w : BitVec 246) : Statement (.vramax i w) :=
  tile_roundtrip (op := 0x163) (f := .vramax i) (by decide) (fun v h => by unfold decodeTile; rw [h]; rfl) rfl rfl

theorem vpexp (i : Issue) (w : BitVec 246) : Statement (.vpexp i w) :=
  tile_roundtrip (op := 0x170) (f := .vpexp i) (by decide) (fun v h => by unfold decodeTile; rw [h]; rfl) rfl rfl

theorem vpslice (i : Issue) (w : BitVec 246) : Statement (.vpslice i w) :=
  tile_roundtrip (op := 0x171) (f := .vpslice i) (by decide) (fun v h => by unfold decodeTile; rw [h]; rfl) rfl rfl

theorem vphdr (i : Issue) (w : BitVec 246) : Statement (.vphdr i w) :=
  tile_roundtrip (op := 0x172) (f := .vphdr i) (by decide) (fun v h => by unfold decodeTile; rw [h]; rfl) rfl rfl

theorem vectorStart (t : Fin 64) (lost : Nat) (e : VectorFault) : Statement (.vectorStart t lost e) := no_word rfl

theorem vectorComplete (t : Fin 64) : Statement (.vectorComplete t) := no_word rfl

theorem tlayer (i : Issue) (w : BitVec 246) : Statement (.tlayer i w) :=
  tile_roundtrip (op := 0x240) (f := .tlayer i) (by decide) (fun v h => by unfold decodeTile; rw [h]; rfl) rfl rfl

theorem rcmp (i : Issue) (w : BitVec 246) : Statement (.rcmp i w) :=
  tile_roundtrip (op := 0x241) (f := .rcmp i) (by decide) (fun v h => by unfold decodeTile; rw [h]; rfl) rfl rfl

theorem npack (i : Issue) (w : BitVec 246) : Statement (.npack i w) :=
  tile_roundtrip (op := 0x244) (f := .npack i) (by decide) (fun v h => by unfold decodeTile; rw [h]; rfl) rfl rfl

theorem nclip (i : Issue) (w : BitVec 246) : Statement (.nclip i w) :=
  tile_roundtrip (op := 0x245) (f := .nclip i) (by decide) (fun v h => by unfold decodeTile; rw [h]; rfl) rfl rfl

theorem sopen (i : Issue) (w : BitVec 246) : Statement (.sopen i w) :=
  tile_roundtrip (op := 0x248) (f := .sopen i) (by decide) (fun v h => by unfold decodeTile; rw [h]; rfl) rfl rfl

theorem sstep (i : Issue) (w : BitVec 246) : Statement (.sstep i w) :=
  tile_roundtrip (op := 0x249) (f := .sstep i) (by decide) (fun v h => by unfold decodeTile; rw [h]; rfl) rfl rfl

theorem skaddr (i : Issue) (w : BitVec 246) : Statement (.skaddr i w) :=
  tile_roundtrip (op := 0x24A) (f := .skaddr i) (by decide) (fun v h => by unfold decodeTile; rw [h]; rfl) rfl rfl

theorem tupd (i : Issue) (w : BitVec 246) : Statement (.tupd i w) :=
  tile_roundtrip (op := 0x250) (f := .tupd i) (by decide) (fun v h => by unfold decodeTile; rw [h]; rfl) rfl rfl

theorem tclose (i : Issue) (w : BitVec 246) : Statement (.tclose i w) :=
  tile_roundtrip (op := 0x251) (f := .tclose i) (by decide) (fun v h => by unfold decodeTile; rw [h]; rfl) rfl rfl

theorem trecrd (i : Issue) (w : BitVec 246) : Statement (.trecrd i w) :=
  tile_roundtrip (op := 0x252) (f := .trecrd i) (by decide) (fun v h => by unfold decodeTile; rw [h]; rfl) rfl rfl

theorem trecwr (i : Issue) (w : BitVec 246) : Statement (.trecwr i w) :=
  tile_roundtrip (op := 0x253) (f := .trecwr i) (by decide) (fun v h => by unfold decodeTile; rw [h]; rfl) rfl rfl

theorem tscale (i : Issue) (w : BitVec 246) : Statement (.tscale i w) :=
  tile_roundtrip (op := 0x254) (f := .tscale i) (by decide) (fun v h => by unfold decodeTile; rw [h]; rfl) rfl rfl

theorem crs (i : Issue) (w : BitVec 246) : Statement (.crs i w) :=
  tile_roundtrip (op := 0x200) (f := .crs i) (by decide) (fun v h => by unfold decodeTile; rw [h]; rfl) rfl rfl

theorem car (i : Issue) (w : BitVec 246) : Statement (.car i w) :=
  tile_roundtrip (op := 0x201) (f := .car i) (by decide) (fun v h => by unfold decodeTile; rw [h]; rfl) rfl rfl

theorem cag (i : Issue) (w : BitVec 246) : Statement (.cag i w) :=
  tile_roundtrip (op := 0x202) (f := .cag i) (by decide) (fun v h => by unfold decodeTile; rw [h]; rfl) rfl rfl

theorem cxch (i : Issue) (w : BitVec 246) : Statement (.cxch i w) :=
  tile_roundtrip (op := 0x203) (f := .cxch i) (by decide) (fun v h => by unfold decodeTile; rw [h]; rfl) rfl rfl

theorem fput (i : Issue) (w : BitVec 246) : Statement (.fput i w) :=
  tile_roundtrip (op := 0x210) (f := .fput i) (by decide) (fun v h => by unfold decodeTile; rw [h]; rfl) rfl rfl

theorem fget (i : Issue) (w : BitVec 246) : Statement (.fget i w) :=
  tile_roundtrip (op := 0x211) (f := .fget i) (by decide) (fun v h => by unfold decodeTile; rw [h]; rfl) rfl rfl

theorem fsig (i : Issue) (w : BitVec 246) : Statement (.fsig i w) :=
  tile_roundtrip (op := 0x212) (f := .fsig i) (by decide) (fun v h => by unfold decodeTile; rw [h]; rfl) rfl rfl

theorem illegalOpcode (i : Issue) (w : BitVec 256) : Statement (.illegalOpcode i w) := by
  intro hf a v hv
  obtain ⟨rfl, rfl⟩ := by simpa [wordOf] using hv
  unfold decodeTile
  split <;> first | rfl | (next h => simp [wellFormed, h, opcodeAssigned] at hf)

theorem collectiveItemStart (ax : Fin 4) (ch : Fin 8) : Statement (.collectiveItemStart ax ch) := no_word rfl

theorem collectiveHop (ax : Fin 4) (ch : Fin 8) : Statement (.collectiveHop ax ch) := no_word rfl

theorem collectiveItemComplete (ax : Fin 4) (ch : Fin 8) : Statement (.collectiveItemComplete ax ch) := no_word rfl

theorem collectiveTimeout (ax : Fin 4) (ch : Fin 8) : Statement (.collectiveTimeout ax ch) := no_word rfl

theorem barrierUp (port : Fin 8) (m : BarrierMsg) : Statement (.barrierUp port m) := no_word rfl

theorem barrierDown (port : Fin 8) (m : BarrierMsg) : Statement (.barrierDown port m) := no_word rfl

theorem barrierUpRepeat (tree : Fin 16) : Statement (.barrierUpRepeat tree) := no_word rfl

theorem routingCycle (k : Fin 32) : Statement (.routingCycle k) := no_word rfl

theorem containerArrival (l : StrandId) (first : BitVec 32) (cws : List (List Byte)) (off : Nat) : Statement (.containerArrival l first cws off) := no_word rfl

theorem nakRepeat (l : StrandId) : Statement (.nakRepeat l) := no_word rfl

theorem replayPendingTimeout (l : StrandId) : Statement (.replayPendingTimeout l) := no_word rfl

theorem packetWrite (p : FabPacket) : Statement (.packetWrite p) := no_word rfl

theorem packetSignal (p : FabPacket) : Statement (.packetSignal p) := no_word rfl

theorem packetRead (p : FabPacket) : Statement (.packetRead p) := no_word rfl

theorem packetReadData (p : FabPacket) : Statement (.packetReadData p) := no_word rfl

theorem packetMessage (p : FabPacket) : Statement (.packetMessage p) := no_word rfl

theorem packetAck (p : FabPacket) : Statement (.packetAck p) := no_word rfl

theorem packetBounce (p : FabPacket) : Statement (.packetBounce p) := no_word rfl

theorem packetReservedType (p : FabPacket) : Statement (.packetReservedType p) := no_word rfl

theorem ackSend (src : BitVec 16) : Statement (.ackSend src) := no_word rfl

theorem fabAckTimeout (item : Nat) : Statement (.fabAckTimeout item) := no_word rfl

theorem qMessageForward (port : Fin 8) (vc : Fin 2) (m : QMsg) : Statement (.qMessageForward port vc m) := no_word rfl

theorem reservedControlSymbol (port : Fin 8) (kind : BitVec 8) : Statement (.reservedControlSymbol port kind) := no_word rfl

theorem linkCredit (port : Fin 8) (vc : Fin 2) (n : BitVec 8) : Statement (.linkCredit port vc n) := no_word rfl

theorem linkTable (l : StrandId) (entry : BitVec 16) : Statement (.linkTable l entry) := no_word rfl

theorem linkTableTimer (l : StrandId) : Statement (.linkTableTimer l) := no_word rfl

theorem linkModeChange (l : StrandId) (entry : BitVec 16) (frame : BitVec 32) : Statement (.linkModeChange l entry frame) := no_word rfl

theorem modeChangeFrame (l : StrandId) : Statement (.modeChangeFrame l) := no_word rfl

theorem modeChangeAbandon (l : StrandId) : Statement (.modeChangeAbandon l) := no_word rfl

theorem linkSpareRequest (port : Fin 8) (lane : Fin 16) : Statement (.linkSpareRequest port lane) := no_word rfl

theorem linkSpareSwitch (port : Fin 8) (lane : Fin 16) (cw : BitVec 32) : Statement (.linkSpareSwitch port lane cw) := no_word rfl

theorem linkStrandFailed (l : StrandId) : Statement (.linkStrandFailed l) := no_word rfl

theorem laneLossOfLock (port : Fin 8) (lane : Fin 16) : Statement (.laneLossOfLock port lane) := no_word rfl

theorem laneErrorRate (port : Fin 8) (lane : Fin 16) : Statement (.laneErrorRate port lane) := no_word rfl

theorem fabricLinkDown (port : Fin 8) (dead : Bool) : Statement (.fabricLinkDown port dead) := no_word rfl

theorem commandMsg (via : QVia) (src : BitVec 16) (m : CommandMsg) : Statement (.commandMsg via src m) := no_word rfl

theorem replyMsg (via : QVia) (src : BitVec 16) (r : MemberReply) : Statement (.replyMsg via src r) := no_word rfl

theorem memberReplyTimeout (tag : BitVec 32) : Statement (.memberReplyTimeout tag) := no_word rfl

theorem eventMsg (via : QVia) (src : BitVec 16) (slice : BitVec 6) (e : EventBody) : Statement (.eventMsg via src slice e) := no_word rfl

theorem circuitSetup (l : StrandId) (m : PathMsg) : Statement (.circuitSetup l m) := no_word rfl

theorem circuitReady (via : QVia) (tag : BitVec 32) : Statement (.circuitReady via tag) := no_word rfl

theorem circuitFail (via : QVia) (tag : BitVec 32) (hop : BitVec 8) (cause : BitVec 8) : Statement (.circuitFail via tag hop cause) := no_word rfl

theorem circuitRelease (l : StrandId) (m : PathMsg) : Statement (.circuitRelease l m) := no_word rfl

theorem circuitSetupTimeout (tag : BitVec 32) : Statement (.circuitSetupTimeout tag) := no_word rfl

theorem circuitCodeword (l : StrandId) (cw : List Byte) : Statement (.circuitCodeword l cw) := no_word rfl

theorem circuitAck (via : QVia) (h : Handle) (cum : BitVec 32) (nak : Option (BitVec 32)) : Statement (.circuitAck via h cum nak) := no_word rfl

theorem circuitAckTimer (h : Handle) : Statement (.circuitAckTimer h) := no_word rfl

theorem circuitNakRepeat (h : Handle) : Statement (.circuitNakRepeat h) := no_word rfl

theorem circuitBroken (via : QVia) (h : Handle) : Statement (.circuitBroken via h) := no_word rfl

theorem transitSet (l : StrandId) (m : PathMsg) : Statement (.transitSet l m) := no_word rfl

theorem quenchMsg (port : Fin 8) (q : QuenchMsg) : Statement (.quenchMsg port q) := no_word rfl

theorem unquenchMsg (port : Fin 8) (slice : BitVec 6) (number : BitVec 16) : Statement (.unquenchMsg port slice number) := no_word rfl

theorem unassignedQtype (port : Fin 8) (vc : Option (Fin 2)) (q : BitVec 8) : Statement (.unassignedQtype port vc q) := no_word rfl

theorem hello (port : Fin 8) (m : HelloSym) : Statement (.hello port m) := no_word rfl

theorem helloTimer (port : Fin 8) : Statement (.helloTimer port) := no_word rfl

theorem discoveryElection  : Statement (.discoveryElection) := no_word rfl

theorem ringProbe (port : Fin 8) (count : BitVec 8) : Statement (.ringProbe port count) := no_word rfl

theorem coord (port : Fin 8) (c : Coords) (n : Extents) : Statement (.coord port c n) := no_word rfl

theorem discDone (port : Fin 8) : Statement (.discDone port) := no_word rfl

theorem discoveryTimeout  : Statement (.discoveryTimeout) := no_word rfl

theorem timeSymbol (port : Fin 8) (m : TimeSym) (r : BitVec 40) : Statement (.timeSymbol port m r) := no_word rfl

theorem timeSymbolTimer (port : Fin 8) : Statement (.timeSymbolTimer port) := no_word rfl

theorem ppsInEdge  : Statement (.ppsInEdge) := no_word rfl

theorem ppsLoss  : Statement (.ppsLoss) := no_word rfl

theorem holdoverEntry  : Statement (.holdoverEntry) := no_word rfl

theorem drift  : Statement (.drift) := no_word rfl

theorem ppsOutPulse  : Statement (.ppsOutPulse) := no_word rfl

theorem epochQueueAct  : Statement (.epochQueueAct) := no_word rfl

theorem checkpointWriteStart  : Statement (.checkpointWriteStart) := no_word rfl

theorem extentCommit (e : ExtentEnd) : Statement (.extentCommit e) := no_word rfl

theorem mirrorStart  : Statement (.mirrorStart) := no_word rfl

theorem mirrorCircuitRetry  : Statement (.mirrorCircuitRetry) := no_word rfl

theorem mirrorTimeout  : Statement (.mirrorTimeout) := no_word rfl

theorem mirrorExtentReceive (m : MirrorExtent) : Statement (.mirrorExtentReceive m) := no_word rfl

theorem pageReadComplete (b : BlockId) (page : Fin 768) (step : Fin 13) : Statement (.pageReadComplete b page step) := no_word rfl

theorem programOrEraseFail (b : BlockId) : Statement (.programOrEraseFail b) := no_word rfl

theorem fold  : Statement (.fold) := no_word rfl

theorem refreshCheck  : Statement (.refreshCheck) := no_word rfl

theorem blockRefresh  : Statement (.blockRefresh) := no_word rfl

theorem wearLevelMove  : Statement (.wearLevelMove) := no_word rfl

theorem journalCompaction  : Statement (.journalCompaction) := no_word rfl

theorem restoreExtentRead (lost : Bool) (buddy : Option (List Byte)) : Statement (.restoreExtentRead lost buddy) := no_word rfl

theorem restoreComplete  : Statement (.restoreComplete) := no_word rfl

theorem exportExtent (lost : Bool) : Statement (.exportExtent lost) := no_word rfl

theorem tilePatrolScrub (t : Fin 64) (bank : Fin 32) (e : ReadFault) : Statement (.tilePatrolScrub t bank e) := no_word rfl

theorem llmPatrolScrub (sl : Fin 16) (bank : Fin 32) (e : ReadFault) (tag : Option TagError) : Statement (.llmPatrolScrub sl bank e tag) := no_word rfl

theorem hbmPatrolScrub (k : Fin 8) (bad : Fin 73) (ondie : Nat) : Statement (.hbmPatrolScrub k bad ondie) := no_word rfl

theorem spCorrectedWriteback (t : Fin 64) : Statement (.spCorrectedWriteback t) := no_word rfl

theorem hbmCorrectedWriteback (k : Fin 8) : Statement (.hbmCorrectedWriteback k) := no_word rfl

theorem hbmRowRepair (k : Fin 8) (r : RowRepair) : Statement (.hbmRowRepair k r) := no_word rfl

theorem hbmSlotGrant (ch : Fin 516) (busy : List (BitVec 42)) : Statement (.hbmSlotGrant ch busy) := no_word rfl

theorem hbmReadComplete (line : BitVec 42) (bad : Fin 73) (ondie : Nat) (reader : HbmReader) : Statement (.hbmReadComplete line bad ondie reader) := no_word rfl

theorem llmWritebackComplete (sl : Fin 16) (line : BitVec 42) : Statement (.llmWritebackComplete sl line) := no_word rfl

theorem llmModeChangeDone  : Statement (.llmModeChangeDone) := no_word rfl

theorem marchComplete (u : MarchUnit) (failing : List BankRow) : Statement (.marchComplete u failing) := no_word rfl

theorem cxlResponse (line : BitVec 42) (poison : Bool) (retries : Nat) : Statement (.cxlResponse line poison retries) := no_word rfl

theorem cxlRequestTimeout (link : Fin 4) : Statement (.cxlRequestTimeout link) := no_word rfl

theorem flitReceived (f : BitVec 2048) (fecOk : Bool) : Statement (.flitReceived f fecOk) := no_word rfl

theorem vkxRetrain  : Statement (.vkxRetrain) := no_word rfl

theorem vkxRequestTimeout (txid : BitVec 12) : Statement (.vkxRequestTimeout txid) := no_word rfl

theorem vkxDownRetrainTimer  : Statement (.vkxDownRetrainTimer) := no_word rfl

theorem rdUc (m : HostReq) : Statement (.rdUc m) := no_word rfl

theorem rdS (m : HostReq) : Statement (.rdS m) := no_word rfl

theorem rdX (m : HostReq) : Statement (.rdX m) := no_word rfl

theorem wrUc (m : HostReq) (d : BitVec 512) : Statement (.wrUc m d) := no_word rfl

theorem wrLine (m : HostReq) (d : BitVec 512) : Statement (.wrLine m d) := no_word rfl

theorem wb (m : HostReq) (d : BitVec 512) : Statement (.wb m d) := no_word rfl

theorem evict (m : HostReq) : Statement (.evict m) := no_word rfl

theorem snpInv (m : HostReq) : Statement (.snpInv m) := no_word rfl

theorem snpSh (m : HostReq) : Statement (.snpSh m) := no_word rfl

theorem cmp (m : HostRsp) : Statement (.cmp m) := no_word rfl

theorem snpAck (m : HostRsp) : Statement (.snpAck m) := no_word rfl

theorem data (m : HostRsp) (d : BitVec 512) : Statement (.data m d) := no_word rfl

theorem snpData (m : HostRsp) (d : BitVec 512) : Statement (.snpData m d) := no_word rfl

theorem commandSlotTake (k : Fin 64) : Statement (.commandSlotTake k) := no_word rfl

theorem ringEntryWrite  : Statement (.ringEntryWrite) := no_word rfl

theorem ringHeadAdvance (head : BitVec 64) : Statement (.ringHeadAdvance head) := no_word rfl

theorem statusCopy  : Statement (.statusCopy) := no_word rfl

theorem mctpMessage (ep : BitVec 8) (bytes : List Byte) : Statement (.mctpMessage ep bytes) := no_word rfl

theorem devInfo (p : Packet) : Statement (.devInfo p) := no_word rfl

theorem devStatus (p : Packet) : Statement (.devStatus p) := no_word rfl

theorem devReset (p : Packet) : Statement (.devReset p) := no_word rfl

theorem faultClear (p : Packet) : Statement (.faultClear p) := no_word rfl

theorem ledgerRead (p : Packet) : Statement (.ledgerRead p) := no_word rfl

theorem groupDefine (p : Packet) : Statement (.groupDefine p) := no_word rfl

theorem groupDelete (p : Packet) : Statement (.groupDelete p) := no_word rfl

theorem groupRead (p : Packet) : Statement (.groupRead p) := no_word rfl

theorem configCommit (p : Packet) : Statement (.configCommit p) := no_word rfl

theorem configRollback (p : Packet) : Statement (.configRollback p) := no_word rfl

theorem configRead (p : Packet) : Statement (.configRead p) := no_word rfl

theorem progLoad (p : Packet) : Statement (.progLoad p) := no_word rfl

theorem progLoadDone  : Statement (.progLoadDone) := no_word rfl

theorem progStart (p : Packet) : Statement (.progStart p) := no_word rfl

theorem progPause (p : Packet) : Statement (.progPause p) := no_word rfl

theorem pauseDrainDone  : Statement (.pauseDrainDone) := no_word rfl

theorem progResume (p : Packet) : Statement (.progResume p) := no_word rfl

theorem progUnload (p : Packet) : Statement (.progUnload p) := no_word rfl

theorem progStatus (p : Packet) : Statement (.progStatus p) := no_word rfl

theorem syncWrite (p : Packet) : Statement (.syncWrite p) := no_word rfl

theorem debugResume (p : Packet) : Statement (.debugResume p) := no_word rfl

theorem memRead (p : Packet) : Statement (.memRead p) := no_word rfl

theorem memWrite (p : Packet) : Statement (.memWrite p) := no_word rfl

theorem memCopy (p : Packet) : Statement (.memCopy p) := no_word rfl

theorem memCopyDone (tag : BitVec 32) : Statement (.memCopyDone tag) := no_word rfl

theorem llmMode (p : Packet) : Statement (.llmMode p) := no_word rfl

theorem cxlRetrain (p : Packet) : Statement (.cxlRetrain p) := no_word rfl

theorem sliceSet (p : Packet) : Statement (.sliceSet p) := no_word rfl

theorem circuitOpen (p : Packet) : Statement (.circuitOpen p) := no_word rfl

theorem circuitClose (p : Packet) : Statement (.circuitClose p) := no_word rfl

theorem transitGrant (p : Packet) : Statement (.transitGrant p) := no_word rfl

theorem transitRevoke (p : Packet) : Statement (.transitRevoke p) := no_word rfl

theorem quench (p : Packet) : Statement (.quench p) := no_word rfl

theorem unquench (p : Packet) : Statement (.unquench p) := no_word rfl

theorem portRetrain (p : Packet) : Statement (.portRetrain p) := no_word rfl

theorem ceBind (p : Packet) : Statement (.ceBind p) := no_word rfl

theorem ceUnbind (p : Packet) : Statement (.ceUnbind p) := no_word rfl

theorem timeSet (p : Packet) : Statement (.timeSet p) := no_word rfl

theorem timeCancel (p : Packet) : Statement (.timeCancel p) := no_word rfl

theorem snapshotAt (p : Packet) : Statement (.snapshotAt p) := no_word rfl

theorem hamperArm (p : Packet) : Statement (.hamperArm p) := no_word rfl

theorem hamperDisarm (p : Packet) : Statement (.hamperDisarm p) := no_word rfl

theorem hamperRestore (p : Packet) : Statement (.hamperRestore p) := no_word rfl

theorem hamperExport (p : Packet) : Statement (.hamperExport p) := no_word rfl

theorem mirrorRetry (p : Packet) : Statement (.mirrorRetry p) := no_word rfl

theorem genPin (p : Packet) : Statement (.genPin p) := no_word rfl

theorem genUnpin (p : Packet) : Statement (.genUnpin p) := no_word rfl

theorem genDelete (p : Packet) : Statement (.genDelete p) := no_word rfl

theorem genList (p : Packet) : Statement (.genList p) := no_word rfl

theorem cloveRead (p : Packet) : Statement (.cloveRead p) := no_word rfl

theorem cloveWrite (p : Packet) : Statement (.cloveWrite p) := no_word rfl

theorem sampleRead (p : Packet) : Statement (.sampleRead p) := no_word rfl

theorem absentRead (p : Packet) : Statement (.absentRead p) := no_word rfl

theorem marchRun (p : Packet) : Statement (.marchRun p) := no_word rfl

theorem repairLogRead (p : Packet) : Statement (.repairLogRead p) := no_word rfl

theorem retiredRead (p : Packet) : Statement (.retiredRead p) := no_word rfl

theorem ovfLogRead (p : Packet) : Statement (.ovfLogRead p) := no_word rfl

theorem snapshotRead (p : Packet) : Statement (.snapshotRead p) := no_word rfl

theorem arrayUnfence (p : Packet) : Statement (.arrayUnfence p) := no_word rfl

theorem attest (p : Packet) : Statement (.attest p) := no_word rfl

theorem identityRead (p : Packet) : Statement (.identityRead p) := no_word rfl

theorem fwUpdate (p : Packet) : Statement (.fwUpdate p) := no_word rfl

theorem ledgerDrainTimeout  : Statement (.ledgerDrainTimeout) := no_word rfl

theorem powerOn (fault : Option PhaseOneFault) : Statement (.powerOn fault) := no_word rfl

theorem firmwareSlotVerify (v : LinkTrain) : Statement (.firmwareSlotVerify v) := no_word rfl

theorem configurationLoad  : Statement (.configurationLoad) := no_word rfl

theorem startupMarch (failing : List (MarchUnit × BankRow)) : Statement (.startupMarch failing) := no_word rfl

theorem hbmTraining (failed : Option (Fin 8)) (cxl : List CxlDevice) : Statement (.hbmTraining failed cxl) := no_word rfl

theorem journalReplay (energy : Nat) (readable : Bool) : Statement (.journalReplay energy readable) := no_word rfl

theorem fabricLinkTraining (r : List PortTrain) : Statement (.fabricLinkTraining r) := no_word rfl

theorem coordinatePlacement  : Statement (.coordinatePlacement) := no_word rfl

theorem timeLock  : Statement (.timeLock) := no_word rfl

theorem timeSetTimeout  : Statement (.timeSetTimeout) := no_word rfl

theorem timeLockTimeout  : Statement (.timeLockTimeout) := no_word rfl

theorem phaseBoundExceeded  : Statement (.phaseBoundExceeded) := no_word rfl

theorem resetNAssert  : Statement (.resetNAssert) := no_word rfl

theorem resetHoldExpiry  : Statement (.resetHoldExpiry) := no_word rfl

theorem resetNRelease  : Statement (.resetNRelease) := no_word rfl

theorem managementWatchdog  : Statement (.managementWatchdog) := no_word rfl

theorem pwrGoodFall  : Statement (.pwrGoodFall) := no_word rfl

theorem flowOkFall  : Statement (.flowOkFall) := no_word rfl

theorem flowOkRise  : Statement (.flowOkRise) := no_word rfl

theorem flowTrip  : Statement (.flowTrip) := no_word rfl

theorem thermalTrip  : Statement (.thermalTrip) := no_word rfl

theorem powerTrip  : Statement (.powerTrip) := no_word rfl

theorem thermalDemandRise (m : Sensors) : Statement (.thermalDemandRise m) := no_word rfl

theorem thermalDemandFall (m : Sensors) : Statement (.thermalDemandFall m) := no_word rfl

theorem powerDemandRise (m : Sensors) : Statement (.powerDemandRise m) := no_word rfl

theorem powerDemandFall (m : Sensors) : Statement (.powerDemandFall m) := no_word rfl

theorem inletOverTemperature (m : Sensors) : Statement (.inletOverTemperature m) := no_word rfl

theorem stbyStatusRead  : Statement (.stbyStatusRead) := no_word rfl

theorem stbyStatusClear (v : BitVec 64) (holding : BitVec 3) : Statement (.stbyStatusClear v holding) := no_word rfl

theorem cvtFlagsWrite (t : Fin 64) (st : Stream) (v : BitVec 64) : Statement (.cvtFlagsWrite t st v) := no_word rfl

theorem arrayLagClear (t : Fin 64) (n : Fin 4) (v : BitVec 64) : Statement (.arrayLagClear t n v) := no_word rfl

theorem spScrubWrite (t : Fin 64) (v : BitVec 64) : Statement (.spScrubWrite t v) := no_word rfl

theorem llmScrubWrite (sl : Fin 16) (v : BitVec 64) : Statement (.llmScrubWrite sl v) := no_word rfl

theorem hbmPrioWrite (v : BitVec 64) : Statement (.hbmPrioWrite v) := no_word rfl

theorem hbmScrubWrite (k : Fin 8) (v : BitVec 64) : Statement (.hbmScrubWrite k v) := no_word rfl

theorem cxlTimeoutWrite (v : BitVec 64) : Statement (.cxlTimeoutWrite v) := no_word rfl

theorem fabAckTimeoutWrite (v : BitVec 64) : Statement (.fabAckTimeoutWrite v) := no_word rfl

theorem ceTimeoutWrite (ax : Fin 4) (v : BitVec 64) : Statement (.ceTimeoutWrite ax v) := no_word rfl

theorem hamperRefreshWrite (v : BitVec 64) : Statement (.hamperRefreshWrite v) := no_word rfl

theorem vkxWindowWrite (v : BitVec 64) : Statement (.vkxWindowWrite v) := no_word rfl

theorem vkxTimeoutWrite (v : BitVec 64) : Statement (.vkxTimeoutWrite v) := no_word rfl

theorem timeFecRead  : Statement (.timeFecRead) := no_word rfl

theorem registerWrite (addr : BitVec 48) (len : Fin 65) (v : BitVec 64) : Statement (.registerWrite addr len v) := no_word rfl

theorem vkxRetrainComplete (v : LinkTrain) : Statement (.vkxRetrainComplete v) := no_word rfl

theorem portRetrainComplete (r : List PortTrain) : Statement (.portRetrainComplete r) := no_word rfl

theorem cxlRetrainComplete (up : List CxlDevice) : Statement (.cxlRetrainComplete up) := no_word rfl

theorem spiNorWriteComplete  : Statement (.spiNorWriteComplete) := no_word rfl

theorem mctpCoordinateWrite (c : Coords) (n : Extents) : Statement (.mctpCoordinateWrite c n) := no_word rfl

theorem replyValidWordClear (k : Fin 64) : Statement (.replyValidWordClear k) := no_word rfl

theorem standbyConverterStart  : Statement (.standbyConverterStart) := no_word rfl

end Sys2Proof.Laws.WordOf
end

