-- ==== Sys2Proof/Tests/Slice0.lean ====
section
/-! SUPPORT. Tests of the model on small states, and for every statement with hypotheses a state and operands that meet them. Expected
values come from the rules named. -/

namespace Sys2Proof.Tests

set_option Elab.async false

open Sys2Proof Sys2Proof.Machine

/-! ### Helpers -/

/-- The command answers a state of which the test holds. -/
def after (c : Instr) (s : State) (p : State → Bool) : Bool := match exec c s with | .next t => p t | _ => false

/-- The module runs a program of one tile, with its memories mapped. -/
def up : State :=
  { State.reset with
    prog := some { p := 1 }, firm := { state := .running, phase := 10 }, phys := { mainOn := true },
    mem := { onchip := true, offchip := true } }

/-- An active stream at address 0. -/
def live : StreamCtx := { run := .active }

/-- Stream F of tile 0 has this word at its head. -/
def headed (s : State) (word : BitVec 256) (x : StreamCtx) : State :=
  modTile s 0 fun t => { t with
    loaded := some 0, carried := [0], ctx := { t.ctx with f := x }, ibuf := [⟨.F, 0, word.setWidth 512, false⟩] }

/-- The issue of stream F of tile 0. -/
def i0 : Issue := ⟨0, .F, 0⟩

/-- The state in which an instruction is at the head of a stream. -/
def ready (op : Nat) (w : BitVec 246) (x : StreamCtx := live) : State := headed up (tileWord op w) x

/-- Stream F of tile 0. -/
def f0 (s : State) : StreamCtx := strm s 0 .F

/-! ### Well-formed commands: for each check a term that it refuses -/

def packet0 : Packet := ⟨.slot 0, 0, 0, 7, 0, []⟩
def path0 : PathMsg := ⟨1, 2, 0, 0, [0], 1, 0⟩

theorem test_wf_packet : wellFormed (.devInfo packet0) = true ∧
    wellFormed (.devInfo { packet0 with payload := List.replicate 4065 0 }) = false := by decide +kernel
theorem test_wf_hops : wellFormed (.circuitRelease ⟨0, 0⟩ path0) = true ∧
    wellFormed (.circuitRelease ⟨0, 0⟩ { path0 with hops := [] }) = false ∧
    wellFormed (.circuitRelease ⟨0, 0⟩ { path0 with hops := List.replicate 65 0 }) = false := by decide +kernel
theorem test_wf_path : wellFormed (.circuitSetup ⟨0, 0⟩ path0) = true ∧
    wellFormed (.circuitSetup ⟨0, 0⟩ { path0 with pos := 0 }) = false ∧
    wellFormed (.transitSet ⟨0, 0⟩ { path0 with pos := 2 }) = false := by decide +kernel
theorem test_wf_message : wellFormed (.qMessageForward 0 0 ⟨1, 2, 0x10, 0, 0, []⟩) = true ∧
    wellFormed (.qMessageForward 0 0 ⟨1, 2, 0x10, 0, 0, List.replicate 4097 0⟩) = false := by decide +kernel
theorem test_wf_codeword : wellFormed (.circuitCodeword ⟨0, 0⟩ (List.replicate 2048 0)) = true ∧
    wellFormed (.circuitCodeword ⟨0, 0⟩ []) = false := by decide +kernel
theorem test_wf_container : wellFormed (.containerArrival ⟨0, 0⟩ 0 [List.replicate 2048 0] 0) = true ∧
    wellFormed (.containerArrival ⟨0, 0⟩ 0 [List.replicate 2048 0] 1457) = false ∧
    wellFormed (.containerArrival ⟨0, 0⟩ 0 [[]] 0) = false ∧ wellFormed (.containerArrival ⟨0, 0⟩ 0 [] 2000) = false := by decide +kernel
theorem test_wf_mirror : wellFormed (.mirrorExtentReceive ⟨1, 0, false, 0⟩) = true ∧
    wellFormed (.mirrorExtentReceive ⟨1, 2 ^ 31, false, 0⟩) = false := by decide +kernel
theorem test_wf_mctp : wellFormed (.mctpMessage 0 (List.replicate 32 0)) = true ∧ wellFormed (.mctpMessage 0 []) = false ∧
    wellFormed (.mctpMessage 0 (List.replicate 33 0)) = false := by decide +kernel
theorem test_wf_command : wellFormed (.commandMsg ⟨0, 0⟩ 0 (.packet 1 packet0)) = true ∧
    wellFormed (.commandMsg ⟨0, 0⟩ 0 (.validate 1 { packet0 with payload := List.replicate 4065 0 })) = false ∧
    wellFormed (.commandMsg ⟨0, 0⟩ 0 (.execute 1 { packet0 with payload := List.replicate 4065 0 })) = false := by decide +kernel
theorem test_wf_opcode : wellFormed (.illegalOpcode i0 (tileWord 0x005 0)) = true ∧
    wellFormed (.illegalOpcode i0 (tileWord 0x008 0)) = false := by decide +kernel

/-! ### Words of the instructions (R127, R134) -/

/-- `SLI s5, 7`: opcode 0x008 in [255:246], the register in [244:240], the immediate in [191:128]. -/
theorem test_word_sli : tileWord 0x008 (sliWord 5 7) = BitVec.ofNat 256 (0x008 * 2 ^ 246 + 5 * 2 ^ 240 + 7 * 2 ^ 128) := by decide +kernel
theorem test_decode_words : decodeTile i0 (BitVec.ofNat 256 (0x008 * 2 ^ 246 + 5 * 2 ^ 240 + 7 * 2 ^ 128)) = .sli i0 (sliWord 5 7) ∧
    decodeTile i0 (BitVec.ofNat 256 (0x040 * 2 ^ 246 + 2 * 2 ^ 240 + 9 * 2 ^ 234)) = .wait i0 (waitWord 2 9 0 0 false false) ∧
    decodeTile i0 (BitVec.ofNat 256 (0x110 * 2 ^ 246)) = .vadd i0 0 ∧ decodeTile i0 (BitVec.ofNat 256 (0x080 * 2 ^ 246)) = .mma i0 0 ∧
    decodeTile i0 (BitVec.ofNat 256 (0x250 * 2 ^ 246)) = .tupd i0 0 ∧ decodeTile i0 (BitVec.ofNat 256 (0x203 * 2 ^ 246)) = .cxch i0 0 ∧
    decodeTile i0 (BitVec.ofNat 256 (0x211 * 2 ^ 246)) = .fget i0 0 ∧
    decodeTile i0 (BitVec.ofNat 256 (0x005 * 2 ^ 246)) = .illegalOpcode i0 (BitVec.ofNat 256 (0x005 * 2 ^ 246)) := by decide +kernel
/-- The table gives no row any bits: no word of it spells a command, and the queue stays as it is. -/
theorem test_table_word : decodeTableWord 0 0 = none ∧ State.withFetchWord State.reset 16 0x1234 = State.reset := ⟨rfl, rfl⟩

/-! ### Sequencer and scalar instructions (R122-R126, R134, R135) -/

theorem test_step_runs_front : step { up with pending := [.timeFecRead, .stbyStatusRead] } = exec .timeFecRead { up with pending := [.stbyStatusRead] } :=
  rfl

theorem witness_sli : Ready (ready 0x008 (sliWord 5 7)) i0 (tileWord 0x008 (sliWord 5 7)) := ready_of_check (by decide +kernel)
theorem test_sli : after (.sli i0 (sliWord 5 7)) (ready 0x008 (sliWord 5 7)) (fun t => sReg (f0 t) 5 == 7 && (f0 t).pc == 32) = true := by
  decide +kernel
theorem witness_ali : Ready (ready 0x009 (aliWord 2 0xFFFF)) i0 (tileWord 0x009 (aliWord 2 0xFFFF)) := ready_of_check (by decide +kernel)
theorem test_ali : after (.ali i0 (aliWord 2 0xFFFF)) (ready 0x009 (aliWord 2 0xFFFF)) (fun t => aReg (f0 t) 2 == 0xFFFF) = true := by
  decide +kernel

/-- Registers with a few values. -/
def regs : StreamCtx := { live with s := [(1, 3), (2, -1)], a := [(1, 0x10)], nutElem := 4, nutStep := 2 }
def sopAt (op : BitVec 4) (b : BitVec 64) : State := ready 0x00A (sopWord 4 2 0 op true b) regs
def sopGives (op : BitVec 4) (b r : BitVec 64) : Bool := after (.sop i0 (sopWord 4 2 0 op true b)) (sopAt op b) fun t => sReg (f0 t) 4 == r

theorem witness_sop : Ready (sopAt 0xC 1) i0 (tileWord 0x00A (sopWord 4 2 0 0xC true 1)) := ready_of_check (by decide +kernel)
/-- The register holds -1: shifts count modulo 64, the order is signed. -/
theorem test_sop : sopGives 0x0 3 2 ∧ sopGives 0x1 1 (-2) ∧ sopGives 0x5 65 (-2) ∧ sopGives 0x6 63 1 ∧ sopGives 0x7 63 (-1) ∧
    sopGives 0x9 0 (-1) ∧ sopGives 0xA 0 0 ∧ sopGives 0xB 0 1 ∧ sopGives 0xC (-1) 1 := by decide +kernel
theorem witness_aadd : Ready (ready 0x00B (aaddWord 2 1 0 true (-0x10)) regs) i0 (tileWord 0x00B (aaddWord 2 1 0 true (-0x10))) :=
  ready_of_check (by decide +kernel)
theorem test_aadd_wraps : after (.aadd i0 (aaddWord 2 1 0 true (-0x10))) (ready 0x00B (aaddWord 2 1 0 true (-0x10)) regs)
    (fun t => aReg (f0 t) 2 == 0) = true := by decide +kernel

theorem witness_nop : Ready (ready 0x000 0) i0 (tileWord 0x000 0) := ready_of_check (by decide +kernel)
theorem test_nop : after (.nop i0 0) (ready 0x000 0 regs) (fun t => f0 t == { regs with pc := 32, lastIssue := some 0, issuedAt := some 0 }) = true := by
  decide +kernel
theorem witness_nutset : Ready (ready 0x010 (nutsetWord 9 8)) i0 (tileWord 0x010 (nutsetWord 9 8)) := ready_of_check (by decide +kernel)
theorem test_nutset : after (.nutset i0 (nutsetWord 9 8)) (ready 0x010 (nutsetWord 9 8)) (fun t => (f0 t).nutStep == 9 && (f0 t).nutElem == 8) = true := by
  decide +kernel
theorem witness_tlayer : Ready (ready 0x240 (tlayerWord 3 70)) i0 (tileWord 0x240 (tlayerWord 3 70)) := ready_of_check (by decide +kernel)
theorem test_tlayer : after (.tlayer i0 (tlayerWord 3 70)) (ready 0x240 (tlayerWord 3 70))
    (fun t => (cloveOf t 0 .F).layer == 3 && (cloveOf t 0 .F).base == 70) = true := by decide +kernel

/-- A stream whose recompute window is open, with the saved counter 77. -/
def windowed (s : State) : State := modTile s 0 fun t => { t with ctx := { t.ctx with clove := { words := [(0, { window := true, save := 77 })] } } }
theorem witness_rcmp_opens : Ready (ready 0x241 (rcmpWord false true 1 0) regs) i0 (tileWord 0x241 (rcmpWord false true 1 0)) ∧
    (cloveOf (ready 0x241 (rcmpWord false true 1 0) regs) 0 .F).window = false := ⟨ready_of_check (by decide +kernel), by decide +kernel⟩
theorem test_rcmp_opens : after (.rcmp i0 (rcmpWord false true 1 0)) (ready 0x241 (rcmpWord false true 1 0) regs)
    (fun t => (cloveOf t 0 .F).save == 4 && (f0 t).nutElem == 3) = true := by decide +kernel
theorem witness_rcmp_closes : Ready (windowed (ready 0x241 (rcmpWord true false 0 0))) i0 (tileWord 0x241 (rcmpWord true false 0 0)) ∧
    (cloveOf (windowed (ready 0x241 (rcmpWord true false 0 0))) 0 .F).window = true := ⟨ready_of_check (by decide +kernel), by decide +kernel⟩
theorem test_rcmp_closes : after (.rcmp i0 (rcmpWord true false 0 0)) (windowed (ready 0x241 (rcmpWord true false 0 0)))
    (fun t => (f0 t).nutElem == 77 && !(cloveOf t 0 .F).window) = true := by decide +kernel

/-- A program whose slot map has two phases: one shares array 0 between F and B, the other gives it to F alone. -/
def phased (s : State) : State := { s with prog := some { p := 1, slotMaps := [(0, [0x0003, 0x0001])] } }
theorem witness_slot : Ready (phased (ready 0x043 (slotWord 1) { live with held := 1 })) i0 (tileWord 0x043 (slotWord 1)) ∧
    (1 : Nat) < phaseCount (phased up) 0 := ⟨ready_of_check (by decide +kernel), by decide +kernel⟩
theorem test_slot : after (.slot i0 (slotWord 1)) (phased (ready 0x043 (slotWord 1) { live with held := 2 }))
    (fun t => (f0 t).phase == 1 && (f0 t).held == 0) = true := by decide +kernel

/-- A body of two words, in its second iteration of three. -/
def frame : LoopFrame := ⟨0, 64, 3, 1, 0⟩
theorem witness_jmp : Ready (ready 0x002 (jmpWord 96)) i0 (tileWord 0x002 (jmpWord 96)) ∧ regionAt (ready 0x002 (jmpWord 96)) 96 = .hbm :=
  ⟨ready_of_check (by decide +kernel), by decide +kernel⟩
theorem test_jmp : after (.jmp i0 (jmpWord 96)) (ready 0x002 (jmpWord 96)) (fun t => (f0 t).pc == 96) = true := by decide +kernel
theorem witness_jmp_unaligned : Ready (ready 0x002 (jmpWord 97)) i0 (tileWord 0x002 (jmpWord 97)) := ready_of_check (by decide +kernel)
theorem test_jmp_unaligned : after (.jmp i0 (jmpWord 97)) (ready 0x002 (jmpWord 97))
    (fun t => (tileAt t 0).halt.reason == 0x04 && (tileAt t 0).halt.valid && (f0 t).run == .halted) = true := by decide +kernel
/-- The end of the body is outside it, and the last word before it inside. -/
theorem witness_bnz_outside : Ready (ready 0x003 (bnzWord 0 64) { live with loops := [frame] }) i0 (tileWord 0x003 (bnzWord 0 64)) :=
  ready_of_check (by decide +kernel)
theorem test_bnz_outside : after (.bnz i0 (bnzWord 0 64)) (ready 0x003 (bnzWord 0 64) { live with loops := [frame] })
    (fun t => (tileAt t 0).halt.reason == 0x03) = true := by decide +kernel
theorem test_bnz_inside : after (.bnz i0 (bnzWord 1 32)) (ready 0x003 (bnzWord 1 32) { regs with loops := [frame] })
    (fun t => (f0 t).pc == 32 && (f0 t).loops == [frame]) = true := by decide +kernel

def loop4 : StreamCtx := { live with loops := List.replicate 4 ⟨0, 640, 3, 1, 0⟩ }
theorem witness_loop : Ready (ready 0x004 (loopWord 1 2 5)) i0 (tileWord 0x004 (loopWord 1 2 5)) ∧
    Ready (ready 0x004 (loopRegWord 1 1 2) regs) i0 (tileWord 0x004 (loopRegWord 1 1 2)) ∧
    Ready (ready 0x004 (loopWord 1 2 0)) i0 (tileWord 0x004 (loopWord 1 2 0)) ∧
    Ready (ready 0x004 (loopWord 1 2 5) loop4) i0 (tileWord 0x004 (loopWord 1 2 5)) :=
  ⟨ready_of_check (by decide +kernel), ready_of_check (by decide +kernel), ready_of_check (by decide +kernel), ready_of_check (by decide +kernel)⟩
theorem test_loop : after (.loop i0 (loopWord 1 2 5)) (ready 0x004 (loopWord 1 2 5)) (fun t => (f0 t).loops == [⟨32, 96, 5, 0, 1⟩]) = true := by
  decide +kernel
theorem test_loop_skips : after (.loop i0 (loopWord 1 2 0)) (ready 0x004 (loopWord 1 2 0)) (fun t => (f0 t).pc == 96 && (f0 t).loops == []) = true := by
  decide +kernel
theorem test_loop_ends : (advance1 { live with pc := 32, loops := [frame] }).pc = 0 ∧
    advance1 { live with pc := 32, loops := [⟨0, 64, 2, 1, 0⟩] } = { live with pc := 64 } := by decide +kernel
theorem witness_end : Ready (ready 0x001 0) i0 (tileWord 0x001 0) ∧ openChains (atIssue (ready 0x001 0) i0) 0 = [] :=
  ⟨ready_of_check (by decide +kernel), by decide +kernel⟩
theorem test_end : after (.endStream i0 0) (ready 0x001 0) (fun t => (f0 t).run == .ended) = true := by decide +kernel

/-! ### Seals and scratchpad scalars (R134, R147-R149) -/

/-- Page 0 has seal 0: a consumer of it passes, one of the seal after it comes early, and a producer stamps the seal after it. -/
theorem test_seals : (consumerCheck up 0 1 0 0).bad = false ∧ (consumerCheck up 0 1 8 0).reason = 0x06 ∧ (consumerCheck up 0 1 7 0).reason = 0x05 ∧
    (producerCheck up 0 3 1 false 0).bad = false ∧ (producerCheck up 0 3 2 false 0).bad = true := by decide +kernel
theorem witness_sld : let s := ready 0x00C (sldWord 1 16 false 0)
    Ready s i0 (tileWord 0x00C (sldWord 1 16 false 0)) ∧ usesOf (beforeIssue s i0) 0 0 true = [] ∧ spError (tileAt s 0).ctx 16 8 = none ∧
      sealOf s 0 0 = effSeal (f0 s) false 0 := ⟨ready_of_check (by decide +kernel), by decide +kernel, by decide +kernel, by decide +kernel⟩
theorem test_sld : after (.sld i0 (sldWord 1 16 false 0))
    (modTile (ready 0x00C (sldWord 1 16 false 0)) 0 fun t => { t with ctx := { t.ctx with sp := [(16, 0x34), (17, 0x12)] } })
    (fun t => sReg (f0 t) 1 == 0x1234) = true := by decide +kernel
theorem witness_sst : let s := ready 0x00D (sstWord 1 16 false 1) regs
    Ready s i0 (tileWord 0x00D (sstWord 1 16 false 1)) ∧ usesOf (beforeIssue s i0) 0 0 true = [] ∧ usesOf (beforeIssue s i0) 0 0 false = [] ∧
      devTile s 0 = 0 ∧ (sealOf s 0 0 + 1) % 16 = effSeal (f0 s) false 1 :=
  ⟨ready_of_check (by decide +kernel), by decide +kernel, by decide +kernel, by decide +kernel, by decide +kernel⟩
theorem test_sst : after (.sst i0 (sstWord 2 16 false 1)) (ready 0x00D (sstWord 2 16 false 1) regs)
    (fun t => (ctxOf t 0).sp == (List.range 8).map (fun k => (16 + k, 0xFF)) && sealOf t 0 0 == 1) = true := by decide +kernel
theorem witness_sealset : Ready (ready 0x011 (sealsetWord 1022 2 5)) i0 (tileWord 0x011 (sealsetWord 1022 2 5)) := ready_of_check (by decide +kernel)
theorem test_sealset : after (.sealset i0 (sealsetWord 1022 2 5)) (ready 0x011 (sealsetWord 1022 2 5))
    (fun t => sealOf t 0 1021 == 0 && sealOf t 0 1022 == 5 && sealOf t 0 1023 == 5) = true := by decide +kernel
/-! ### Counters (R136, R145, R310-R314) -/

/-- Die counter 3 holds 5. -/
def counted (s : State) : State := { s with dieSync := [(3, 5)] }
def wait5 : BitVec 246 := waitWord 2 3 5 0 false false
theorem witness_wait : let s := counted (ready 0x040 wait5)
    Ready s i0 (tileWord 0x040 wait5) ∧ (∀ u, (flag1 false ++ (0 : BitVec 4)).getLsbD u ≠ true) ∧ ctrVal s 2 (ctrTarget 2 (ptileOf s 0)) 3 = 5 ∧
      earlierTakes (atIssue s i0) 0 .F ⟨.sync, 2, 3, 5, 0, 0⟩ = false :=
  ⟨ready_of_check (by decide +kernel), fun u => by simp [flag1], by decide +kernel, by decide +kernel⟩
theorem test_wait_at_threshold : after (.wait i0 wait5) (counted (ready 0x040 wait5))
    (fun t => ctrVal t 2 0 3 == 0 && (f0 t).wait == none && (f0 t).pc == 32) = true := by decide +kernel
theorem witness_wait_below : let s := ready 0x040 wait5
    Ready s i0 (tileWord 0x040 wait5) ∧ ctrVal s 2 (ctrTarget 2 (ptileOf s 0)) 3 < 5 ∧ openChains (atIssue s i0) 0 = [] :=
  ⟨ready_of_check (by decide +kernel), by decide +kernel, by decide +kernel⟩
theorem test_wait_below : after (.wait i0 wait5) (ready 0x040 wait5)
    (fun t => (f0 t).wait == some ⟨.sync, 2, 3, 5, 0, 0⟩ && (f0 t).pc == 0) = true := by decide +kernel
/-- A stream that waits for what has come. -/
def waiting : State := counted (ready 0x040 wait5 { live with wait := some ⟨.sync, 2, 3, 5, 0, 9⟩ })
theorem witness_waitSatisfied : let s := waiting; let w : Waiting := ⟨.sync, 2, 3, 5, 0, 9⟩
    (strm s 0 .F).wait = some w ∧ goesOn s = true ∧ (strm s 0 .F).run = .active ∧ (strm s 0 .F).paused = false ∧ (tileAt s 0).loaded.isSome = true ∧
      waitReady s 0 w = true ∧ earlierTakes s 0 .F w = false := by decide +kernel
theorem test_waitSatisfied : after (.waitSatisfied 0 .F) waiting (fun t => ctrVal t 2 0 3 == 0 && (f0 t).wait == none && (f0 t).pc == 32) = true := by
  decide +kernel

/-- At the end of the counter's range: the largest increment that fits, of the own tile. -/
theorem witness_signal : Ready (ready 0x041 (signalWord 0 63 0xFFFF 0)) i0 (tileWord 0x041 (signalWord 0 63 0xFFFF 0)) ∧
    ctrVal (ready 0x041 (signalWord 0 63 0xFFFF 0)) 0 0 63 + 0xFFFF ≤ 0xFFFF := ⟨ready_of_check (by decide +kernel), by decide +kernel⟩
theorem test_signal_own_tile : after (.signal i0 (signalWord 0 63 0xFFFF 0)) (ready 0x041 (signalWord 0 63 0xFFFF 0))
    (fun t => ctrVal t 0 0 63 == 0xFFFF) = true := by decide +kernel
theorem witness_signal_far : Ready (ready 0x041 (signalWord 1 31 2 0)) i0 (tileWord 0x041 (signalWord 1 31 2 0)) := ready_of_check (by decide +kernel)
theorem test_signal_cluster_latency : after (.signal i0 (signalWord 1 31 2 0)) (ready 0x041 (signalWord 1 31 2 0))
    (fun t => ((tileAt t 0).signals.map fun g => (g.due, g.target, g.inc)) == [(t.time.cycle + 8, 0, 2)] && t.cluster == []) = true := by decide +kernel
theorem test_signal_none : after (.signal i0 (signalWord 2 0 0 0)) (ready 0x041 (signalWord 2 0 0 0)) (fun t => (tileAt t 0).signals == []) = true := by
  decide +kernel
/-- Two signals in flight: the die's, and a cluster's that was issued later and arrives first. -/
def flying (old : BitVec 16) : State :=
  modTile { up with cluster := [(4, old)], time := { cycle := 10 } } 0 fun t => { t with
    loaded := some 0, carried := [0], signals := [⟨40, 2, 0, 0, 1, .F, 0⟩, ⟨20, 1, 0, 4, 3, .F, 64⟩] }
theorem witness_signalArrival : nextSignal (flying 0xFFFC) 0 .F = some ⟨20, 1, 0, 4, 3, .F, 64⟩ ∧ ctrVal (flying 0xFFFC) 1 0 4 + 3 = 0xFFFF := by
  decide +kernel
theorem test_signalArrival : after (.signalArrival 0 .F) (flying 0xFFFC)
    (fun t => ctrVal t 1 0 4 == 0xFFFF && (tileAt t 0).signals.length == 1 && t.time.cycle == 20) = true := by decide +kernel
theorem test_signalArrival_overflow : after (.signalArrival 0 .F) (flying 0xFFFD)
    (fun t => ctrVal t 1 0 4 == 0xFFFD && (tileAt t 0).halt.reason == 0x09 && (tileAt t 0).halt.addr == 64) = true := by decide +kernel

/-! ### Barriers (R315-R323) -/

/-- A program with two trees: sums of one arrival on tile 0, and step marks of two. -/
def treed (s : State) : State := { s with prog := some { p := 1, trees := [⟨false, [1]⟩, ⟨true, [3]⟩] } }
/-- Module 0 of two on the x axis in slice 1, or module 1. -/
def pair (s : State) (node : BitVec 16) : State :=
  { s with
    fab := { s.fab with
      node := node, coords := ⟨node.setWidth 5, 0, 0, 0⟩, placed := true, extent := ⟨2, 1, 1, 1⟩, own := 1,
      slices := [⟨1, [0, 0, 0, 0], [2, 1, 1, 1]⟩],
      ports := [(0, { state := 3, credits := [(0, 2), (1, 2)] }), (1, { state := 3, credits := [(0, 2), (1, 2)] })],
      strands := (List.range 8).map fun k => (k, { entry := mkEntry 1 1 false }) } }
theorem test_pair : isAnchor (pair up 0) = true ∧ isAnchor (pair up 1) = false ∧ portUp (pair up 0) 0 = true ∧ myParent (pair up 0) = none ∧
    myChildren (pair up 0) ≠ [] ∧ (myParent (pair up 1)).isSome = true ∧ myChildren (pair up 1) = [] := by decide +kernel

def arr (step hold : Bool) : BitVec 246 := arriveWord (if step then 1 else 0) step (!step) 4 hold 2
theorem witness_arrive_full : let s := treed (ready 0x042 (arr false false) regs)
    Ready s i0 (tileWord 0x042 (arr false false)) ∧ treeDecl s 0 = some ⟨false, [1]⟩ ∧ inTree ⟨false, [1]⟩ (ptileOf s 0) .F = true ∧
      openChains (atIssue s i0) 0 = [] ∧ (rd {} s.trees 0).who.length + 1 = expected ⟨false, [1]⟩ ∧ myChildren s = [] :=
  ⟨ready_of_check (by decide +kernel), by decide +kernel, by decide +kernel, by decide +kernel, by decide +kernel, by decide +kernel⟩
/-- The last arrival releases the round of a module alone, and its counter counts. -/
theorem test_arrive_releases : after (.arrive i0 (arr false false)) (treed (ready 0x042 (arr false false) regs))
    (fun t => (rd {} t.trees 0).round == 1 && (rd {} t.trees 0).who == [] && ctrVal t 0 0 2 == 1) = true := by decide +kernel
theorem witness_arrive_step : let s := treed (ready 0x042 (arr true true) regs)
    Ready s i0 (tileWord 0x042 (arr true true)) ∧ treeDecl s 1 = some ⟨true, [3]⟩ ∧ (cloveOf s 0 .F).window = false ∧
      inTree ⟨true, [3]⟩ (ptileOf s 0) .F = true ∧ (rd {} s.trees 1).who.length + 1 < expected ⟨true, [3]⟩ :=
  ⟨ready_of_check (by decide +kernel), by decide +kernel, by decide +kernel, by decide +kernel, by decide +kernel⟩
theorem test_arrive_step_mark : after (.arrive i0 (arr true true)) (treed (ready 0x042 (arr true true) regs))
    (fun t => (f0 t).nutStep == 3 && (f0 t).nutElem == 0 && (f0 t).wait.isSome && (rd {} t.trees 1).who.length == 1) = true := by decide +kernel

/-- Round 5 of tree 0, with the own arrival in. -/
def inRound (node : BitVec 16) (sent : Bool) : State :=
  modTile { pair (treed up) node with
      trees := [(0, { round := 5, who := [⟨0, .F, true, some 4, 0⟩], acc := 7, sentUp := sent, lastDown := 9 })] } 0 fun t =>
    { t with loaded := some 0, carried := [0], ctx := { t.ctx with f := { live with wait := some ⟨.arrive, 0, 0, 0, 0, 0⟩ } } }
def child : Fin 8 := Fin.ofNat 8 (nth 0 (myChildren (pair up 0)) 0)
theorem witness_barrierUp : treeDecl (inRound 0 false) 0 = some ⟨false, [1]⟩ ∧ (myChildren (inRound 0 false)).contains child.val = true ∧
    (rd {} (inRound 0 false).trees 0).who.length = expected ⟨false, [1]⟩ ∧ myChildren (inRound 0 false) = [child.val] := by decide +kernel
/-- The last report ends the round at the anchor: the payload's pair takes the sum, and the child gets `DOWN`. -/
theorem test_barrierUp_last : after (.barrierUp child ⟨0, 5, false, false, 3⟩) (inRound 0 false)
    (fun t => (rd {} t.trees 0).round == 6 && sReg (f0 t) 4 == 10 && sReg (f0 t) 5 == 0 && (f0 t).wait == none && t.out.length == 2) = true := by
  decide +kernel
theorem test_barrierUp_late : after (.barrierUp child ⟨0, 4, false, false, 3⟩) (inRound 0 false)
    (fun t => t.trees == (inRound 0 false).trees && t.out.length == 2) = true := by decide +kernel
theorem witness_barrierDown : treeDecl (inRound 1 true) 0 = some ⟨false, [1]⟩ ∧ ((rd {} (inRound 1 true).trees 0).who.map fun a => (a.ptile, a.stream)).Nodup := by
  decide +kernel
theorem test_barrierDown : after (.barrierDown 1 ⟨0, 5, false, false, 2 ^ 64 + 3⟩) (inRound 1 true)
    (fun t => rd {} t.trees 0 == { round := 6, lastDown := 2 ^ 64 + 3 } && sReg (f0 t) 4 == 3 && sReg (f0 t) 5 == 1 && (f0 t).wait == none) = true := by
  decide +kernel
theorem test_barrierDown_other : after (.barrierDown 1 ⟨0, 6, false, false, 1⟩) (inRound 1 true) (fun t => t.trees == (inRound 1 true).trees) = true := by
  decide +kernel
theorem witness_barrierUpRepeat : (rd {} (inRound 1 true).trees 0).sentUp = true ∧
    (match myParent (inRound 1 true) with
     | some p => (firstPath (inRound 1 true) p).isSome && (secondPath (inRound 1 true) p).isSome
     | none => false) = true := by decide +kernel
theorem test_barrierUpRepeat : after (.barrierUpRepeat 0) (inRound 1 true) (fun t => match t.out with
    | [.barrier l1 true m1, .barrier l2 true m2] => l1 != l2 && m1.value == 7 && m1.round == 5 && !m1.second && m2.second
    | _ => false) = true := by decide +kernel

/-! ### Training instructions of the sequencer (R209-R214) -/

theorem witness_nclip : Ready (ready 0x245 (nclipWord 4 2 1 0)) i0 (tileWord 0x245 (nclipWord 4 2 1 0)) := ready_of_check (by decide +kernel)
/-- A sum of 2^101, in s2 and s3, overflows: bit 62 says so, and the step is noted. -/
def normed (v : Word) : StreamCtx := { regs with s := [(1, 0x3F800000), (2, 0), (3, v)] }
theorem witness_nclip_overflow : Ready (ready 0x245 (nclipWord 4 2 1 0) (normed (2 ^ 37))) i0 (tileWord 0x245 (nclipWord 4 2 1 0)) ∧
    posFinite 0x3F800000 = true ∧ 2 ^ 101 ≤ ((2 ^ 37 : Word) ++ (0 : Word)).toNat := ⟨ready_of_check (by decide +kernel), by decide +kernel, by decide +kernel⟩
theorem test_nclip_overflow : after (.nclip i0 (nclipWord 4 2 1 0)) (ready 0x245 (nclipWord 4 2 1 0) (normed (2 ^ 37)))
    (fun t => sReg (f0 t) 4 == 0x4000000000000000 && t.normStep == [2]) = true := by decide +kernel

/-- Two sample slots, and two kept tensors of one and of two granules. -/
def sampled (s : State) (st : BitVec 3) (kept : Word) : State :=
  { s with
    prog := some { p := 1, keepSlots := 2, keepBase := 0x10000, keep := [⟨0, 1⟩, ⟨1, 4097⟩] }, samples := [(1, { state := st, kept := kept })] }
theorem witness_sopen : let s := sampled (ready 0x248 (sopenWord 1 0xAB 0) regs) 0 0
    Ready s i0 (tileWord 0x248 (sopenWord 1 0xAB 0)) ∧ 0 < sampleSlots s ∧ (rd {} s.samples 0).state = 0 :=
  ⟨ready_of_check (by decide +kernel), by decide +kernel, by decide +kernel⟩
theorem test_sopen : after (.sopen i0 (sopenWord 1 0xAB 0)) (sampled (ready 0x248 (sopenWord 1 0xAB 0) regs) 0 0)
    (fun t => rd {} t.samples 0 == ⟨3, 0, 0xAB, 1⟩) = true := by decide +kernel
theorem witness_sstep : let s := sampled (ready 0x249 (sstepWord 0 1)) 3 0
    Ready s i0 (tileWord 0x249 (sstepWord 0 1)) ∧ (rd {} s.samples 1).state = 3 := ⟨ready_of_check (by decide +kernel), by decide +kernel⟩
theorem test_sstep_closes : after (.sstep i0 (sstepWord 0 1)) (sampled (ready 0x249 (sstepWord 0 1)) 3 0)
    (fun t => (rd {} t.samples 1).state == 0 && t.closed == 1) = true := by decide +kernel
theorem test_sstep_holds : after (.sstep i0 (sstepWord 2 1)) (sampled (ready 0x249 (sstepWord 2 1)) 1 0)
    (fun t => (rd {} t.samples 1).state == 2 && t.closed == 0) = true := by decide +kernel
theorem witness_skaddr : let s := sampled (ready 0x24A (skaddrWord 2 false 1 1)) 1 0
    Ready s i0 (tileWord 0x24A (skaddrWord 2 false 1 1)) ∧ 1 < (keepMap s).length ∧ (rd {} s.samples 1).state = 1 :=
  ⟨ready_of_check (by decide +kernel), by decide +kernel, by decide +kernel⟩
/-- Slot 1 begins 12 KiB after the area, its second entry 4 KiB further. -/
theorem test_skaddr : after (.skaddr i0 (skaddrWord 2 false 1 1)) (sampled (ready 0x24A (skaddrWord 2 false 1 1)) 1 0)
    (fun t => aReg (f0 t) 2 == 0x14000 && (rd {} t.samples 1).kept == 2) = true := by decide +kernel
theorem test_skaddr_reads_kept : after (.skaddr i0 (skaddrWord 2 true 1 1)) (sampled (ready 0x24A (skaddrWord 2 true 1 1)) 3 2)
    (fun t => aReg (f0 t) 2 == 0x14000) = true := by decide +kernel
def linear (addr count fmt g : Nat) : Nat := addr * 2 ^ 42 + count * 2 ^ 25 + 2 ^ 11 + fmt * 2 ^ 7 + g
def npack0 : BitVec 246 := npackWord 4 (BitVec.ofNat 64 (linear 64 3 9 0))
def spAt (s : State) (sp : Table Byte) : State := modTile s 0 fun t => { t with ctx := { t.ctx with sp := sp } }
theorem witness_npack : let s := ready 0x244 npack0
    Ready s i0 (tileWord 0x244 npack0) ∧ firstBad (reservedChecks npack0 [(244, 240), (191, 128)] ++ [ckRange (decide ((4 : BitVec 5).toNat = 31)) 0 4] ++
      fixedLin 1 (linOf (linear 64 3 9 0)) 9 (some 3) ++ [ckAlign (decide ((linOf (linear 64 3 9 0)).addr % 8 ≠ 0)) 1 64] ++
      sealChecks (beforeIssue s i0) [linOperand (beforeIssue s i0) i0 1 false (linOf (linear 64 3 9 0))]) = none ∧ spError (tileAt s 0).ctx 64 24 = none :=
  ⟨ready_of_check (by decide +kernel), by decide +kernel, by decide +kernel⟩
theorem test_npack : after (.npack i0 npack0) (spAt (ready 0x244 npack0) [(64, 9), (72, 1)]) (fun t => sReg (f0 t) 4 == 9 && sReg (f0 t) 5 == 1) = true := by
  decide +kernel
/-- A poison flag makes the payload 2^101. -/
theorem test_npack_poison : after (.npack i0 npack0) (spAt (ready 0x244 npack0) [(64, 9), (80, 2)])
    (fun t => sReg (f0 t) 4 == 0 && sReg (f0 t) 5 == 2 ^ 37) = true := by decide +kernel

/-! ### The vector unit (R166-R173) -/

/-- Every unit of tile 0 is stream F's alone, or stream U's. -/
def ownF (s : State) : State := { s with prog := some { p := 1, slotMaps := [(0, [0x1249])], recCount := [(0, 2)] } }
def ownU (s : State) : State := { s with prog := some { p := 1, slotMaps := [(0, [0x4924])], recCount := [(0, 2)] } }
/-- A word of a vector row: its first format, 16 elements, a granule of memory, and what the row needs. -/
def rowWord (r : VRow) : BitVec 246 :=
  let f := r.fmts.headD 0
  BitVec.ofNat 246 (f * 2 ^ 221 + (if r.vl then 16 * 2 ^ 199 else 0) + (if r.vd then 2 * 2 ^ 240 else 0) +
    (if r.op = 0x104 then 4 * 2 ^ 192 else 0) + (if r.op = 0x172 then 128 * 2 ^ 64 else 0) +
    (match r.mem with | some (k, w) => linear 64 16 (if r.op < 0x102 then f else 4) (bn w) * 2 ^ slotLow k | none => 0))
/-- Each of the 44 rows has a word that is ready and passes its checks. -/
theorem witness_vector_rows : (vectorRows.all fun e => let s := ownF (ready e.2.op (rowWord e.2))
    readyB s i0 (tileWord e.2.op (rowWord e.2)) && (firstBad (vecChecks e.2 (beforeIssue s i0) i0 (rowWord e.2))).isNone) = true := by
  decide +kernel

def vaddRow : VRow := { op := 0x110, fmts := intF, vb := true }
/-- `VADD v2, v0, v0` of `n` INT8 lanes. -/
def vaddWord (n : Nat) : BitVec 246 := BitVec.ofNat 246 (2 * 2 ^ 240 + 6 * 2 ^ 221 + n * 2 ^ 199)
theorem test_vadd_queued : after (.vadd i0 (vaddWord 1024)) (ownF (ready 0x110 (vaddWord 1024)))
    (fun t => (tileAt t 0).vec.queue.length == 1 && (tileAt t 0).vec.holder == some .F && (f0 t).seq == 1) = true := by decide +kernel
theorem test_vadd_empty : after (.vadd i0 (vaddWord 0)) (ownF (ready 0x110 (vaddWord 0)))
    (fun t => (tileAt t 0).vec.queue == [] && (t.firm.records.map fun r => (r.kind, r.done, r.number)) == [(1, true, 0)] && (f0 t).seq == 1) = true := by
  decide +kernel
/-- One lane more than a register holds. -/
theorem test_vadd_too_long : after (.vadd i0 (vaddWord 1025)) (ownF (ready 0x110 (vaddWord 1025)))
    (fun t => (tileAt t 0).halt.reason == 0x03 && (tileAt t 0).halt.detail == 1025) = true := by decide +kernel

/-- The issue of stream U of tile 0, with this word at its head. -/
def u0 : Issue := ⟨0, .U, 0⟩
def readyU (op : Nat) (w : BitVec 246) : State :=
  ownU (modTile up 0 fun t => { t with
    loaded := some 0, carried := [0], ctx := { t.ctx with u := live }, ibuf := [⟨.U, 0, (tileWord op w).setWidth 512, false⟩] })
/-- `TUPD` of `n` T16 elements under stochastic rounding, with c = 0 from its register. -/
def tupdWord (n : Nat) : BitVec 246 := BitVec.ofNat 246 (3 * 2 ^ 221 + 1 * 2 ^ 219 + n * 2 ^ 199)
theorem witness_tupd : Ready (readyU 0x250 (tupdWord 4)) u0 (tileWord 0x250 (tupdWord 4)) ∧
    firstBad (tupdChecks (beforeIssue (readyU 0x250 (tupdWord 4)) u0) u0 (tupdWord 4)) = none := ⟨ready_of_check (by decide +kernel), by decide +kernel⟩
theorem test_tupd : after (.tupd u0 (tupdWord 4)) (readyU 0x250 (tupdWord 4))
    (fun t => (strm t 0 .U).nutElem == 4 && (tileAt t 0).vec.queue.length == 1) = true := by decide +kernel
theorem witness_tclose : Ready (readyU 0x251 (2 ^ 128)) u0 (tileWord 0x251 (2 ^ 128)) ∧
    firstBad (recChecks (beforeIssue (readyU 0x251 (2 ^ 128)) u0) u0 (2 ^ 128) 1 [(135, 128)]) = none := ⟨ready_of_check (by decide +kernel), by decide +kernel⟩
theorem test_tclose : after (.tclose u0 (2 ^ 128)) (readyU 0x251 (2 ^ 128)) (fun t => (tileAt t 0).vec.queue.length == 1) = true := by decide +kernel
/-- Record 2 of a context with two records. -/
theorem test_tclose_range : after (.tclose u0 (2 ^ 129)) (readyU 0x251 (2 ^ 129)) (fun t => (tileAt t 0).halt.reason == 0x03) = true := by decide +kernel
def trecrdWord : BitVec 246 := BitVec.ofNat 246 (linear 64 64 6 1 + 2 ^ 64)
def trecwrWord : BitVec 246 := BitVec.ofNat 246 (linear 64 16 6 0 * 2 ^ 128 + 2 ^ 64)
theorem witness_trecrd : let s := readyU 0x252 trecrdWord; let d := linOf (fld trecrdWord 63 0)
    Ready s u0 (tileWord 0x252 trecrdWord) ∧ firstBad (recChecks (beforeIssue s u0) u0 trecrdWord 2 [(71, 64), (63, 0)] ++ fixedLin 3 d 6 (some 64) ++
      sealChecks (beforeIssue s u0) [linOperand (beforeIssue s u0) u0 3 true d]) = none := ⟨ready_of_check (by decide +kernel), by decide +kernel⟩
theorem witness_trecwr : let s := readyU 0x253 trecwrWord; let d := linOf (fld trecwrWord 191 128)
    Ready s u0 (tileWord 0x253 trecwrWord) ∧ firstBad (recChecks (beforeIssue s u0) u0 trecwrWord 2 [(191, 128), (71, 64)] ++ fixedLin 1 d 6 (some 16) ++
      sealChecks (beforeIssue s u0) [linOperand (beforeIssue s u0) u0 1 false d]) = none := ⟨ready_of_check (by decide +kernel), by decide +kernel⟩
theorem test_trec : after (.trecrd u0 trecrdWord) (readyU 0x252 trecrdWord) (fun t => (tileAt t 0).vec.queue.length == 1) = true ∧
    after (.trecwr u0 trecwrWord) (readyU 0x253 trecwrWord) (fun t => (tileAt t 0).vec.queue.length == 1) = true := by decide +kernel
def tscaleWord (n : Nat) : BitVec 246 := BitVec.ofNat 246 (linear 64 n 6 0 * 2 ^ 128 + linear 64 n 6 1)
theorem witness_tscale : Ready (ownF (ready 0x254 (tscaleWord 8))) i0 (tileWord 0x254 (tscaleWord 8)) ∧
    firstBad (tscaleChecks (beforeIssue (ownF (ready 0x254 (tscaleWord 8))) i0) i0 (tscaleWord 8)) = none := ⟨ready_of_check (by decide +kernel), by decide +kernel⟩
theorem test_tscale_empty : after (.tscale i0 (tscaleWord 0)) (ownF (ready 0x254 (tscaleWord 0)))
    (fun t => (t.firm.records.map fun r => r.done) == [true]) = true := by decide +kernel

/-- An item of tile 0. -/
def item0 (kind : ItemKind) (op : BitVec 10) (w : BitVec 246) : Item :=
  ⟨kind, .F, 3, 64, op, w, ⟨0, 0⟩, 0, 0, 0, 0, 0, false, 0, 0, [], [], [], [], {}, false, none, 0, []⟩
/-- An addition waits in the vector queue, with a few lanes of v0. -/
def vecQueued (op : BitVec 10) : State :=
  let it := item0 .vector op (BitVec.ofNat 246 (2 * 2 ^ 240 + 1 * 2 ^ 230 + 6 * 2 ^ 221 + 2 * 2 ^ 199))
  modTile { up with time := { cycle := 100 } } 0 fun t => { t with
    loaded := some 0, carried := [0], ctx := { t.ctx with v := [(0, 0xFF02), (1, 0x0303), (2, 0x050000)] },
    vec := { queue := [it] }, items := [it] }
theorem witness_vectorStart : (tileAt (vecQueued 0x110) 0).vec.queue ≠ [] ∧ (vecQueued 0x110).firm.held = false ∧
    vecFault (tileAt (vecQueued 0x110) 0).ctx .clean (itemReads (item0 .vector 0x110 0)).1 (itemReads (item0 .vector 0x110 0)).2 = none := by
  decide +kernel
/-- Lanes 0 and 1 wrap modulo 2^8, lane 2 stays. -/
theorem test_vadd_lanes : after (.vectorStart 0 0 .clean) (vecQueued 0x110) (fun t => vReg (tileAt t 0).ctx 2 == 0x050205) = true ∧
    after (.vectorStart 0 0 .clean) (vecQueued 0x111) (fun t => vReg (tileAt t 0).ctx 2 == 0x05FCFF) = true ∧
    after (.vectorStart 0 0 .clean) (vecQueued 0x114) (fun t => vReg (tileAt t 0).ctx 2 == 0x05FD06) = true := by decide +kernel
theorem test_logic_lanes : after (.vectorStart 0 0 .clean) (vecQueued 0x11C) (fun t => vReg (tileAt t 0).ctx 2 == 0x050302) = true ∧
    after (.vectorStart 0 0 .clean) (vecQueued 0x11D) (fun t => vReg (tileAt t 0).ctx 2 == 0x05FF03) = true ∧
    after (.vectorStart 0 0 .clean) (vecQueued 0x11E) (fun t => vReg (tileAt t 0).ctx 2 == 0x05FC01) = true := by decide +kernel
/-- The item holds the datapath for its one cycle and the two that others take, from cycle 100. -/
theorem test_vectorStart_times : after (.vectorStart 0 2 .clean) (vecQueued 0x110)
    (fun t => (tileAt t 0).vec.busy == 3 && (tileAt t 0).vec.bankLoss == 2 && (tileAt t 0).vec.queue == [] && (tileAt t 0).vec.started.length == 1) = true := by
  decide +kernel
def vecStarted (failed : Option (BitVec 8)) : State :=
  let it := { item0 .vector 0x101 0 with due := 120, started := true, failed := failed, writes := [(0, 8, 5), (0, 9, 6)] }
  modTile { up with time := { cycle := 100 } } 0 fun t => { t with loaded := some 0, carried := [0], vec := { started := [it] }, items := [it] }
theorem witness_vectorComplete : nextDone (tileAt (toVectorDone 4096 (vecStarted none) 0) 0).vec.started =
      some { item0 .vector 0x101 0 with due := 120, started := true, writes := [(0, 8, 5), (0, 9, 6)] } ∧
    partWords (vecStarted none) 0 [(0, 8, 5), (0, 9, 6)] = [] := by decide +kernel
theorem test_vectorComplete : after (.vectorComplete 0) (vecStarted none)
    (fun t => t.time.cycle == 120 && (ctxOf t 0).sp == [(8, 5), (9, 6)] && (t.firm.records.map fun r => (r.done, r.number)) == [(true, 3)]) = true := by
  decide +kernel
theorem test_vectorComplete_failed : after (.vectorComplete 0) (vecStarted (some 0x0D))
    (fun t => (t.firm.records.map fun r => (r.done, r.reason)) == [(false, 0x0D)]) = true := by decide +kernel
/-! ### The tile DMA engine (R137, R138) -/

/-- A row of four bytes from address 64 to address 8192 of the own scratchpad, whose page 2 takes seal 1, or no row. -/
def dmaWord (rows : Nat) : BitVec 246 := BitVec.ofNat 246 (rows * 2 ^ 202 + 64 * 2 ^ 144 + 8192 * 2 ^ 80 + 4 * 2 ^ 40 + 1 * 2 ^ 76)
theorem witness_dma : Ready (ready 0x060 (dmaWord 1)) i0 (tileWord 0x060 (dmaWord 1)) ∧
    firstBad (dmaChecks (beforeIssue (ready 0x060 (dmaWord 1)) i0) i0 (dmaWord 1)) = none ∧
    dmaRows (dmaWord 1) 64 8192 = [((64 : Int), (8192 : Int), (4 : Nat))] ∧ dmaRows (dmaWord 0) 64 8192 = [] :=
  ⟨ready_of_check (by decide +kernel), by decide +kernel, by decide +kernel, by decide +kernel⟩
theorem test_dma : after (.dma i0 (dmaWord 1)) (ready 0x060 (dmaWord 1)) (fun t => (tileAt t 0).dmaQ.length == 1 && (f0 t).seq == 1) = true ∧
    after (.dma i0 (dmaWord 0)) (ready 0x060 (dmaWord 0)) (fun t => (tileAt t 0).dmaQ == [] && (t.firm.records.map fun r => r.done) == [true]) = true := by
  decide +kernel
def dmaItem : Item := { item0 .dma 0x060 (dmaWord 1) with scalar := 64, draw := 8192 }
def dmaAt (q r : List Item) : State := modTile up 0 fun t => { t with
  loaded := some 0, carried := [0], ctx := { t.ctx with sp := [(64, 1), (67, 2), (68, 3), (8196, 9)] }, dmaQ := q, dmaRun := r, items := q ++ r }
theorem witness_dmaDescriptorStart : (tileAt (dmaAt [dmaItem] []) 0).dmaQ = [dmaItem] ∧ (tileAt (dmaAt [dmaItem] []) 0).dmaRun.length < 4 ∧
    (dmaAt [dmaItem] []).firm.state ≠ .checkpoint ∧ (dmaAt [dmaItem] []).firm.held = false := by decide +kernel
theorem test_dmaDescriptorStart : after (.dmaDescriptorStart 0) (dmaAt [dmaItem] []) (fun t => (tileAt t 0).dmaQ == [] && (tileAt t 0).dmaRun.length == 1) = true ∧
    after (.dmaDescriptorStart 0) (dmaAt [dmaItem] (List.replicate 4 dmaItem)) (fun t => (tileAt t 0).dmaQ.length == 1) = true := by decide +kernel
theorem witness_dmaComplete : (tileAt (dmaAt [] [dmaItem]) 0).dmaRun.find? (fun i => i.stream == dmaItem.stream && i.seq == dmaItem.seq) = some dmaItem ∧
    fld dmaItem.w 244 242 = 0 ∧ fld dmaItem.w 241 239 = 0 ∧ fld dmaItem.w 236 235 = 0 ∧ dmaItem.failed = none ∧
    (ctxOf (dmaAt [] [dmaItem]) 0).spUe = [] ∧ (dmaAt [] [dmaItem]).firm.draining = none := by decide +kernel
theorem test_dmaComplete : after (.dmaComplete 0 .F 3 .clean) (dmaAt [] [dmaItem])
    (fun t => (ctxOf t 0).sp == [(64, 1), (67, 2), (68, 3), (8192, 1), (8195, 2), (8196, 9)] && (tileAt t 0).dmaRun == [] &&
      (t.firm.records.map fun r => (r.done, r.number)) == [(true, 3)]) = true := by decide +kernel

/-! ### The arrays (R98-R119, R139-R142) -/

/-- One CK8 row by one column of depth `k` into a binary32 element at the start of page 512, or an open chain. -/
def mmaOf (cout : Bool) (k : Nat) : BitVec 246 :=
  BitVec.ofNat 246 (bn cout * 2 ^ 243 + k * 2 ^ 192 + 16 * 2 ^ 160 + 128 * 2 ^ 112 + 160 * 2 ^ 96 +
    (if cout then 0 else 0x20000 * 2 ^ 46 + 1 * 2 ^ 12 + 4 * 2 ^ 8 + 1))
theorem witness_mma : let w := mmaOf true 32; let s := ownF (ready 0x080 w)
    Ready s i0 (tileWord 0x080 w) ∧ firstBad (mmaChecks (beforeIssue s i0) i0 w) = none ∧ (mmaWord w).cout = true ∧ (mmaWord w).k = 32 :=
  ⟨ready_of_check (by decide +kernel), by decide +kernel, by decide +kernel, by decide +kernel⟩
theorem witness_mma_drained : let w := mmaOf false 32; let s := ownF (ready 0x080 w)
    Ready s i0 (tileWord 0x080 w) ∧ firstBad (mmaChecks (beforeIssue s i0) i0 w) = none :=
  ⟨ready_of_check (by decide +kernel), by decide +kernel⟩
theorem test_mma_chain : after (.mma i0 (mmaOf true 32)) (ownF (ready 0x080 (mmaOf true 32)))
    (fun t => (tileAt t 0).items.length == 1 && (f0 t).seq == 1 &&
      (match chainAt t 0 0 with | some c => c.stream == .F && c.afmt == 0 && c.owner == 0 | none => false)) = true := by decide +kernel
theorem test_mma_empty : after (.mma i0 (mmaOf false 0)) (ownF (ready 0x080 (mmaOf false 0)))
    (fun t => (tileAt t 0).items == [] && (t.firm.records.map fun r => r.done) == [true]) = true := by decide +kernel

/-- An array item due in cycle 300, with an output byte to write. -/
def arrayItem (cout : Bool) : Item := { item0 .array 0x080 (mmaOf cout 32) with due := 300, writes := if cout then [] else [(0, 8, 5)] }
def arrayAt (cout : Bool) : State := modTile { up with time := { cycle := 310 } } 0 fun t => { t with
  loaded := some 0, carried := [0], items := [arrayItem cout], ctx := { t.ctx with f := live } }
theorem witness_mmaComplete : findItem (arrayAt true) 0 .F 3 = some (arrayItem true) ∧ findItem (arrayAt false) 0 .F 3 = some (arrayItem false) ∧
    arrayDone (toArrayDone 4096 (arrayAt false) 0 .F 3) 0 (arrayItem false) = some 300 ∧ (mmaWord (arrayItem true).w).cout = true ∧
    (mmaWord (arrayItem false).w).cout = false ∧ isRef (mmaWord (arrayItem false).w) = false ∧ isGang4 (arrayItem false) = false ∧
    openChains (arrayAt false) 0 = [] ∧ partWords (arrayAt false) 0 (arrayItem false).writes = [] := by decide +kernel
theorem test_mmaDrainComplete : after (.mmaDrainComplete 0 .F 3 .sound) (arrayAt false)
    (fun t => (ctxOf t 0).sp == [(8, 5)] && (tileAt t 0).items == [] && (t.firm.records.map fun r => r.done) == [true]) = true := by decide +kernel
theorem test_mmaCoutComplete : after (.mmaCoutComplete 0 .F 3 .sound) (arrayAt true)
    (fun t => (ctxOf t 0).sp == [] && (tileAt t 0).items == [] && (t.firm.records.map fun r => r.done) == [true]) = true := by decide +kernel
/-- A residue mismatch on program array 0 fences it, halts the tile and keeps the item for the firmware. -/
theorem test_mma_residue : after (.mmaDrainComplete 0 .F 3 (.residue 0 0 5 2)) (arrayAt false)
    (fun t => (tileAt t 0).fenced == 1 && (tileAt t 0).halt.reason == 0x0E && t.firm.records == [] && (tileAt t 0).reissue.length == 1) = true := by decide +kernel

/-! ### Faults of a tile (R103, R105, R128, R154, R157, R160) -/

/-- The item of `arrayAt`, whose lane buffer has overflowed in cycle 290. -/
def overflowing : State := modTile (arrayAt false) 0 fun t => { t with arrays := [(0, { full := some (.F, 3, 290) })] }
theorem witness_withyOverflow : (overflowOf overflowing 0 (arrayItem false)).isSome = true ∧ findItem overflowing 0 .F 3 = some (arrayItem false) := by
  decide +kernel
theorem test_withyOverflow : after (.withyOverflow 0 .F 3) overflowing
    (fun t => (tileAt t 0).halt.reason == 0x07 && (tileAt t 0).halt.addr == 64 && (t.firm.records.map fun r => (r.done, r.reason)) == [(false, 0x07)]) = true := by
  decide +kernel
theorem test_drainTimeout : after (.drainTimeout 0 .F 3 ⟨2, 0, 0, 7⟩) (arrayAt false)
    (fun t => (tileAt t 0).halt.reason == 0x08 && (f0 t).run == .halted && (t.firm.records.map fun r => r.reason) == [0x08]) = true := by decide +kernel
/-- A wait of 7 cycles under a watchdog of 9. -/
def watched : State := modTile waiting 0 fun t => { t with
  watchdog := 9, ctx := { t.ctx with f := { live with wait := some ⟨.sync, 2, 3, 9, 0, 7⟩ } } }
theorem witness_streamWatchdog : (strm watched 0 .F).wait = some ⟨.sync, 2, 3, 9, 0, 7⟩ ∧ (tileAt watched 0).watchdog ≠ 0 ∧ watched.firm.state = .running ∧
    watched.firm.held = false ∧ (strm watched 0 .F).run = .active ∧ (tileAt watched 0).loaded.isSome = true := by decide +kernel
theorem test_streamWatchdog : after (.streamWatchdog 0 .F) watched
    (fun t => (tileAt t 0).halt.reason == 0x0F && t.time.cycle == watched.time.cycle + 3 && t.firm.state == .faulted) = true := by decide +kernel
theorem witness_illegalOpcode : Ready (ready 0x005 0) ⟨0, .F, 0⟩ (tileWord 0x005 0) ∧ opcodeAssigned (wordOpcode (tileWord 0x005 0)) = false :=
  ⟨ready_of_check (by decide +kernel), by decide +kernel⟩
theorem test_illegalOpcode : after (.illegalOpcode i0 (tileWord 0x005 0)) (ready 0x005 0)
    (fun t => (tileAt t 0).halt.reason == 0x01 && (tileAt t 0).halt.detail == 0x005 && t.firm.state == .faulted) = true := by decide +kernel
def fencedTile : State := modTile up 0 fun t => { t with
  loaded := some 0, carried := [0], ctx := { t.ctx with f := { run := .halted } }, fenced := 1, reissue := [{ arrayItem false with failed := some 0x0E }] }
theorem witness_fencedReissue : (tileAt fencedTile 0).reissue ≠ [] ∧ (tileAt fencedTile 0).items = [] ∧ fencedTile.firm.state = .running ∧
    ∀ it ∈ (tileAt fencedTile 0).reissue, reissuable fencedTile 0 it = true := by decide +kernel
theorem test_fencedReissue : after (.fencedReissue 0) fencedTile
    (fun t => (tileAt t 0).fencedMode && (tileAt t 0).reissue == [] && (f0 t).run == .active && t.firm.records.length == 1) = true := by decide +kernel

/-! ### Contexts and fetch (R30-R33, R124) -/

/-- Tile 0 carries program tiles 0 and 1 of two; the loaded one has ended. -/
def carrying : State := modTile { up with prog := some { p := 2 }, saved := [(1, { f := { live with pc := 96 } })] } 0 fun t => { t with
  loaded := some 0, carried := [0, 1], ctx := { f := { run := .ended }, b := { run := .ended }, u := { run := .ended } } }
theorem witness_contextSwitch : groupSwitchable carrying 0 1 = true ∧ gangCluster carrying (ptileOf carrying 0) = false ∧ gangCluster carrying 1 = false ∧
    nextContext carrying 0 = some 1 ∧ (tileAt carrying 0).loaded = some 0 ∧ saveSlots carrying * saveSlot ≤ hbmSize ∧ carrying.slots = [] := by decide +kernel
/-- A line of HBM arrives in the buffer of stream F. -/
theorem witness_fetchLineArrival : (tileAt up 0).loaded.isSome = false ∧ (tileAt waiting 0).loaded.isSome = true ∧ codeAddr waiting 64 = true ∧
    (∀ l ∈ (tileAt waiting 0).ibuf, ¬ (l.stream = .F ∧ l.line = 1)) ∧ heldLines waiting [(64, 64)] [] = [] := by decide +kernel
theorem test_fetchLineArrival : after (.fetchLineArrival 0 .F 1) { waiting with mem := { waiting.mem with dev := [(64, 7), (127, 1)] } }
    (fun t => (lineOf t 0 .F 64).map (fun l => (l.data, l.bad)) == some (BitVec.ofNat 512 (7 + 2 ^ 504), false)) = true := by decide +kernel
/-! ### Collective engines (R326-R339) -/

/-- Two blocks or units from 0x10000 to 0x20000 on channel 0 of the x axis, with scales at 0x30000 where the operation has them. -/
def ceOf (op count : Nat) : BitVec 246 :=
  BitVec.ofNat 246 (count * 2 ^ 193 + 0x10000 * 2 ^ 144 + 0x20000 * 2 ^ 80 + (if op < 0x202 then 0x30000 * 2 ^ 16 else 0))
/-- Module 0 of a ring of two, whose channel 0 has one circuit toward the other, with these items and received blocks. -/
def ringed (s : State) (items : List CeItem) (rx : List Hop) : State :=
  let s := pair s 0
  { s with
    ces := [(0, { chans := [(0, { bound := true, n := 2, pos := 0, plus := [⟨0, 0⟩], minus := [⟨0, 1⟩], items := items, rx := rx })] })],
    fab := { s.fab with circuits := [({ handle := ⟨0, 0⟩, source := true, slice := 1, dst := 1, hops := [0], isOpen := true, tag := 5 } : Circuit)] } }
def ceReady (op count : Nat) : State := ringed (ready op (ceOf op count)) [] []
theorem witness_collectives : ([0x200, 0x201, 0x202, 0x203].all fun op => let s := ceReady op 2
    readyB s i0 (tileWord op (ceOf op 2)) && (firstBad (ceChecks op (beforeIssue s i0) i0 (ceOf op 2))).isNone) = true := by decide +kernel
theorem test_crs : after (.crs i0 (ceOf 0x200 2)) (ceReady 0x200 2)
    (fun t => (chanAt t 0 0).items.length == 1 && (chanAt t 0 0).next == 1 && (f0 t).nutElem == 64) = true := by decide +kernel
theorem test_cxch_empty : after (.cxch i0 (ceOf 0x203 0)) (ceReady 0x203 0)
    (fun t => (chanAt t 0 0).items == [] && (t.firm.records.map fun r => r.done) == [true]) = true := by decide +kernel

def ceItem (started : Bool) (fire : Option Word) : CeItem :=
  { tile := 0, ptile := 0, number := 0, item := item0 .collective 0x203 (ceOf 0x203 2), fire := fire, started := started }
theorem witness_collectiveItemStart : let s := ringed up [ceItem false none] []
    (chanAt s 0 0).items.find? (fun i => !i.started) = some (ceItem false none) ∧ s.firm.state ≠ .checkpoint ∧ s.firm.held = false ∧
      (∀ x ∈ (chanAt s 0 0).items, x.started = true → ceSent s 0 0 x = true) ∧ heldLines s [(0x10000, 128)] [(0x20000, 128)] = [] ∧
      (handlesOf (chanAt s 0 0) false).Nodup ∧ (circuitAt s ⟨0, 0⟩).isSome = true := by decide +kernel
/-- The two units are put into two codewords of the circuit. -/
theorem test_collectiveItemStart : after (.collectiveItemStart 0 0) (ringed up [ceItem false none] [])
    (fun t => (circuitAt t ⟨0, 0⟩).map (fun c => c.staged.length) == some 2 && (chanAt t 0 0).items.all (·.started)) = true := by decide +kernel
/-- Its predecessor has not sent its last byte when its epoch, 0, has come. -/
theorem witness_collective_late : let s := ringed up [ceItem true none, { ceItem false (some 0) with number := 1 }] []
    (∃ x ∈ (chanAt s 0 0).items, x.started = true ∧ ceSent s 0 0 x = false) ∧ s.firm.draining = none ∧
      (chanAt s 0 0).items.find? (fun i => !i.started) = some { ceItem false (some 0) with number := 1 } := by decide +kernel
theorem test_collective_late : after (.collectiveItemStart 0 0) (ringed up [ceItem true none, { ceItem false (some 0) with number := 1 }] [])
    (fun t => (t.firm.records.map fun r => (r.kind, r.done, r.reason, r.number)) == [(2, false, 0x03, 1)] && (chanAt t 0 0).items.length == 1) = true := by
  decide +kernel
def rawHop : Hop := ⟨.raw, false, 1, 0, 0, none, 0x0201, 0, 0⟩
theorem witness_collectiveHop : let s := ringed up [ceItem true none] [rawHop]
    nextHop s 0 0 = some (rawHop, ceItem true none) ∧ hopInRange (chanAt s 0 0) (ceItem true none) rawHop = true ∧
      regionAt s 0x20000 = .hbm ∧ s.mem.poison = [] ∧ s.mem.ue = [] ∧ s.mem.retired = [] := by decide +kernel
theorem test_collectiveHop : after (.collectiveHop 0 0) (ringed up [ceItem true none] [rawHop])
    (fun t => t.mem.dev == [(0x20000, 1), (0x20001, 2)] && (chanAt t 0 0).rx == []) = true := by decide +kernel
/-- A partial block that passes the middle of a ring of three: segment 2 at position 1. -/
def passing : State :=
  let s := ringed up [{ ceItem true none with item := item0 .collective 0x200 (ceOf 0x200 6) }] [⟨.reduce, false, 2, 0, 0, none, 0, 0, 0⟩]
  { s with ces := s.ces.map fun e => (e.1, { e.2 with chans := e.2.chans.map fun c => (c.1, { c.2 with n := 3, pos := 1 }) }) }
theorem witness_collectiveReduce : (nextHop passing 0 0).isSome = true ∧ ringNext 3 2 false ≠ 1 ∧
    hopInRange (chanAt passing 0 0) { ceItem true none with item := item0 .collective 0x200 (ceOf 0x200 6) } ⟨.reduce, false, 2, 0, 0, none, 0, 0, 0⟩ = true := by
  decide +kernel
def sentItem : CeItem := { ceItem true none with sent := 2, written := 2 }
theorem witness_collectiveItemComplete : (chanAt (ringed up [sentItem] []) 0 0).items.find? (ceFinished (ringed up [sentItem] []) 0 0) = some sentItem := by
  decide +kernel
theorem test_collectiveItemComplete : after (.collectiveItemComplete 0 0) (ringed up [sentItem] [])
    (fun t => (t.firm.records.map fun r => (r.kind, r.done)) == [(2, true)] && (chanAt t 0 0).items == []) = true := by decide +kernel
theorem witness_collectiveTimeout : (chanAt (ringed up [ceItem true none] []) 0 0).items.find?
    (fun i => i.started && !ceWritten (ringed up [ceItem true none] []) 0 0 i) = some (ceItem true none) := by decide +kernel
theorem test_collectiveTimeout : after (.collectiveTimeout 0 0) (ringed up [ceItem true none] [])
    (fun t => (t.firm.records.map fun r => (r.kind, r.done, r.reason)) == [(2, false, 0x0F)] && (chanAt t 0 0).items == []) = true := by decide +kernel

/-! ### The router (R284-R295, R340) -/

/-- `FPUT` of `n` bytes at 0x1000 to address 0x2000 of a node; `FGET` the other way; `FSIG` of die counter 3. -/
def fputOf (node n : Nat) : BitVec 246 := BitVec.ofNat 246 (n * 2 ^ 193 + 0x1000 * 2 ^ 144 + node * 2 ^ 112 + 0x2000 / 8 * 2 ^ 67)
def fgetOf (node n : Nat) : BitVec 246 := BitVec.ofNat 246 (n * 2 ^ 193 + node * 2 ^ 176 + 0x2000 / 8 * 2 ^ 131 + 0x1000 * 2 ^ 80)
def fsigOf (node : Nat) : BitVec 246 := BitVec.ofNat 246 (2 * 2 ^ 221 + 3 * 2 ^ 215 + 4 * 2 ^ 199 + node * 2 ^ 112)
def fabReady (op : Nat) (w : BitVec 246) : State := pair (ready op w) 0
theorem witness_fabric : ([(0x210, fputOf 1 520), (0x211, fgetOf 1 65536), (0x212, fsigOf 1)].all fun e => let s := fabReady e.1 e.2
    readyB s i0 (tileWord e.1 e.2) && (firstBad (fabChecks e.1 (beforeIssue s i0) i0 e.2)).isNone && inSlice s.fab.extent (ownSlice s) (fabNode e.1 e.2) &&
      fabTotal (BitVec.ofNat 10 e.1) e.2 != 0) = true := by decide +kernel
/-- 520 bytes make two packets. -/
theorem test_fput : after (.fput i0 (fputOf 1 520)) (fabReady 0x210 (fputOf 1 520))
    (fun t => ((rd [] t.fab.inject 1).map fun p => (hType p.header, hDst p.header, hSeq p.header, hLen p.header)) == [(1, 1, 0, 64), (1, 1, 1, 1)] &&
      (orderAt t 1).send == 2 && t.fab.items.length == 1) = true := by decide +kernel
/-- A slice of the module alone: node 1 lies outside. -/
def alone (s : State) : State := { s with fab := { s.fab with slices := [⟨1, [0, 0, 0, 0], [1, 1, 1, 1]⟩] } }
theorem test_fput_outside : after (.fput i0 (fputOf 1 520)) (alone (fabReady 0x210 (fputOf 1 520)))
    (fun t => (t.firm.records.map fun r => (r.done, r.reason)) == [(false, 0x03)] && t.fab.inject == []) = true := by decide +kernel
theorem test_fget_empty : after (.fget i0 (fgetOf 1 0)) (fabReady 0x211 (fgetOf 1 0)) (fun t => (t.firm.records.map fun r => r.done) == [true]) = true := by
  decide +kernel
theorem test_fsig : after (.fsig i0 (fsigOf 1)) (fabReady 0x212 (fsigOf 1)) (fun t => ((rd [] t.fab.inject 1).map fun p => hType p.header) == [2]) = true := by
  decide +kernel

/-- A packet of node 1 that has been accepted at node 0. -/
def packet (type len arg : Nat) (payload : BitVec 4096) : FabPacket := ⟨mkHeader 0 1 0 1 type false len arg, payload⟩
def arrivedAt (p : FabPacket) : State := let s := pair up 0; { s with fab := { s.fab with arrived := [p] } }
theorem witness_packets : behind (arrivedAt (packet 1 1 0x200 7)) (packet 1 1 0x200 7) = false ∧ hType (packet 1 1 0x200 7).header = 1 ∧
    heldLines (arrivedAt (packet 1 1 0x200 7)) [] [(0x1000, 8)] = [] ∧ packetRange (arrivedAt (packet 1 1 0x200 7)) 0x1000 8 = true ∧
    regionAt (arrivedAt (packet 1 1 0x200 7)) 0x1000 = .hbm := by decide +kernel
theorem test_packetWrite : after (.packetWrite (packet 1 1 0x200 7)) (arrivedAt (packet 1 1 0x200 7))
    (fun t => t.mem.dev == [(0x1000, 7)] && t.fab.arrived == []) = true := by decide +kernel
/-- An address beyond the address space bounces with reason 3. -/
theorem test_packetWrite_bounces : after (.packetWrite (packet 1 1 (2 ^ 45 - 1) 7)) (arrivedAt (packet 1 1 (2 ^ 45 - 1) 7))
    (fun t => t.mem.dev == [] && ((rd [] t.fab.inject 0).map fun b => (hType b.header, hDst b.header, hArg b.header % 256)) == [(7, 1, 3)]) = true := by decide +kernel
/-- Die counter 3 counts 4. -/
def sigArg : Nat := 2 * 2 ^ 35 + 3 * 2 ^ 29 + 4 * 2 ^ 13
theorem test_packetSignal : after (.packetSignal (packet 2 0 sigArg 0)) (arrivedAt (packet 2 0 sigArg 0)) (fun t => ctrVal t 2 0 3 == 4) = true := by
  decide +kernel
/-- A `READ` of 16 bytes at 0x1000. -/
theorem test_packetRead : after (.packetRead (packet 3 2 0x200 (BitVec.ofNat 4096 (16 * 2 ^ 64)))) (arrivedAt (packet 3 2 0x200 (BitVec.ofNat 4096 (16 * 2 ^ 64))))
    (fun t => ((rd [] t.fab.inject 2).map fun b => (hType b.header, hDst b.header, hLen b.header)) == [(4, 1, 2)] && (orderAt t 1).send == 1) = true := by
  decide +kernel
theorem test_packetMessage : after (.packetMessage (packet 5 0 9 7)) (arrivedAt (packet 5 0 9 7)) (fun t => t.fab.messages == [(9, 7)]) = true := by decide +kernel
theorem test_packetReservedType : after (.packetReservedType (packet 8 0 0 0)) (arrivedAt (packet 8 0 0 0)) (fun t => t.fab.proto.count == 1) = true := by
  decide +kernel
def fabItem (op : BitVec 10) (w : BitVec 246) (waiting : List (BitVec 24)) : FabItem :=
  { tile := 0, ptile := 0, item := item0 .fabric op w, dst := 1, queued := 1, waiting := waiting, seqs := [0] }
def sending (p : FabPacket) (it : FabItem) : State :=
  let s := arrivedAt p
  { s with fab := { s.fab with items := [(0, it)], nextItem := 1, order := [(1, { send := 1 })] } }
theorem witness_packetAck : let it := fabItem 0x210 (fputOf 1 8) [0]; let s := sending (packet 6 0 1 0) it
    s.fab.items = [(0, it)] ∧ s.fab.serving = [] ∧ it.dst = hSrc (packet 6 0 1 0).header ∧ it.queued = fabTotal it.item.op it.item.w ∧
      (it.waiting.all fun q => precedes 24 q.toNat (hArg (packet 6 0 1 0).header % 2 ^ 24)) = true :=
  ⟨rfl, rfl, by decide +kernel, by decide +kernel, by decide +kernel⟩
theorem test_packetAck : after (.packetAck (packet 6 0 1 0)) (sending (packet 6 0 1 0) (fabItem 0x210 (fputOf 1 8) [0]))
    (fun t => t.fab.items == [] && (orderAt t 1).acked == 1 && (t.firm.records.map fun r => (r.done, r.number)) == [(true, 3)]) = true := by decide +kernel
/-- Read data of 8 bytes of 16 reaches 0x1000, and the item goes on. -/
theorem test_packetReadData : after (.packetReadData (packet 4 1 0x200 5)) (sending (packet 4 1 0x200 5) (fabItem 0x211 (fgetOf 1 16) []))
    (fun t => t.mem.dev == [(0x1000, 5)] && (t.fab.items.map fun x => x.2.got) == [8]) = true := by decide +kernel
/-- A bounce of seq 0 to node 1 with reason 0x0B. -/
def bounced : FabPacket := packet 7 2 0x0B ((mkHeader 1 0 0 1 1 false 1 0).setWidth 4096)
theorem test_packetBounce : after (.packetBounce bounced) (sending bounced (fabItem 0x210 (fputOf 1 8) [0]))
    (fun t => t.fab.items == [] && (t.firm.records.map fun r => (r.done, r.reason)) == [(false, 0x0B)]) = true := by decide +kernel
/-- 32 packets are accepted and none of the source waits for its effect. -/
def owing : State := let s := pair up 0; { s with fab := { s.fab with order := [(1, { e := 32, accepted := 32 })] } }
theorem witness_ackSend : (orderAt owing 1).e ≠ (orderAt owing 1).ackSent ∧ 32 ≤ (orderAt owing 1).accepted ∧ owing.fab.arrived = [] := by decide +kernel
theorem test_ackSend : after (.ackSend 1) owing
    (fun t => ((rd [] t.fab.inject 0).map fun b => (hType b.header, hDst b.header, hArg b.header)) == [(6, 1, 32)] && (orderAt t 1).ackSent == 32) = true := by
  decide +kernel
theorem test_fabAckTimeout : after (.fabAckTimeout 0) (sending bounced (fabItem 0x210 (fputOf 1 8) [0]))
    (fun t => t.fab.items == [] && (t.firm.records.map fun r => (r.done, r.reason)) == [(false, 0x0F)]) = true := by decide +kernel

/-- A packet for node 1 waits in the injection queue of the instructions. -/
def injecting : State := let s := pair up 0; { s with fab := { s.fab with inject := [(1, [⟨mkHeader 1 0 0 1 1 false 1 0, 7⟩])], turn := 1 } }
theorem witness_routingCycle : (bestOut injecting (mkHeader 1 0 0 1 1 false 1 0) ((List.range 32).filter (outOk injecting)) true).isSome = true ∧
    deadTo injecting (mkHeader 1 0 0 1 1 false 1 0) = false ∧ (∀ q < 3, rd [] injecting.fab.inject q = if q = injecting.fab.turn then
      [⟨mkHeader 1 0 0 1 1 false 1 0, 7⟩] else []) ∧ (∀ o < 32, (strandAt injecting o).inbuf = []) := by decide +kernel
theorem test_routingCycle : after (.routingCycle 0) injecting
    (fun t => rd [] t.fab.inject 1 == [] && t.fab.injected == 1 && (match t.out with | .container _ c :: _ => hDst c.header == 1 | _ => false)) = true := by
  decide +kernel
theorem witness_replayTimeout : let s := modStrand { pair up 0 with time := { fec := 140 * 64 } } 0 fun x => { x with replay := [⟨0, 1, ⟨0, 0, 0⟩, false⟩] }
    (∃ r ∈ (strandAt s 0).replay, r.frame + 64 ≤ frameNo s) ∧ eFailed (strandAt s 0).entry = false := by decide +kernel
theorem test_replayTimeout : after (.replayPendingTimeout ⟨0, 0⟩)
    (modStrand { pair up 0 with time := { fec := 140 * 64 } } 0 fun x => { x with replay := [⟨0, 1, ⟨0, 0, 0⟩, false⟩] })
    (fun t => eFailed (strandAt t 0).entry && (strandAt t 0).replay == [] && t.fab.reroute.length == 1) = true := by decide +kernel
theorem test_nakRepeat : after (.nakRepeat ⟨0, 0⟩) (modStrand { pair up 0 with time := { fec := 560 } } 0 fun x => { x with rxHigh := 2, taken := [2] })
    (fun t => (strandAt t 0).toName == [1]) = true := by decide +kernel
/-! ### Links (R273-R282, R302-R304) -/

theorem test_reservedControlSymbol : after (.reservedControlSymbol 0 7) (pair up 0) (fun t => t.fab.proto.count == 1) = true := by decide +kernel
theorem test_unassignedQtype : qAssigned 0xFF = false ∧
    after (.unassignedQtype 0 (some 1) 0xFF) (pair up 0) (fun t => t.fab.proto.count == 1 && t.out == [.linkCredit 0 1 1]) = true := by decide +kernel
/-- A port holds at most two credits of a channel. -/
theorem test_linkCredit : after (.linkCredit 0 1 3) (modPort (pair up 0) 0 fun p => { p with credits := [(0, 2), (1, 1)] })
    (fun t => rd 0 (portAt t 0).credits 1 == 2 && rd 0 (portAt t 0).credits 0 == 2) = true := by decide +kernel
/-- A table entry that differs for the third time in a row takes the strand to mode 0. -/
def differing (n : Nat) : State := modStrand (pair up 0) 0 fun x => { x with differ := n }
theorem witness_linkTable : (strandAt (differing 2) 0).change = none ∧ (strandAt (differing 2) 0).entry ≠ 0 ∧ (strandAt (differing 2) 0).out = none ∧
    (strandAt (differing 2) 0).inn = none := by decide +kernel
theorem test_linkTable : after (.linkTable ⟨0, 0⟩ 0) (differing 1) (fun t => (strandAt t 0).differ == 2 && eMode (strandAt t 0).entry == 1) = true ∧
    after (.linkTable ⟨0, 0⟩ 0) (differing 2) (fun t => eMode (strandAt t 0).entry == 0) = true ∧
    after (.linkTable ⟨0, 0⟩ (mkEntry 1 1 false)) (differing 2) (fun t => (strandAt t 0).differ == 0) = true := by decide +kernel
theorem test_linkTableTimer : after (.linkTableTimer ⟨0, 1⟩) (pair up 0) (fun t => t.out == [.linkTable ⟨0, 1⟩ (mkEntry 1 1 false)]) = true := by decide +kernel
theorem test_linkModeChange : after (.linkModeChange ⟨0, 0⟩ (mkEntry 2 1 false) 50) (pair up 0)
    (fun t => (strandAt t 0).change == some ⟨mkEntry 2 1 false, 50, false, true, none⟩ && t.out == [.linkMode ⟨0, 0⟩ (mkEntry 2 1 false) 50]) = true := by
  decide +kernel
/-- A change to mode 2 from frame 50 on, in this frame. -/
def changing (confirmed : Bool) (fr : Nat) : State :=
  modStrand { pair up 0 with time := { fec := BitVec.ofNat 64 (140 * fr) } } 0 fun x => { x with change := some ⟨mkEntry 2 1 false, 50, true, confirmed, none⟩ }
theorem witness_modeChange : frameReached (changing true 54) (50 + 4) = true ∧ frameReached (changing true 53) (50 + 4) = false ∧
    frameReached (changing false 46) (50 - 4) = true ∧ frameReached (changing false 45) (50 - 4) = false := by decide +kernel
theorem test_modeChange_confirmed : after (.linkModeChange ⟨0, 0⟩ (mkEntry 2 1 false) 50) (changing false 45)
    (fun t => ((strandAt t 0).change.map fun c => c.confirmed) == some true && t.out == []) = true := by decide +kernel
theorem test_modeChangeFrame : after (.modeChangeFrame ⟨0, 0⟩) (changing true 54) (fun t => eMode (strandAt t 0).entry == 2 && (strandAt t 0).change == none) = true ∧
    after (.modeChangeFrame ⟨0, 0⟩) (changing true 53) (fun t => eMode (strandAt t 0).entry == 1) = true := by decide +kernel
theorem test_modeChangeAbandon : after (.modeChangeAbandon ⟨0, 0⟩) (changing false 46) (fun t => (strandAt t 0).change == none && eMode (strandAt t 0).entry == 1) = true := by
  decide +kernel
theorem test_linkSpare : after (.linkSpareRequest 0 9) (pair up 0) (fun t => (portAt t 0).txSpared == 9 && t.out.length == 1) = true ∧
    after (.linkSpareSwitch 0 9 77) (pair up 0) (fun t => (portAt t 0).rxSpared == 9 && (portAt t 0).rxFrom == 77) = true := by decide +kernel
theorem test_laneFaults : after (.laneLossOfLock 0 15) (pair up 0) (fun t => t.out == [.spareRequest 0 15]) = true ∧
    after (.laneErrorRate 0 0) (pair up 0) (fun t => t.out == [.spareRequest 0 0] && (portAt t 0).rxAsked == 0) = true := by decide +kernel
theorem test_linkStrandFailed : after (.linkStrandFailed ⟨0, 0⟩) (pair up 0) (fun t => eFailed (strandAt t 0).entry && !eFailed (strandAt t 1).entry) = true := by
  decide +kernel
theorem witness_fabricLinkDown : portUp (pair up 0) 0 = true ∧ (∃ j ∈ strandsOf 0, eFailed (strandAt (pair up 0) j).entry = false) ∧
    ∀ j ∈ strandsOf 0, (strandAt (pair up 0) j).out = none ∧ (strandAt (pair up 0) j).inn = none := by decide +kernel
theorem test_fabricLinkDown : after (.fabricLinkDown 0 false) (pair up 0)
    (fun t => !portUp t 0 && portUp t 1 && (strandsOf 0).all fun j => eFailed (strandAt t j).entry) = true := by decide +kernel

/-! ### Messages between modules (R27, R274-R277, R302, R408) -/

/-- Node 0 of four on the x axis, to which a message for node 1 comes over the - port. -/
def line4 : State := let s := pair up 0; { s with fab := { s.fab with extent := ⟨4, 1, 1, 1⟩, slices := [⟨1, [0, 0, 0, 0], [4, 1, 1, 1]⟩] } }
def msg1 : QMsg := ⟨1, 3, 0x01, 1, 0, [1, 2]⟩
theorem witness_qMessageForward : hopListType msg1.qtype = false ∧ (qHop line4.fab.extent 0 1 (some (0, 0))).map (·.1) = some 0 ∧
    (match qHop line4.fab.extent 0 1 (some (0, 0)) with | some (p, v) => rd 0 (portAt line4 p).credits v | none => 0) ≠ 0 := by decide +kernel
theorem test_qMessageForward : after (.qMessageForward 1 0 msg1) line4
    (fun t => (match t.out with | [.qfrag 0 _ m, .linkCredit 1 0 1] => m == msg1 | _ => false) && (portAt t 0).qSent == 2) = true := by decide +kernel
theorem test_qMessage_waits : after (.qMessageForward 1 0 msg1) (modPort line4 0 fun p => { p with credits := [] })
    (fun t => t.out == [] && t.fab.qWait.length == 1) = true := by decide +kernel
def genOf (st : GenState) : Gen := { state := st }
theorem witness_genState : let s := { pair up 1 with hamper := { gens := [(4, genOf .local_)] } }
    fwRuns s = true ∧ genAt s 4 = some (genOf .local_) ∧ (genOf .local_).state ≠ genOfCode 1 ∨ (genOf .local_).state ≠ genOfCode 3 := by decide +kernel
def gather0 (forward : Bool) : Gather :=
  { opcode := 0x0001, p := { packet0 with path := 0 }, forward := forward, exec := true, replied := false, answers := [(0, unitPath line4 0 0, none)] }
theorem test_eventMsg : isAnchor (pair up 0) = true ∧ after (.eventMsg ⟨0, 0⟩ 1 1 ⟨0x09, 1, 5, 0⟩) (pair up 0)
    (fun t => t.out.any fun o => match o with | .mctpEvent _ e => e.code == 0x09 && e.detail == 5 | _ => false) = true := by decide +kernel
theorem witness_quench : precedes 16 (pair up 0).fab.quench.number.toNat 1 = true ∧ (pair up 0).fab.own = 1 ∧ (pair up 0).firm.draining = none := by decide +kernel
theorem test_quenchMsg : after (.quenchMsg 0 ⟨1, 1, 1, 0, false, 0⟩) (pair up 0) (fun t => t.fab.quench.on && t.fab.quench.number == 1) = true ∧
    after (.quenchMsg 0 ⟨2, 1, 1, 0, false, 0⟩) (pair up 0) (fun t => !t.fab.quench.on) = true := by decide +kernel
theorem test_unquenchMsg : after (.unquenchMsg 0 1 4) { pair up 0 with fab := { (pair up 0).fab with quench := { on := true, number := 4 } } }
    (fun t => !t.fab.quench.on && t.fab.quench.number == 4) = true := by decide +kernel

/-! ### Circuits (R296-R301) -/

/-- A setup from node 1 that ends here, and one that goes on over strand 4 to another node. -/
def ending : PathMsg := ⟨1, 0, 1, 9, [0], 1, 0⟩
def goingOn : PathMsg := ⟨3, 1, 1, 9, [0, 0], 1, 0⟩
theorem witness_circuitSetup : pathOk ending = true ∧ ending.dst = (pair up 0).fab.node ∧ (sliceNo (pair up 0) 1).isSome = true ∧ inCause (pair up 0) 1 4 = 0 ∧
    pathOk goingOn = true ∧ outCause (pair up 0) 1 0 = 0 := by decide +kernel
theorem test_circuitSetup_ends : after (.circuitSetup ⟨1, 0⟩ ending) (pair up 0)
    (fun t => (strandAt t 4).inn == some (resvOf ending) && (t.fab.circuits.map fun c => (c.source, c.isOpen, c.tag)) == [(false, true, 9)]) = true := by
  decide +kernel
/-- Strand 0 carried packets: it changes to mode 2 before the setup goes on. -/
theorem test_circuitSetup_goes_on : after (.circuitSetup ⟨1, 0⟩ goingOn) (pair up 0)
    (fun t => (strandAt t 4).inn == some (resvOf goingOn) && (strandAt t 0).out == some (resvOf goingOn) &&
      ((strandAt t 0).change.map fun c => (eMode c.entry, c.initiator, c.next)) == some (2, true, some (0x04, goingOn))) = true := by decide +kernel
/-- A circuit of this module that is being opened for an accepted command. -/
def openCmd : PendCmd := ⟨0x0401, { packet0 with tag := 9 }⟩
def openingEnd : Circuit := { handle := ⟨0, 0⟩, source := true, slice := 1, dst := 1, hops := [0], isOpen := false, tag := 9 }
def opening : State := let s := pair up 0; { s with fab := { s.fab with circuits := [openingEnd] }, firm := { s.firm with accepted := [openCmd] } }
theorem witness_circuitReady : acceptedTag opening 0x0401 9 = some openCmd ∧ (opening.fab.circuits.find? fun c => c.source && !c.isOpen && c.tag = 9).isSome = true ∧
    openCmd.p.route ≠ .fabric opening.fab.node := by decide +kernel
theorem test_circuitReady : after (.circuitReady ⟨0, 0⟩ 9) opening
    (fun t => (circuitAt t ⟨0, 0⟩).map (·.isOpen) == some true && t.firm.accepted == [] && (t.firm.records.map fun r => (r.kind, r.done, r.who)) == [(4, true, 9)]) = true := by
  decide +kernel
theorem test_circuitFail : after (.circuitFail ⟨0, 0⟩ 9 1 2) opening
    (fun t => (circuitAt t ⟨0, 0⟩).isNone && t.firm.accepted.isEmpty && (t.firm.records.map fun r => r.reason) == [0x04]) = true := by decide +kernel
theorem test_circuitSetupTimeout : after (.circuitSetupTimeout 9) opening
    (fun t => (circuitAt t ⟨0, 0⟩).isNone && t.firm.accepted.isEmpty && (t.firm.records.map fun r => r.reason) == [0x04]) = true := by decide +kernel
/-- The circuit passes from strand 4 to strand 0. -/
def crossing : State := modStrand (modStrand (pair up 0) 4 fun x => { x with inn := some (resvOf goingOn), entry := mkEntry 2 1 false }) 0 fun x =>
  { x with out := some (resvOf goingOn), entry := mkEntry 2 1 false }
theorem witness_crossing : (strandAt crossing 4).inn = some (resvOf goingOn) ∧ outOf crossing (handleOf goingOn) = some 0 ∧ goingOn.src ≠ crossing.fab.node := by
  decide +kernel
theorem test_circuitRelease : after (.circuitRelease ⟨1, 0⟩ goingOn) crossing
    (fun t => outOf t (handleOf goingOn) == none && innOf t (handleOf goingOn) == none) = true := by decide +kernel
theorem test_circuitCodeword_passes : after (.circuitCodeword ⟨1, 0⟩ [7]) crossing
    (fun t => match t.out with | [.circuit ⟨0, 0⟩ cw] => cw.length == 2048 && cw.head? == some 7 | _ => false) = true := by decide +kernel
/-- A circuit's source with two unacknowledged codewords, under a quench, and its destination at the other module. -/
def sourceEnd : Circuit :=
  { handle := ⟨0, 0⟩, source := true, slice := 1, dst := 1, hops := [0], isOpen := true, tag := 9, cseqTx := 2, sent := 2, staged := [⟨0, 1, 0, 0, 0, [1]⟩, ⟨1, 1, 0, 0, 0, [2]⟩] }
def carryingData : State := let s := pair up 0; { s with fab := { s.fab with quench := { on := true }, circuits := [sourceEnd] } }
theorem witness_circuitAck : (circuitAt carryingData ⟨0, 0⟩).isSome = true ∧ precedes 32 (0xFFFFFFFF : BitVec 32).toNat 0 = true := by decide +kernel
theorem test_circuitAck : after (.circuitAck ⟨0, 0⟩ ⟨0, 0⟩ 0 none) carryingData
    (fun t => (circuitAt t ⟨0, 0⟩).map (fun c => (c.cseqAck, c.staged.length)) == some (0, 1)) = true := by decide +kernel
def sinkEnd (missing : Bool) : Circuit :=
  { handle := ⟨0, 0⟩, source := false, slice := 1, dst := 1, hops := [], isOpen := true, tag := 9, cseqRx := 3, missing := missing }
def receiving (missing : Bool) : State := let s := pair up 1; { s with fab := { s.fab with circuits := [sinkEnd missing] } }
theorem test_circuitAckTimer : after (.circuitAckTimer ⟨0, 0⟩) (receiving false) (fun t => t.out.length == 1) = true ∧
    after (.circuitNakRepeat ⟨0, 0⟩) (receiving true) (fun t => t.out.length == 1) = true := by decide +kernel
theorem test_circuitBroken : after (.circuitBroken ⟨0, 0⟩ ⟨0, 0⟩) (receiving false) (fun t => circuitAt t ⟨0, 0⟩ == none) = true := by decide +kernel
/-- The strand of a transit for slice 5 was in no slice. -/
theorem test_transitSet : after (.transitSet ⟨1, 0⟩ ⟨1, 0, 5, 9, [0], 1, 0⟩) (modStrand (pair up 0) 4 fun x => { x with entry := 0 })
    (fun t => eMode (strandAt t 4).entry == 3 && eSlice (strandAt t 4).entry == 5) = true := by decide +kernel
/-! ### Discovery (R3, R8, R305, R306) -/

/-- A module in start-up phase 8, its x ports trained. -/
def placing (disc : BitVec 8) : State :=
  { State.reset with
    phys := { mainOn := true }, firm := { state := .linkup, phase := 7 }, time := { fec := 140 },
    fab := { lowest := 1, discPhase := disc, ports := [(0, { state := 3 }), (1, { state := 3 })] } }
def helloOf (port : BitVec 8) (lowest : Word) : HelloSym := ⟨5, port, 1, 0, lowest, 0⟩
theorem witness_hello : hears (placing 0) 0 = true ∧ farEnd 0 = 1 ∧ (placing 0).fab.discPhase = 0 ∧ inPhase (placing 0) 8 = true := by decide +kernel
theorem test_hello : after (.hello 0 (helloOf 1 0)) (placing 0) (fun t => (portAt t 0).farPort == some 1 && t.fab.lowest == 0 && t.fab.hops == 1) = true ∧
    after (.hello 0 (helloOf 2 0)) (placing 0) (fun t => t.firm.cause == 0x84 && t.firm.failedPhase == 8 && t.firm.state == .boot) = true := by decide +kernel
theorem test_helloTimer : after (.helloTimer 1) (placing 0) (fun t => t.out == [.hello 1 ⟨1, 1, 1, 0, 1, 0⟩]) = true := by decide +kernel
theorem witness_election : discovering (placing 0) = true ∧ (placing 0).fab.lowest = (placing 0).serial ∧ (∃ a < 4, portUp (placing 0) (2 * a) = true) := by decide +kernel
theorem test_election : after .discoveryElection (placing 0) (fun t => t.fab.root && t.fab.discPhase == 1 && t.out == [.probe 0 1]) = true := by decide +kernel
theorem test_ringProbe : after (.ringProbe 1 3) (placing 1) (fun t => t.out == [.probe 0 4]) = true := by decide +kernel
/-- `COORD` over the + port of the neighbour, which reaches this module's - port: x is one more, modulo 2. -/
theorem witness_coord : inPhase (placing 0) 8 = true ∧ portUp (placing 0) 1 = true ∧ ownPlace (placing 0) = none ∧ slathVal (placing 0) 13 ≠ 1 ∧
    extentFault (placing 0) ⟨32, 1, 1, 16⟩ = none ∧ extentFault (placing 0) ⟨33, 1, 1, 1⟩ = some (0x81, 0) ∧ extentFault (placing 0) ⟨32, 32, 32, 2⟩ = none ∧
    extentFault (placing 0) ⟨32, 32, 32, 3⟩ = some (0x82, 0) := by decide +kernel
theorem test_coord : after (.coord 1 ⟨0, 0, 0, 2⟩ ⟨2, 1, 1, 4⟩) (placing 0) (fun t => t.fab.coords == ⟨1, 0, 0, 2⟩ && t.fab.discPhase == 2) = true ∧
    after (.coord 1 ⟨1, 0, 0, 0⟩ ⟨2, 1, 1, 1⟩) (placing 0) (fun t => t.fab.coords == ⟨0, 0, 0, 0⟩) = true ∧
    after (.coord 1 ⟨0, 0, 0, 0⟩ ⟨33, 1, 1, 1⟩) (placing 0) (fun t => t.firm.cause == 0x81) = true := by decide +kernel
/-- The W coordinate of a CKL-CT1-64T is 0. -/
theorem test_coord_grade_3 : after (.coord 1 ⟨0, 0, 0, 2⟩ ⟨2, 1, 1, 1⟩) { placing 0 with grade := 3 } (fun t => t.fab.coords == ⟨1, 0, 0, 0⟩) = true := by decide +kernel
theorem test_coord_disagrees : after (.coord 1 ⟨0, 0, 0, 0⟩ ⟨2, 1, 1, 1⟩) (placing 2) (fun t => t.firm.cause == 0x83) = true := by decide +kernel
theorem test_discDone : after (.discDone 1) (placing 2) (fun t => t.fab.discPhase == 3 && t.out == [.discDone 0]) = true := by decide +kernel
theorem test_discoveryTimeout : after .discoveryTimeout (placing 0) (fun t => t.firm.cause == 0x85 && t.firm.mode == 1) = true := by decide +kernel
theorem witness_placement : inPhase (placing 3) 8 = true ∧ cabledWrong (placing 3) = none ∧ slathVal (placing 3) 13 ≠ 1 ∧ (placing 3).fab.discPhase = 3 := by decide +kernel
theorem test_placement : after .coordinatePlacement (placing 3) (fun t => t.fab.placed && t.fab.method == 2 && t.firm.phase == 8) = true := by decide +kernel
theorem test_coordinateWrite : after (.mctpCoordinateWrite ⟨1, 0, 0, 0⟩ ⟨2, 1, 1, 1⟩) (placing 0) (fun t => t.fab.written == some (⟨1, 0, 0, 0⟩, ⟨2, 1, 1, 1⟩)) = true := by
  decide +kernel

/-! ### Time (R341-R348, R353, R444) -/

/-- Node 1 follows its neighbour over port 0. -/
def following : State := { pair up 1 with time := { fec := 100000, upValid := true, upstream := 0, state := 1, stratum := 2, good := 15 } }
/-- A symbol whose legs differ by 64 sixteenths, with a valid echo: the local stamp is 64 behind in one leg. -/
def symbolOf (tTx : BitVec 40) : TimeSym := ⟨1, tTx, 0, 0, 2 ^ 36⟩
theorem witness_timeSymbol : portUp following 0 = true ∧ following.time.pps = false ∧ following.time.master = false ∧ (symbolOf 1000).hi.getLsbD 36 = true ∧
    bestUpstream (modPort following 0 fun x => { x with stratum := 1, lastTx := 1000, lastRx := 1064, echoValid := true }) = some 0 ∧
    diff40 1064 1000 - diff40 0 0 = 64 := by decide +kernel
theorem test_timeSymbol_locks : after (.timeSymbol 0 (symbolOf 1000) 1064) following
    (fun t => t.time.offset == 32 && t.time.slew == -32 && t.time.good == 16 && t.time.state == 2 && t.time.fec == 100000) = true := by decide +kernel
theorem test_timeSymbol_master : after (.timeSymbol 0 (symbolOf 1000) 1064) { following with time := { following.time with pps := true } }
    (fun t => t.time.offset == 0 && (portAt t 0).stratum == 1 && (portAt t 0).echoValid) = true := by decide +kernel
theorem test_timeSymbolTimer : after (.timeSymbolTimer 0) following
    (fun t => match t.out with | [.time ⟨0, 0⟩ m] => m.stratum == 2 && m.tTx == 1600000 | _ => false) = true := by decide +kernel
/-- An edge a little before the second: the counter goes to it. -/
def edgy (fec : Word) : State := { up with time := { fec := fec } }
theorem witness_ppsInEdge : (edgy 999999900).phys.mainOn = true ∧ (edgy 999999900).time.epochQ = [] ∧ (edgy 999999900).time.fec.toNat + 500000000 < 2 ^ 64 := by
  decide +kernel
theorem test_ppsInEdge : after .ppsInEdge (edgy 999999900) (fun t => t.time.fec == 1000000000 && t.time.master && t.time.stratum == 0) = true ∧
    after .ppsInEdge (edgy 1499999999) (fun t => t.time.fec == 1000000000) = true := by decide +kernel
theorem test_ppsLoss : after .ppsLoss { edgy 5 with time := { pps := true, master := true, state := 2 } }
    (fun t => !t.time.pps && t.time.state == 3 && t.time.stratum == 0xFF) = true := by decide +kernel
theorem test_holdoverEntry : after .holdoverEntry following (fun t => t.time.state == 3 && t.time.stratum == 0xFF && t.time.fec == 100000) = true := by decide +kernel
theorem test_drift : after .drift { up with time := { state := 3 } } (fun t => t.time.drift && t.out.length == 1) = true := by decide +kernel
theorem test_ppsOutPulse : after .ppsOutPulse { up with time := { state := 2, fec := 999999998 } } (fun t => t.out == [.pulse]) = true ∧
    after .ppsOutPulse { up with time := { state := 1, fec := 999999998 } } (fun t => t.out == []) = true := by decide +kernel
theorem test_timeFecRead : after .timeFecRead (edgy 77) (fun t => t.time.latched == 77) = true := by decide +kernel
def locking : State := { placing 3 with firm := { state := .linkup, phase := 8 }, time := { given := true, state := 2, offset := -5 } }
theorem witness_timeLock : inPhase locking 9 = true ∧ locking.firm.accepted = [] ∧ locking.firm.taken = [] ∧ locking.firm.resetTag = none := by decide +kernel
theorem test_timeLock : after .timeLock locking (fun t => t.firm.state == .idle && t.firm.phase == 10) = true := by decide +kernel
theorem test_timeTimeouts : after .timeSetTimeout { locking with time := {} } (fun t => t.firm.cause == 0x91) = true ∧
    after .timeLockTimeout { locking with time := { given := true, offset := -5 } } (fun t => t.firm.cause == 0x92 && t.firm.detail == -5) = true := by decide +kernel

/-! ### The epoch queue (R20, R346-R348) -/

/-- `PROG_PAUSE` of the die waits for its epoch, 1000. -/
def entry0 : EpochEntry := ⟨1000, 0x0202, { packet0 with path := unitPath up 0 0, fireAt := 1000 }⟩
def queuedAt (fec : Word) (st : DevState) : State := { up with firm := { up.firm with state := st, accepted := [⟨0x0202, entry0.p⟩] }, time := { fec := fec, epochQ := [entry0] } }
theorem witness_epoch : (cmdOf entry0.opcode).isSome = true ∧ fwRuns (queuedAt 999 .running) = true ∧ (queuedAt 999 .running).firm.gathers = [] ∧
    stateFault (queuedAt 1000 .idle) cmdProgPause = true ∧ stateFault (queuedAt 1000 .running) cmdProgPause = false := by decide +kernel
theorem test_epoch_early : after .epochQueueAct (queuedAt 999 .running) (fun t => t.time.epochQ.length == 1 && t.firm.records == []) = true := by decide +kernel
theorem test_epoch_late : after .epochQueueAct (queuedAt 1002 .running)
    (fun t => t.time.epochQ == [] && (t.firm.records.map fun r => (r.reason, r.detail, r.who)) == [(9, 1, 7)]) = true := by decide +kernel
theorem test_epoch_state : after .epochQueueAct (queuedAt 1001 .idle)
    (fun t => t.time.epochQ == [] && (t.firm.records.map fun r => (r.reason, r.detail)) == [(5, BitVec.ofNat 64 (stateCode .idle))]) = true := by decide +kernel
theorem test_epoch_stepped_over : after .ppsInEdge { queuedAt 999 .running with time := { fec := 999999999, epochQ := [{ entry0 with epoch := 1000000000 }] } }
    (fun t => t.time.epochQ == [] && (t.firm.records.map fun r => (r.reason, r.detail)) == [(4, 3)]) = true := by decide +kernel

/-! ### The Hamper (R357-R387) -/

/-- A job of the controller on generation 4. -/
def job (next : Nat) : HJob :=
  { gen := 4, next := next, tag := 9, route := .slot 0, base := 0, host := false, since := 0, paused := false, failed := none }
/-- A module of node 0 whose Hamper works in a device state. -/
def storing (st : DevState) (h : Hamper) : State := let s := pair up 0; { s with firm := { s.firm with state := st }, hamper := h }
/-- Two extents of a generation: 0 bytes of HBM, and the manifest. -/
def ext2 : List Extent := [{ kind := 4, source := 0, len := 0 }, { kind := 0x0F, source := 0, len := 0 }]
def writing (next failed : Nat) : State :=
  storing .checkpoint { state := 2, write := some (job next), gens := [(4, { state := .writing, extents := ext2, failed := failed })] }
theorem witness_checkpointStart : let s := storing .checkpoint { state := 1, write := some (job 0) }
    s.prog.isSome = true ∧ itemsRunning s = false ∧ genAt s 4 = none := by decide +kernel
theorem test_checkpointStart : after .checkpointWriteStart (storing .checkpoint { state := 1, write := some (job 0) })
    (fun t => (t.hamper.gens.map fun g => (g.1, g.2.state, g.2.extents.map fun x => x.kind.toNat)) == [(4, .writing, [1, 2, 15])] &&
      (t.hamper.journal.map fun r => r.type) == [1] && t.hamper.state == 2) = true := by decide +kernel
theorem witness_extentCommit : let s := writing 0 0
    s.hamper.write = some (job 0) ∧ (genAt s 4).isSome = true ∧ (job 0).next + 1 < ext2.length ∧ (job 1).next + 1 = ext2.length ∧
    heldLines s (extRange (nth noExtent ext2 0)) [] = [] ∧ extError s (nth noExtent ext2 0) = false ∧
    (programExtent (modHamper s fun h => { h with write := some (job 1) }) 4 false 0 0).isSome = true := by decide +kernel
theorem test_extentCommit_noSpace : after (.extentCommit .noSpace) (writing 0 0)
    (fun t => (t.hamper.gens.map fun g => (g.2.failed, g.2.extents.map fun x => (x.status, x.reason))) == [(1, [(2, 3), (0, 0)])] &&
      (t.hamper.write.map fun j => j.next) == some 1 && (t.firm.records.map fun r => (r.kind, r.reason, r.who, r.number)) == [(3, 3, 4, 0)]) = true := by
  decide +kernel
theorem witness_extentCommit_last : let s := writing 1 0
    isAnchor { s with fab := { s.fab with node := 1 } } = false ∧ s.firm.draining = none ∧ s.hamper.faultAfter = false ∧ s.hamper.eccAfter = false ∧
    mirrorCircuit s = none ∧ heldLines s (extRange (nth noExtent ext2 1)) [] = [] ∧
    (programExtent (modHamper s fun h => { h with write := some (job 2) }) 4 false 1 0).isSome = true := by decide +kernel

/-- Generation 4 is to be mirrored at the buddy over port 0. -/
def mirrorable : State := storing .running { state := 1, gens := [(4, { state := .local_, mirror := true, buddy := 0 })] }
theorem witness_mirrorStart : (mirrorable.hamper.gens.find? fun e => e.2.mirror && !e.2.sent && (e.2.state == .local_ || e.2.state == .complete)).isSome = true ∧
    (buddyOf mirrorable 0).isSome = true ∧ ((strandsOf 0).find? fun k => outCause mirrorable mirrorable.fab.own k = 0) = some 0 ∧
    (sliceNo mirrorable mirrorable.fab.own.toNat).isSome = true := by decide +kernel
theorem test_mirrorStart : after .mirrorStart mirrorable (fun t => (t.hamper.mirrorTx.map fun j => (j.gen, j.next)) == some (4, 0) &&
    (t.fab.circuits.map fun c => (c.source, c.mirror, c.tag)) == [(true, true, 4)]) = true := by decide +kernel
theorem test_mirrorCircuitRetry : after .mirrorCircuitRetry (storing .running { mirrorable.hamper with mirrorTx := some (job 0) })
    (fun t => t.fab.circuits.length == 1) = true := by decide +kernel
def mirroring : State :=
  let s := storing .running { state := 1, mirrorTx := some (job 1), gens := [(4, { state := .local_, mirror := true, sent := true, extents := ext2 })] }
  { s with fab := { s.fab with node := 1 } }
theorem witness_mirrorTimeout : mirroring.hamper.mirrorTx = some (job 1) ∧ (genAt mirroring 4).isSome = true ∧ isAnchor mirroring = false ∧
    mirroring.firm.accepted = [] ∧ mirroring.firm.draining = none := by decide +kernel
theorem test_mirrorTimeout : after .mirrorTimeout mirroring
    (fun t => t.hamper.mirrorTx.isNone && (t.firm.records.map fun r => (r.kind, r.reason, r.who, r.number)) == [(3, 9, 4, 1)]) = true := by decide +kernel
/-- The circuit of a mirror has brought an extent whole. -/
def inboxOf (data : List Byte) : Circuit := { sinkEnd false with inbox := [(2 ^ 31, data)] }
def copying (data : List Byte) : State :=
  let s := storing .running { state := 1, mirrorRx := some 4, mirrors := [(4, { state := .mirrorWriting, mirror := true, extents := ext2 })] }
  { s with fab := { s.fab with circuits := [inboxOf data] } }
theorem witness_mirrorExtentReceive : ((takeInbox (copying [1, 2]) 0).map fun r => r.1) = some [1, 2] ∧ (takeInbox (copying []) 1).isNone = true ∧
    (copying []).hamper.mirrorRx = some 4 ∧ (mirrorAt (copying []) 4).isSome = true := by decide +kernel
theorem test_mirrorExtentReceive_none : after (.mirrorExtentReceive ⟨4, 1, false, 0⟩) (copying []) (fun t => t.firm.records.length == 0) = true := by
  decide +kernel

/-- A block that holds one page of the extent of generation 4. -/
def block0 : BlockId := ⟨0, 0, 0, 50⟩
def kept1 (reads rebuilt : Nat) (mode : BitVec 2) : Block :=
  { mode := mode, reads := reads, rebuilt := rebuilt, pages := [(7, ⟨8, 0, .data 0 0⟩)] }
def flash (b : Block) : State := storing .running { state := 1, blocks := [(50, b)], gens := [(4, { state := .local_, extents := ext2 })] }
theorem witness_pageRead : blockKey block0 = 50 ∧ (blockAt (flash (kept1 199999 1 1)) 50).mode ≠ 0 ∧ (blockAt (flash (kept1 199999 1 1)) 50).bad = false ∧
    (kept1 0 0 1).pages.any (fun w => w.1 = 7 && w.2.owner % 2 == 0) = true ∧ (genAt (flash (kept1 0 0 1)) (BitVec.ofNat 32 (8 / 2))).isSome = true := by
  decide +kernel
theorem test_pageRead_limit : after (.pageReadComplete block0 7 0) (flash (kept1 199999 0 1)) (fun t => t.hamper.refresh == [50] && (blockAt t 50).reads == 200000) = true ∧
    after (.pageReadComplete block0 7 0) (flash (kept1 199999 0 2)) (fun t => t.hamper.refresh == []) = true := by decide +kernel
theorem test_pageRead_steps : after (.pageReadComplete block0 7 9) (flash (kept1 0 0 1)) (fun t => t.hamper.soft.count == 1 && t.hamper.refresh == [50]) = true ∧
    after (.pageReadComplete block0 7 12) (flash (kept1 0 0 1))
      (fun t => t.hamper.lost.count == 1 && (t.hamper.gens.map fun g => g.2.extents.map fun x => x.lost) == [[true, false]]) = true := by decide +kernel
theorem test_programOrEraseFail : after (.programOrEraseFail block0) (flash { mode := 1 })
    (fun t => (blockAt t 50).bad && t.hamper.grownBad == 1 && (t.hamper.journal.map fun r => r.type) == [9]) = true := by decide +kernel
theorem witness_fold : mayWork (flash (kept1 0 0 2)) = true ∧ foldSet (flash (kept1 0 0 2)) = [50] ∧ mayWork (flash (kept1 0 0 1)) = true ∧
    (wearPick (flash (kept1 0 0 1))).map (·.1) = some 50 ∧ (blockAt (flash (kept1 0 0 1)) 50).pages.length = 1 ∧ wearSpread (flash (kept1 0 0 1)) = 0 ∧
    2000 < wearSpread (flash { kept1 0 0 1 with wear := 2001 }) ∧ (flash (kept1 0 0 1)).hamper.slot = 0 := by decide +kernel
theorem test_refreshCheck : after .refreshCheck { flash (kept1 0 0 1) with time := { fec := BitVec.ofNat 64 (30 * dayNs + 1) } } (fun t => t.hamper.refresh == [50]) = true ∧
    after .refreshCheck { flash (kept1 0 0 1) with time := { fec := BitVec.ofNat 64 (30 * dayNs) } } (fun t => t.hamper.refresh == []) = true := by decide +kernel
/-- Pages of a block without any are not moved, but the block is erased. -/
theorem test_blockRefresh : after .blockRefresh (storing .running { state := 1, refresh := [50], blocks := [(50, { mode := 2, wear := 3 })] })
    (fun t => t.hamper.refresh == [] && (blockAt t 50).wear == 4 && (blockAt t 50).mode == 0) = true := by decide +kernel
theorem test_wearLevelMove : after .wearLevelMove (storing .running { state := 1, blocks := [(50, { mode := 1 }), (60, { mode := 2, wear := 2001 })] })
    (fun t => (blockAt t 50).wear == 10 && (blockAt t 50).mode == 0) = true := by decide +kernel
def jrec (n : BitVec 32) (type : BitVec 8) (gen : BitVec 32) : JRec := ⟨n, type, 0, 0, gen, 0, []⟩
theorem test_journalCompaction : after .journalCompaction (storing .running { state := 1, jnum := 9, gens := [(4, { state := .local_ })], journal := [jrec 1 1 3, jrec 2 1 4, jrec 3 9 0] })
    (fun t => (t.hamper.journal.map fun r => (r.number.toNat, r.type.toNat)) == [(9, 1), (10, 9), (11, 10)]) = true := by decide +kernel

/-- A restore, and an export to HBM, of generation 4. -/
def copied (st : GenState) (next : Nat) (lost : Bool) (out : Bool) : State :=
  let g : Gen := { state := st, extents := [{ kind := 4, source := 0, len := 0, lost := lost }, { kind := 0x0F, source := 0, len := 0 }] }
  let s := storing (if out then .paused else .restore) { state := 1, gens := [(4, g)] }
  { s with hamper := if out then { s.hamper with copyOut := some (job next) } else { s.hamper with restore := some (job next) } }
theorem witness_restore : let s := copied .complete 1 false false
    s.hamper.restore = some (job 1) ∧ (restoreExtents s 4).length = 2 ∧ restoreLocal s 4 = true ∧ (nth noExtent (restoreExtents s 4) 1).lost = false ∧
    loadFails s (nth noExtent (restoreExtents s 4) 1) = false ∧ (nth noExtent (restoreExtents s 4) 1).kind = 0x0F ∧
    heldLines s [] (extRange (nth noExtent (restoreExtents s 4) 1)) = [] := by decide +kernel
theorem test_restoreExtentRead : after (.restoreExtentRead false none) (copied .complete 1 false false)
    (fun t => (t.hamper.restore.map fun j => j.next) == some 2 && (t.firm.records.map fun r => (r.kind, r.done)) == [(3, true)]) = true ∧
    after (.restoreExtentRead true none) (copied .complete 0 false false)
      (fun t => t.hamper.restore.isNone && t.firm.state == .loaded && (t.firm.records.map fun r => (r.kind, r.reason)) == [(3, 4), (4, 9)]) = true := by decide +kernel
theorem test_restoreComplete : after .restoreComplete (copied .complete 2 false false)
    (fun t => t.hamper.restore.isNone && t.firm.state == .paused && (t.firm.records.map fun r => (r.kind, r.done, r.who)) == [(4, true, 9)]) = true := by decide +kernel
theorem witness_export : let s := copied .complete 1 true true
    s.hamper.copyOut = some (job 1) ∧ (genAt s 4).isSome = true ∧ s.hamper.write = none ∧ heldLines s [] [((job 1).base + exportOffset (nth { state := .writing } (s.hamper.gens.map (·.2)) 0) 1, 0)] = [] ∧
    (nth noExtent (dataExtents (nth { state := .writing } (s.hamper.gens.map (·.2)) 0)) 0).lost = true := by decide +kernel
theorem test_exportExtent_lost : after (.exportExtent false) (copied .complete 1 true true)
    (fun t => t.hamper.copyOut.isNone && (t.firm.records.map fun r => (r.kind, r.reason)) == [(3, 4), (4, 9)]) = true := by decide +kernel

/-! ### Memory events (R225-R263) -/

theorem witness_scrub : (tileAt up 0).scrubEn = true ∧ up.mem.onchip = true ∧ (0 : Nat) < tilesOn up ∧ (rd {} up.mem.slices 0).scrubEn = true ∧
    inService (rd {} up.mem.slices 0) 0 = true ∧ (rd {} up.mem.slices 0).disabled = 0 := by decide +kernel
/-- Position 9 of bank 3 is word 1 of row 1. -/
def scrubbing : State := modTile up 0 fun t => { t with scrubPos := [(3, 9)] }
theorem test_tilePatrolScrub : after (.tilePatrolScrub 0 3 .clean) scrubbing (fun t => rd 0 (tileAt t 0).scrubPos 3 == 10 && (tileAt t 0).spCe.count == 0) = true ∧
    after (.tilePatrolScrub 0 3 (.uncorrectable 8)) scrubbing (fun t => (tileAt t 0).spUeTally.count == 1 &&
      (tileAt t 0).spUeAddr == some (BitVec.ofNat 22 (bankAddr 3 1 1 + 8))) = true := by decide +kernel
theorem test_spCorrectedWriteback : after (.spCorrectedWriteback 0) (modTile up 0 fun t => { t with spCorrected := [8, 16] }) (fun t => (tileAt t 0).spCorrected == [16]) = true := by
  decide +kernel
theorem test_llmPatrolScrub : after (.llmPatrolScrub 2 3 (.corrected 0) none) up (fun t => (rd {} t.mem.slices 2).ce.count == 1 && rd 0 (rd {} t.mem.slices 2).scrubPos 3 == 1) = true ∧
    after (.llmPatrolScrub 2 3 .clean none) (modSlice up 2 fun x => { x with disabled := 2, scrubPos := [(3, 2559)] }) (fun t => rd 0 (rd {} t.mem.slices 2).scrubPos 3 == 5120) = true := by
  decide +kernel
/-- Line 3 of HBM is dirty in its home slice. -/
def dirty3 : State := modSlice up (homeSlice 192) fun x => { x with dirty := [3], tags := [(0, 4)] }
theorem witness_llmWriteback : homeSlice (64 * (3 : BitVec 42).toNat) = homeSlice 192 ∧ (3 : BitVec 42).toNat ∈ (rd {} dirty3.mem.slices (homeSlice 192)).dirty := by
  decide +kernel
theorem test_llmWritebackComplete : after (.llmWritebackComplete (Fin.ofNat 16 (homeSlice 192)) 3) dirty3
    (fun t => (rd {} t.mem.slices (homeSlice 192)).dirty == [] && (rd {} t.mem.slices (homeSlice 192)).tags == [(0, 4)] &&
      ((rd {} t.mem.chans (channelOf up 3).1).reqs.map fun r => (r.line, r.write, r.cls)) == [(3, true, 1)]) = true := by decide +kernel
/-- A stack that trained, with a corrected line. -/
def trained : State := modStack up 0 fun x => { x with trained := true, corrected := [7] }
theorem witness_hbmScrub : (rd {} trained.mem.hbm 0).scrubEn = true ∧ (rd {} trained.mem.hbm 0).trained = true ∧
    stackOf (64 * scrubLine 0 (rd {} trained.mem.hbm 0).scrubPos) = 0 ∧ linePoison trained (scrubLine 0 0) = false := by decide +kernel
theorem test_hbmPatrolScrub : after (.hbmPatrolScrub 0 2 0) trained (fun t => (rd {} t.mem.hbm 0).ce.count == 1 && (rd {} t.mem.hbm 0).scrubPos == 1 && t.mem.poison == []) = true ∧
    after (.hbmPatrolScrub 0 3 0) trained (fun t => (rd {} t.mem.hbm 0).ue.count == 1 && t.mem.poison.length == 1) = true := by decide +kernel
theorem test_hbmCorrectedWriteback : after (.hbmCorrectedWriteback 0) trained (fun t => (rd {} t.mem.hbm 0).corrected == [] &&
    ((rd {} t.mem.chans (channelOf up 7).1).reqs.map fun r => (r.line, r.write, r.cls)) == [(7, true, 3)]) = true := by decide +kernel
theorem witness_hbmRead : up.mem.offchip = true ∧ 64 * (9 : BitVec 42).toNat < hbmSize ∧ linePoison up 9 = false ∧
    linePoison { up with mem := { up.mem with poison := [576] } } 9 = true := by decide +kernel
theorem test_hbmReadComplete : after (.hbmReadComplete 9 2 1 .hamper) up (fun t => let x := rd {} t.mem.hbm (stackOf 576)
      x.ce.count == 1 && x.ondie.count == 1 && x.corrected == [9]) = true ∧
    after (.hbmReadComplete 9 3 0 .hamper) up (fun t => (rd {} t.mem.hbm (stackOf 576)).ueAddr == some 9 && t.mem.poison == [576]) = true ∧
    after (.hbmReadComplete 9 0 0 .hamper) { up with mem := { up.mem with poison := [576] } }
      (fun t => (rd {} t.mem.hbm (stackOf 576)).poison.count == 1 && (rd {} t.mem.hbm (stackOf 576)).ue.count == 0) = true := by decide +kernel
/-- A frame under way with requests of three classes: 2 has used more of its weight than 1. -/
def framed (slot : Nat) (used : Table Nat) (reqs : List MemReq) : State :=
  { up with mem := { up.mem with chans := [(0, { slot := slot, prio := 4 + 32 * 12 + 1024 * 4 + 32768 * 2, used := used, reqs := reqs })] } }
def req (line cls : Nat) : MemReq := ⟨line, 0, false, cls⟩
theorem witness_slotGrant : let c := rd {} (framed 3 [] [req 5 0]).mem.chans 0
    c.slot ≠ 0 ∧ queued c 0 ≠ [] ∧ rd 0 c.used 0 < c.prio % 32 ∧
    (let d := rd {} (framed 3 [(1, 2), (2, 1)] [req 5 1, req 6 2]).mem.chans 0
     queued d 0 = [] ∧ queued d 1 ≠ [] ∧ (rd 0 d.used 1 + 1) * (d.prio / 32 ^ 2 % 32) < (rd 0 d.used 2 + 1) * (d.prio / 32 ^ 1 % 32)) := by decide +kernel
theorem test_slotGrant_p0 : after (.hbmSlotGrant 0 []) (framed 3 [(0, 3)] [req 7 1, req 5 0]) (fun t => rd 0 (rd {} t.mem.chans 0).used 0 == 4 &&
      (rd {} t.mem.chans 0).reqs == [req 7 1] && rd 0 t.mem.bytesP 0 == 64) = true ∧
    after (.hbmSlotGrant 0 []) (framed 3 [(0, 4)] [req 7 1, req 5 0]) (fun t => rd 0 (rd {} t.mem.chans 0).used 0 == 4) = true := by decide +kernel
/-- The oldest request of the class whose bank is ready goes, and no request before an older one to its line. -/
theorem test_slotGrant_banks : after (.hbmSlotGrant 0 [7]) (framed 19 [] [req 7 1, req 8 1]) (fun t => (rd {} t.mem.chans 0).reqs == [req 7 1] && (rd {} t.mem.chans 0).slot == 0) = true ∧
    after (.hbmSlotGrant 0 []) (framed 3 [] [req 7 2, req 7 1]) (fun t => (rd {} t.mem.chans 0).reqs == [req 7 2, req 7 1]) = true := by decide +kernel
/-- Row 2 of pseudo-channel 1 of stack 0 is a candidate. -/
def candidate : State := modStack up 0 fun x => { x with ueRows := [2 ^ 20 + 2], sparesLeft := 3 }
theorem witness_rowRepair : isCandidate (rd {} candidate.mem.hbm 0) (1 * 2 ^ 20 + 2) = true ∧ candidate.mem.retired.length + 4 ≤ 4096 := by decide +kernel
theorem test_rowRepair : after (.hbmRowRepair 0 ⟨1, 2, 1, true⟩) candidate (fun t => let x := rd {} t.mem.hbm 0
      x.softRepairs == 1 && x.ueRows == [] && x.soft == [2 ^ 20 + 2] && t.mem.retired == [] && t.mem.poison.length == 1) = true ∧
    after (.hbmRowRepair 0 ⟨1, 2, 0, false⟩) candidate (fun t => t.mem.retired.length == 4 && (rd {} t.mem.hbm 0).softRepairs == 0) = true := by decide +kernel
/-- The far tier over link 0, with one device of 256 GiB. -/
def farUp : State := { up with mem := { up.mem with cxl := [(0, ⟨1024, 16, 32, true⟩)] } }
theorem witness_cxl : regionAt farUp (64 * (BitVec.ofNat 42 (farBase / 64)).toNat) = .far ∧ farDown farUp farBase 64 = false ∧
    (rd {} farUp.mem.cxl 0).present = true ∧ (0 : Nat) < cxlLinks farUp ∧ farUp.mem.cxlDown.getLsbD 0 = false ∧ farUp.firm.state = .running ∧
    inLoaded { farUp with firm := { farUp.firm with state := .idle } } = false := by decide +kernel
theorem test_cxlResponse : after (.cxlResponse (BitVec.ofNat 42 (farBase / 64)) true 2) farUp (fun t => t.mem.cxlRetry.count == 2 && t.mem.poison == [farBase]) = true := by
  decide +kernel
theorem test_cxlRequestTimeout : after (.cxlRequestTimeout 0) { farUp with firm := { farUp.firm with state := .idle } } (fun t => t.mem.cxlDown == 1) = true ∧
    after (.cxlRequestTimeout 0) farUp (fun t => t.mem.cxlDown == 1 && t.firm.state == .faulted && t.firm.faultCause == 5) = true := by decide +kernel

/-! ### Memory commands (R230, R240-R242, R263) -/

/-- An accepted command of host software with a payload. -/
def hostCmd (op : BitVec 16) (payload : List Byte) : PendCmd := ⟨op, { packet0 with tag := 9, payload := payload }⟩
def commanded (op : BitVec 16) (payload : List Byte) (st : DevState := .idle) : State :=
  { up with firm := { up.firm with state := st, accepted := [hostCmd op payload] } }
theorem witness_accepted : acceptedOf (commanded 0x0303 []) 0x0303 = some (hostCmd 0x0303 []) ∧ (commanded 0x0303 []).firm.draining = none ∧
    (hostCmd 0x0303 []).p.route = .slot 0 ∧ acceptedOf (commanded 0x0303 []) 0x0901 = none := by decide +kernel
theorem test_llmModeChangeDone : after .llmModeChangeDone (commanded 0x0303 ([0, 0x10] ++ List.replicate 30 0))
    (fun t => (rd {} t.mem.slices 0).scratch == 0x1000 && (rd {} t.mem.slices 1).scratch == 0 && t.firm.accepted.isEmpty &&
      (t.firm.records.map fun r => (r.kind, r.done, r.who)) == [(4, true, 9)]) = true := by decide +kernel
def testing (mode : BitVec 2) (spares : Nat) : State :=
  modTile { up with firm := { up.firm with state := .idle } } 5 fun t => { t with march := { t.march with state := 1, mode := mode }, spares := [(3, spares)] }
theorem witness_march : (tileAt (testing 2 3) 5).march.state = 1 ∧ (tileAt (testing 2 3) 5).march.mode = 2 ∧ (tileAt (testing 2 3) 5).march.unrepaired = 0 ∧
    rd 0 (tileAt (testing 2 3) 5).spares 3 < 4 ∧ (testing 2 3).mem.repair.length < 4096 := by decide +kernel
theorem test_march_repairs : after (.marchComplete (.tile 5) [⟨3, 77, false⟩]) (testing 2 3) (fun t => rd 0 (tileAt t 5).spares 3 == 4 && (tileAt t 5).march.state == 2 &&
      (t.mem.repair.map fun e => (e.kind, e.unit, e.bank, e.row, e.spare, e.test, e.result)) == [(0, 5, 3, 77, 3, 2, 0)]) = true ∧
    after (.marchComplete (.tile 5) [⟨3, 77, false⟩]) (testing 2 4) (fun t => (tileAt t 5).march.state == 3 && (tileAt t 5).unusable && t.firm.state == .faulted) = true := by
  decide +kernel
theorem test_march_llm : after (.marchComplete (.llm 2) [⟨0, 320, false⟩]) (modSlice up 2 fun x => { x with march := { x.march with state := 1 }, spares := [(0, 32)] })
    (fun t => (rd {} t.mem.slices 2).disabled == 2 && (rd {} t.mem.slices 2).march.state == 3) = true := by decide +kernel
theorem test_cxlRetrainComplete : after (.cxlRetrainComplete [⟨0, true, 64, 8, 32⟩]) (commanded 0x0304 [1, 0, 0, 0, 0, 0, 0, 0])
    (fun t => (rd {} t.mem.cxl 0).capacity == 64 && (t.firm.records.map fun r => (r.kind, r.done, r.who)) == [(4, true, 9)]) = true := by decide +kernel

/-! ### The Vorkiux Link (R390-R397) -/

/-- The link up with its credits, the window off. -/
def linkV : Vkx := { state := 2, reqCredit := 128, snpCredit := 64, rspCredit := 256, datCredit := 256 }
def linked (v : Vkx := linkV) : State := { up with vkx := v }
theorem crc_of_zeros (n : Nat) : crcLeft 0x42F0E1EBA9EA3693 64 (List.replicate n 0) 0 = 0 := by
  have step : ∀ bs, crcLeft 0x42F0E1EBA9EA3693 64 (0 :: bs) 0 = crcLeft 0x42F0E1EBA9EA3693 64 bs 0 := by
    intro bs; rw [crcLeft]; refine congrArg (crcLeft 0x42F0E1EBA9EA3693 64 bs) ?_; decide +kernel
  induction n with
  | zero => rw [List.replicate_zero, crcLeft]
  | succ n ih => rw [List.replicate_succ, step, ih]
theorem witness_flit_good : flitCrcOk 0 = true := by
  have h : flitBytes 0 0 232 = List.replicate 232 0 := by decide +kernel
  rw [flitCrcOk, h, crc_of_zeros]; decide +kernel
theorem witness_flit : linkUp linked = true ∧ (0 : BitVec 12) = linked.vkx.rxSeq + 1 ∧ linked.vkx.waitQ = [] ∧ txUsed { linkV with asked := [(5, 64, 1)] } 5 = true := by decide +kernel
theorem test_flit_nak : after (.flitReceived 0 false) linked (fun t => t.vkx.crcErr.count == 1 && t.out == [.nak 0xFFF] && t.vkx.rxSeq == 0xFFF) = true := by decide +kernel
theorem test_vkxRetrain : after .vkxRetrain linked (fun t => t.vkx.state == 1 && t.vkx.retrain.count == 1) = true ∧
    after (.vkxRequestTimeout 5) (linked { linkV with asked := [(5, 64, 1)] }) (fun t => t.vkx.state == 1) = true ∧
    after (.vkxRequestTimeout 6) (linked { linkV with asked := [(5, 64, 1)] }) (fun t => t.vkx.state == 2) = true := by decide +kernel
theorem test_vkxDownRetrainTimer : after .vkxDownRetrainTimer { linked {} with firm := { (linked {}).firm with phase := 10 } } (fun t => t.vkx.state == 1) = true := by decide +kernel
/-- Training without the full width or speed gives a degraded link. -/
theorem test_vkxRetrainComplete : after (.vkxRetrainComplete ⟨true, 64, 16⟩) (linked { state := 1 }) (fun t => t.vkx.state == 2 && t.vkx.datCredit == 256) = true ∧
    after (.vkxRetrainComplete ⟨true, 64, 8⟩) (linked { state := 1 }) (fun t => t.vkx.state == 3) = true ∧
    after (.vkxRetrainComplete ⟨false, 0, 0⟩) (linked { state := 1, badTrains := 1 }) (fun t => t.vkx.state == 1 && t.vkx.badTrains == 2) = true := by decide +kernel
/-- The third failure loses the link; a line that the host held modified is poisoned. -/
def losing : State := modSlice { linked { state := 1, badTrains := 2 } with firm := { up.firm with state := .idle } } (homeSlice 192) fun x => { x with snoop := [(3, 2)] }
theorem witness_linkLost : losing.vkx.posts = [] ∧ losing.hamper.copyOut.isNone = true ∧ losing.firm.accepted.isEmpty = true ∧ inLoaded losing = false ∧
    losing.firm.state ≠ .faulted ∧ losing.firm.draining = none := by decide +kernel
theorem test_linkLost : after (.vkxRetrainComplete ⟨false, 0, 0⟩) losing (fun t => t.vkx.state == 0 && t.mem.poison == [192] && t.mem.slices.all fun e => e.2.snoop.isEmpty) = true := by
  decide +kernel

def hostReq (addr : Nat) (len : Fin 64) : HostReq := ⟨5, BitVec.ofNat 52 addr, len, false⟩
/-- Eight bytes of HBM at 0x1008. -/
def withBytes : State := { linked with mem := { up.mem with dev := [(0x1008, 7), (0x1009, 8)] } }
theorem witness_hostRead : linkUp withBytes = true ∧ (hostReq 0x1008 7).addr.toNat % 64 + 7 < 64 ∧ (hostTarget withBytes 0x1008 8).2 = 0 ∧ regionAt withBytes 0x1008 = .hbm ∧
    devMark withBytes 0x1008 8 = none ∧ writeMark withBytes 0x1008 (writeBytes (hostReq 0x1008 7) 0) = none ∧ cacheable withBytes 0x1000 = true ∧
    farDown withBytes 0x1000 64 = false ∧ hostHolds withBytes (0x1000 / 64) = false ∧ (rd {} withBytes.mem.slices (homeSlice 0x1000)).snoop.length < filterSize ∧
    withBytes.vkx.held = [] ∧ retiredIn withBytes 0x1000 64 = [] := by decide +kernel
theorem test_rdUc : after (.rdUc (hostReq 0x1008 7)) withBytes (fun t => match t.out with
    | [.host op txid _ resp _ _ d] => op == 0x30 && txid == 5 && resp == 0 && d.length == 64 && sub d 8 8 == [7, 8, 0, 0, 0, 0, 0, 0]
    | _ => false) = true := by decide +kernel
theorem test_wrUc : after (.wrUc (hostReq 0x1008 1) (0x55AA <<< 64)) linked (fun t => t.mem.dev == [(0x1008, 0xAA), (0x1009, 0x55)]) = true := by decide +kernel
theorem test_wrUc_hole : after (.wrUc (hostReq 0x020040000000 7) 1) linked (fun t => t.mem.dev == [] && match t.out with | [.host op _ _ resp _ _ _] => op == 0x20 && resp ≠ 0 | _ => false) = true := by
  decide +kernel
theorem test_rdS : after (.rdS (hostReq 0x1000 63)) withBytes (fun t => hostHolds t 64 && match t.out with | [.host op _ _ resp _ st _] => op == 0x30 && resp == 0 && st == 1 | _ => false) = true ∧
    after (.rdX (hostReq 0x1000 63)) withBytes (fun t => hostHolds t 64 && match t.out with | [.host _ _ _ _ _ st _] => st == 2 | _ => false) = true := by decide +kernel
/-- The host holds line 64. -/
def holding : State := modSlice withBytes (homeSlice 0x1000) fun x => { x with snoop := [(64, 2)] }
theorem witness_hostWrite : hostHolds holding (0x1000 / 64) = true ∧ cacheable holding 0x1000 = true ∧ (∀ x ∈ holding.vkx.snooped, x.2.1 ≠ 64) ∧
    writeMark holding 0x1000 (natLe 64 0) = none := by decide +kernel
theorem test_wrLine : after (.wrLine (hostReq 0x1000 63) 3) holding (fun t => !hostHolds t 64 && t.mem.dev == [(0x1000, 3)]) = true ∧
    after (.wb (hostReq 0x1000 63) 3) holding (fun t => !hostHolds t 64 && t.mem.dev == [(0x1000, 3)]) = true ∧
    after (.evict (hostReq 0x1000 63)) holding (fun t => !hostHolds t 64 && t.mem.dev == [(0x1008, 7), (0x1009, 8)]) = true := by decide +kernel

def cachedLine : State := linked { linkV with en := true, lines := [(4, 1)] }
theorem witness_snoop : lineState cachedLine 256 ≠ 0 ∧ lineState linked (64 * ((hostReq 256 63).addr.toNat / 64)) = 0 := by decide +kernel
theorem test_snpSh : after (.snpSh (hostReq 256 63)) cachedLine (fun t => match t.out with | [.host op _ _ resp _ st _] => op == 0x21 && resp == 0 && st == 1 | _ => false) = true ∧
    after (.snpInv (hostReq 256 63)) linked (fun t => match t.out with | [.host op _ _ resp _ st _] => op == 0x21 && resp == 0 && st == 0 | _ => false) = true := by decide +kernel
/-- A write whose `CMP` ends it, a read and a snoop in flight. -/
def asking : State := linked { linkV with asked := [(5, 128, 5), (6, 192, 1)], posts := [⟨[5], .entry ⟨3, 1, 5, 0, 0, 0, 0⟩⟩], snooped := [(7, 3, 0x10)] }
theorem witness_responses : (∃ x ∈ asking.vkx.asked, x.1 = 5 ∧ 4 ≤ x.2.2.toNat) ∧
    asking.vkx.asked.find? (fun x => x.1 = 6 && x.2.2.toNat < 4) = some (6, 192, 1) ∧ asking.vkx.toAsk = [] ∧ asking.vkx.replyQ.length = 0 ∧
    asking.vkx.snooped.find? (fun x => x.1 = 7) = some (7, 3, 0x10) ∧ regionAt asking (64 * 3) = .hbm ∧ asking.fab.serving.length = 0 ∧ asking.fab.items.length = 0 ∧
    writeMark asking 192 (natLe 64 0) = none := by decide +kernel
theorem test_cmp : after (.cmp ⟨5, 0, false, 0⟩) asking (fun t => t.vkx.tail == 1 && t.vkx.posts.length == 0) = true := by decide +kernel
theorem test_data : after (.data ⟨6, 0, false, 0⟩ 9) asking (fun t => t.mem.host == [(192, 9)] && t.mem.hostBad == []) = true ∧
    after (.data ⟨6, 3, false, 0⟩ 9) asking (fun t => t.mem.host == [] && t.mem.hostBad == [192]) = true := by decide +kernel
theorem test_snpAck : after (.snpAck ⟨7, 0, false, 1⟩) asking (fun t => hostHolds t 3 && t.vkx.snooped.length == 0) = true ∧
    after (.snpAck ⟨7, 0, false, 0⟩) asking (fun t => !hostHolds t 3) = true ∧
    after (.snpData ⟨7, 0, false, 0⟩ 9) asking (fun t => !hostHolds t 3 && t.mem.dev == [(192, 9)]) = true := by decide +kernel

/-! ### The command window and MCTP (R399-R403, R408) -/

def windowV : Vkx := { linkV with en := true, order := 10 }
theorem witness_window : let s := linked { windowV with events := [⟨3, 1, 5, 0, 0, 0, 0⟩] }
    fwRuns s = true ∧ anyState s = true ∧ linkUp s = true ∧ queueFull s = false ∧ slotBusy s 3 = false ∧ entryOut s = false ∧
    hostMark s (winAt s 0x3000) 64 = none ∧ hostPending s (winAt s 0x3000) 40 = false ∧ ((nextEntry s).map fun e => e.1.code) = some 5 := by decide +kernel
theorem test_ringEntryWrite : after .ringEntryWrite (linked { windowV with events := [⟨3, 1, 5, 0, 0, 0, 0⟩], tail := 2 })
    (fun t => t.vkx.tail == 2 && t.vkx.posts.length == 1 && rdBytes t.mem.host (winAt t (0x42000 + 128)) 4 == [3, 1, 5, 0]) = true ∧
    after .ringEntryWrite (linked { windowV with events := [⟨3, 1, 5, 0, 0, 0, 0⟩], tail := 1024 }) (fun t => t.vkx.posts.length == 0) = true := by decide +kernel
theorem test_ringHeadAdvance : after (.ringHeadAdvance 12) linked (fun t => t.vkx.head == 12) = true := by decide +kernel
theorem test_statusCopy : after .statusCopy (linked windowV) (fun t => rdBytes t.mem.host (winAt t 0x41000) 8 == natLe 8 (dieStatus (linked windowV)).toNat) = true := by
  decide +kernel
theorem test_replyValidWordClear : after (.replyValidWordClear 3) (linked { windowV with replies := [(3, ⟨1, 0, 1, 0, 0, 0, [], []⟩), (4, ⟨2, 0, 1, 0, 0, 0, [], []⟩)] })
    (fun t => (t.vkx.replies.map fun r => r.1) == [4]) = true := by decide +kernel
/-- An empty slot is not taken. -/
theorem test_commandSlotTake_empty : after (.commandSlotTake 3) (linked windowV) (fun t => t.firm.records.length == 0 && t.vkx.replyQ.length == 0) = true := by decide +kernel
theorem witness_mctp : fwRuns up = true ∧ up.firm.mctpOpen < 8 ∧ headLen (List.replicate 32 0) ≤ 4064 ∧
    crc32c ((List.replicate 32 (0 : Byte)).take 28 ++ sub (List.replicate 32 0) 32 0) ≠ leNat (sub (List.replicate 32 0) 28 4) := by decide +kernel
theorem test_mctp_short : after (.mctpMessage 9 [1, 2]) up (fun t => t.out.length == 0) = true := by decide +kernel
theorem test_mctp_ninth : after (.mctpMessage 9 (List.replicate 32 0)) { up with firm := { up.firm with mctpOpen := 8 } }
    (fun t => match t.out with | [.mctp 9 r] => r.status == 7 | _ => false) = true := by decide +kernel
theorem test_mctp_crc : after (.mctpMessage 9 (List.replicate 32 0)) up (fun t => match t.out with | [.mctp 9 r] => r.status == 4 && r.detail == refusal 28 1 | _ => false) = true := by
  decide +kernel

/-! ### Control registers (R65, R119, R189, R227, R245, R259, R264-R266, R308, R352, R388, R398) -/

/-- A flag raised in the present cycle stays; one raised before it is cleared. -/
def flagged : State := modTile up 0 fun t => { t with
  cvt := [(0, { sat := true, underflow := true })], fresh := [(0, (0, { cvt := { underflow := true } }))] }
theorem test_cvtFlagsWrite : after (.cvtFlagsWrite 0 .F 0xFF) flagged (fun t => let x := rd {} (tileAt t 0).cvt 0; !x.sat && x.underflow) = true ∧
    after (.cvtFlagsWrite 0 .F 0) flagged (fun t => (rd {} (tileAt t 0).cvt 0).sat) = true := by decide +kernel
theorem test_arrayLagClear : after (.arrayLagClear 0 2 (1 <<< 63)) (modTile up 0 fun t => { t with phys := [(2, { a := 7, b := 8, drain := 9, busy := 10 })] })
    (fun t => let y := rd {} (tileAt t 0).phys 2; y.a == 0 && y.b == 0 && y.drain == 0 && y.busy == 10) = true := by decide +kernel
theorem test_scrubWrites : after (.spScrubWrite 0 63) up (fun t => (tileAt t 0).scrubInterval == 64 && !(tileAt t 0).scrubEn) = true ∧
    after (.llmScrubWrite 3 0x11000) up (fun t => (rd {} t.mem.slices 3).scrubInterval == 0x1000 && (rd {} t.mem.slices 3).scrubEn) = true ∧
    after (.hbmScrubWrite 3 200) up (fun t => (rd {} t.mem.hbm 3).hours == 168) = true := by decide +kernel
theorem test_limits : after (.hbmPrioWrite 0) up (fun t => t.mem.p0cap == 2 && t.mem.w1 == 1 && t.mem.w3 == 1) = true ∧
    after (.cxlTimeoutWrite 1) up (fun t => t.mem.cxlTimeout == 100000) = true ∧ after (.fabAckTimeoutWrite 0xFFFFFFFF) up (fun t => t.fab.ackTimeout == 1000000000) = true ∧
    after (.ceTimeoutWrite 2 0xFFFFFFFF) up (fun t => (rd {} t.ces 2).timeout == 0xFFFFFFFF) = true ∧ after (.hamperRefreshWrite 63) up (fun t => t.hamper.age == 60) = true ∧
    after (.vkxTimeoutWrite 5) up (fun t => t.vkx.timeout == 100000) = true := by decide +kernel
theorem test_vkxWindowWrite : after (.vkxWindowWrite 0x000000012345010A) (linked { linkV with tail := 5 }) (fun t => t.vkx.en && t.vkx.base == 0x12345 && t.vkx.order == 10 && t.vkx.tail == 0) = true ∧
    after (.vkxWindowWrite 0x0000000AAAAA0000) (linked windowV) (fun t => !t.vkx.en && t.vkx.base == 0) = true := by decide +kernel
/-- `DIE.GRADE` is read-only, and a write of four bytes has no effect. -/
theorem test_registerWrite : after (.registerWrite 0x0F0000908000 3 0) up (fun t => t.mem.p0cap == 4) = true ∧ after (.registerWrite 0x0F0000908000 8 0) up (fun t => t.mem.p0cap == 2) = true := by
  decide +kernel
theorem witness_registers : (0 : Nat) < tilesOn up ∧ ((3 : Fin 4)).val < axesOn up := by decide +kernel

/-! ### Power and heat (R443-R454), start-up and resets (R410, R423-R430) -/

def sensed (tj : BitVec 8) (pin10 pin100 : BitVec 16) : Sensors := { tj := tj, inlet := 41, pin10 := pin10, pin100 := pin100, vin := 0 }
def hot (thermal power : BitVec 3) : State := { up with phys := { up.phys with thermalDem := thermal, powerDem := power, flowOk := true } }
theorem witness_sensors : 95 ≤ (sensed 95 1850 0).tj.toNat ∧ (hot 3 3).phys.thermalDem.toNat < 4 ∧ 1850 ≤ (sensed 95 1850 0).pin10.toNat ∧
    (hot 3 3).phys.powerRise = none ∧ (sensed 89 1749 1399).tj.toNat < 90 ∧ 0 < (hot 1 1).phys.thermalDem.toNat ∧ 40 < (sensed 0 0 0).inlet.toNat ∧
    (hot 0 0).phys.flowOk = true ∧ (hot 0 0).firm.state ≠ .boot ∧ up.phys.flowOk = false ∧ State.reset.phys.mainOn = false := by decide +kernel
theorem test_thermalDemand : after (.thermalDemandRise (sensed 95 0 0)) (hot 3 0) (fun t => t.phys.thermalDem == 4 && t.phys.tj == 95 && t.out.length == 1) = true ∧
    after (.thermalDemandRise (sensed 94 0 0)) (hot 3 0) (fun t => t.phys.thermalDem == 3 && t.out.length == 0) = true ∧
    after (.thermalDemandFall (sensed 89 0 0)) (hot 3 0) (fun t => t.phys.thermalDem == 2) = true ∧
    after (.thermalDemandFall (sensed 90 0 0)) (hot 3 0) (fun t => t.phys.thermalDem == 3) = true := by decide +kernel
theorem test_powerDemand : after (.powerDemandRise (sensed 0 0 1501)) (hot 0 0) (fun t => t.phys.powerDem == 1 && t.phys.powerRise.isSome) = true ∧
    after (.powerDemandRise (sensed 0 1849 1500)) (hot 0 0) (fun t => t.phys.powerDem == 0) = true ∧
    after (.powerDemandRise (sensed 0 1850 0)) { hot 0 1 with phys := { (hot 0 1).phys with powerRise := some 0 }, time := { elapsed := 4999999 } } (fun t => t.phys.powerDem == 1) = true ∧
    after (.powerDemandFall (sensed 0 1749 1399)) (hot 0 2) (fun t => t.phys.powerDem == 1) = true := by decide +kernel
theorem test_inlet : after (.inletOverTemperature (sensed 0 0 0)) up (fun t => t.phys.inlet == 41 && t.out.length == 1) = true := by decide +kernel
theorem test_flow : after .flowOkFall (hot 0 0) (fun t => t.phys.flowDem == 4 && !t.phys.flowOk) = true ∧ after .flowOkRise up (fun t => t.phys.flowOk && t.phys.flowDem == 0) = true := by
  decide +kernel
theorem test_stbyStatus : after .stbyStatusRead up (fun t => match t.out with | [.smbus v] => v.getLsbD 0 && !v.getLsbD 1 | _ => false) = true ∧
    after (.stbyStatusClear 8 0) { up with phys := { up.phys with tripFlow := true, tripPower := true } } (fun t => !t.phys.tripFlow && t.phys.tripPower) = true := by decide +kernel
theorem test_standby : after .standbyConverterStart { State.reset with phys := { tripFlow := true, p1cause := 0x12 } } (fun t => !t.phys.tripFlow && t.phys.p1cause == 0) = true ∧
    after .pwrGoodFall up (fun t => !t.phys.mainOn && t.firm.state == .boot && t.prog.isNone) = true := by decide +kernel

/-- A module in a start-up phase. -/
def booting (phase : BitVec 4) (st : DevState) : State := { State.reset with phys := { mainOn := true, flowOk := true }, firm := { state := st, phase := phase } }
theorem witness_phases : inPhase (booting 1 .boot) 2 = true ∧ (booting 1 .boot).firm.fwReady = false ∧ fwCheck (booting 1 .boot) [] ≠ 0 ∧ inPhase (booting 2 .selftest) 3 = true ∧
    inPhase (booting 3 .selftest) 4 = true ∧ inPhase (booting 4 .selftest) 5 = true ∧ inPhase (booting 5 .selftest) 6 = true ∧ inPhase (booting 6 .linkup) 7 = true ∧
    (booting 5 .selftest).hamper.gens.length = 0 ∧ State.reset.phys.tripped = false := by decide +kernel
theorem test_powerOn : after (.powerOn none) State.reset (fun t => t.phys.mainOn && t.firm.phase == 1) = true ∧
    after (.powerOn (some .inputRange)) State.reset (fun t => !t.phys.mainOn && t.phys.p1cause == 0x11) = true ∧
    after (.powerOn (some (.rail 3))) State.reset (fun t => !t.phys.mainOn && t.phys.p1cause == 0x12 && t.phys.rail == 3) = true := by decide +kernel
theorem test_firmwareSlotVerify_none : after (.firmwareSlotVerify ⟨true, 64, 16⟩) (booting 1 .boot) (fun t => t.firm.cause == 0x22 && t.firm.failedPhase == 2 && t.firm.mode == 1) = true := by
  decide +kernel
theorem test_phase_3 : after .configurationLoad (booting 2 .selftest) (fun t => t.firm.phase == 3) = true := by decide +kernel
theorem test_failure_keeps_memory : after .discoveryTimeout { booting 7 .linkup with mem := { onchip := true, offchip := true } }
    (fun t => t.firm.mode == 1 && regionAt t 0 == .hbm) = true := by decide +kernel
theorem test_phase_4 : after (.startupMarch []) (booting 3 .selftest) (fun t => t.firm.phase == 4 && t.mem.onchip) = true := by decide +kernel
theorem test_phase_5 : after (.hbmTraining none []) (booting 4 .selftest) (fun t => t.firm.phase == 5 && t.mem.offchip) = true := by decide +kernel
theorem test_phase_6 : after (.hbmTraining (some 3) []) (booting 4 .selftest) (fun t => t.firm.cause == 0x51 && t.firm.detail == 3) = true := by decide +kernel
theorem test_phase_7 : after (.journalReplay 200 true) (booting 5 .selftest) (fun t => t.firm.phase == 6 && t.firm.state == .linkup && t.hamper.cap == 64) = true := by decide +kernel
theorem test_phase_8 : after (.journalReplay 199 false) (booting 5 .selftest) (fun t => t.firm.cause == 0x62) = true := by decide +kernel
theorem test_phase_9 : after (.fabricLinkTraining []) (booting 6 .linkup) (fun t => t.firm.phase == 7) = true := by decide +kernel
theorem test_phase_10 : after .phaseBoundExceeded (booting 2 .selftest) (fun t => t.firm.cause == 0xF1 && t.firm.failedPhase == 3) = true := by decide +kernel

theorem test_trips : after .flowTrip up (fun t => t.phys.tripFlow && !t.phys.mainOn && !t.phys.thermtripN && !smbAlertN t) = true ∧
    after .flowTrip (hot 0 0) (fun t => !t.phys.tripFlow && t.phys.mainOn) = true ∧
    after .thermalTrip up (fun t => t.phys.tripThermal && !t.phys.mainOn) = true ∧ after .powerTrip up (fun t => t.phys.tripPower && !t.phys.mainOn) = true := by decide +kernel
theorem test_resetNAssert : up.firm.held = false ∧ after .resetNAssert up (fun t => !t.phys.resetN && t.firm.held) = true := by decide +kernel
/-- The engines held by `RESET_N`. -/
def heldIn (resetN over_ : Bool) : State := { up with phys := { up.phys with resetN := resetN }, firm := { up.firm with held := true, holdOver := over_ } }
theorem test_resetHold : after .resetHoldExpiry (heldIn false false) (fun t => t.firm.holdOver && t.firm.held) = true ∧
    after .resetHoldExpiry (heldIn true false) (fun t => t.firm.state == .boot && t.firm.resetCause == 1 && !t.firm.held && t.prog.isNone) = true ∧
    after .resetNRelease (heldIn false true) (fun t => t.firm.resetCause == 1 && t.phys.resetN) = true ∧
    after .resetNRelease { State.reset with phys := { tripped := true } } (fun t => t.firm.resetCause == 6 && !t.phys.tripped) = true := by decide +kernel
/-- A mode 2 reset keeps device memory and the counter. -/
def idleUp : State := { up with prog := none, firm := { up.firm with state := .idle }, time := { fec := 77 }, mem := { up.mem with dev := [(5, 6)] } }
theorem witness_watchdog : idleUp.phys.mainOn = true ∧ 2 ≤ idleUp.firm.phase.toNat ∧ idleUp.prog = none ∧ itemsInFlight idleUp = false ∧ extentsInFlight idleUp = false ∧
    idleUp.firm.accepted.length = 0 ∧ idleUp.firm.taken.length = 0 ∧ idleUp.hamper.arm.isNone = true := by decide +kernel
theorem test_managementWatchdog : after .managementWatchdog idleUp (fun t => t.firm.state == .boot && t.firm.resetCause == 7 && t.firm.mode == 2 && t.mem.dev == [(5, 6)] && t.time.fec == 77) = true := by
  decide +kernel

/-! ### Commands of host software (R401-R412) -/

/-- `Accepts`, field by field. -/
def acceptsB (s : State) (c : CmdDef) (p : Packet) : Bool :=
  decide (p.payload.length ≤ 4064) && fwRuns s && c.len p.payload && addressFault s c p == none && !elsewhere s p && (absentUnit s (tgtOf p.path)).isNone &&
    timeFault s c p == none && !(isGroup (tgtOf p.path) && !anchorActs c) && (checkAt s c p (tgtOf p.path)).isNone && !p.flags.getLsbD 0 &&
    (heldLines s (cmdRanges s c p).1 (cmdRanges s c p).2).isEmpty && s.firm.draining.isNone
theorem accepts_of {s : State} {c : CmdDef} {p : Packet} (h : acceptsB s c p = true) : Accepts s c p := by
  simp only [acceptsB, Bool.and_eq_true, decide_eq_true_eq, beq_iff_eq, Bool.not_eq_true', Option.isNone_iff_eq_none, List.isEmpty_iff] at h
  obtain ⟨⟨⟨⟨⟨⟨⟨⟨⟨⟨⟨h1, h2⟩, h3⟩, h4⟩, h5⟩, h6⟩, h7⟩, h8⟩, h9⟩, h10⟩, h11⟩, h12⟩ := h
  exact ⟨h1, h2, h3, h4, h5, h6, h7, h8, h9, h10, h11, h12⟩

/-- A packet to a unit of the module, and the module in a device state. -/
def pk (level index : Nat) (payload : List Byte) : Packet := { packet0 with path := unitPath up level index, payload := payload }
def inState (st : DevState) : State := { up with firm := { up.firm with state := st } }
theorem witness_devStatus : acceptsB up cmdDevStatus (pk 0 0 []) = true ∧ FinalCommand .devStatus cmdDevStatus := ⟨by decide +kernel, by simp [FinalCommand]⟩
theorem test_devStatus : after (.devStatus (pk 0 0 [])) up (fun t => (t.vkx.replyQ.map fun x => (x.2.status, x.2.result.length)) == [(0, 1)] &&
    (t.firm.records.map fun r => (r.kind, r.who, r.number, r.reason)) == [(4, 7, 0x101, 0)]) = true := by decide +kernel
theorem test_refusals : after (.devStatus (pk 0 0 [1])) up (fun t => (t.vkx.replyQ.map fun x => (x.2.status, x.2.detail)) == [(3, refusal 20 3)]) = true ∧
    after (.devStatus (pk 2 0 [])) up (fun t => (t.vkx.replyQ.map fun x => (x.2.status, x.2.detail)) == [(4, refusal 0 6)]) = true ∧
    after (.faultClear (pk 0 0 [])) up (fun t => (t.vkx.replyQ.map fun x => (x.2.status, x.2.detail)) == [(5, BitVec.ofNat 64 (stateCode .running))]) = true ∧
    after (.devStatus { pk 0 0 [] with flags := 1 }) up (fun t => (t.vkx.replyQ.map fun x => (x.2.status, x.2.result)) == [(0, [])]) = true := by decide +kernel
/-- Tile 60 of a CKL-CT1-56 is absent, and the access is counted. -/
theorem test_absent : after (.debugResume (pk 2 60 [])) { up with grade := 2 } (fun t => (t.vkx.replyQ.map fun x => x.2.status) == [6] && t.firm.absent.length == 1) = true := by
  decide +kernel

theorem witness_program_commands : acceptsB (inState .loaded) cmdSyncWrite (pk 0 0 [0, 0, 0, 5, 9, 0]) = true ∧
    acceptsB (inState .faulted) cmdFaultClear (pk 0 0 []) = true ∧ acceptsB (inState .loaded) cmdProgStart (pk 0 0 []) = true ∧ acceptsB up cmdProgPause (pk 0 0 []) = true ∧
    acceptsB (modTile up 0 fun t => { t with loaded := some 0, carried := [0] }) cmdProgPause (pk 2 0 []) = true ∧ acceptsB (inState .paused) cmdProgResume (pk 0 0 []) = true ∧ acceptsB (inState .idle) cmdProgUnload (pk 0 0 []) = true ∧
    acceptsB (inState .loaded) cmdProgUnload (pk 0 0 []) = true ∧ acceptsB (inState .loaded) cmdArrayUnfence (pk 3 1 []) = true ∧
    acceptsB (inState .idle) cmdMarchRun (pk 0 0 (List.replicate 8 0 ++ [1, 0, 1])) = true ∧ AcceptedCommand .progStart cmdProgStart := by
  refine ⟨?_, ?_, ?_, ?_, ?_, ?_, ?_, ?_, ?_, ?_, by simp [AcceptedCommand]⟩ <;> decide +kernel
theorem test_syncWrite : after (.syncWrite (pk 0 0 [0, 0, 0, 5, 9, 0])) { inState .loaded with tiles := up.tiles } (fun t => ctrVal t 0 0 5 == 9 && ctrVal t 0 0 4 == 0) = true := by
  decide +kernel
theorem test_faultClear : after (.faultClear (pk 0 0 [])) (inState .faulted) (fun t => t.firm.state == .loaded && t.firm.ledger.length == 0) = true := by decide +kernel
theorem test_progStart : after (.progStart (pk 0 0 [])) (inState .loaded) (fun t => (t.firm.state == .running || t.firm.state == .loaded) &&
    (ctxOf t 0).f.run == .active && (ctxOf t 0).u.run == .active) = true := by decide +kernel
theorem test_progPause : after (.progPause (pk 0 0 [])) up (fun t => t.firm.pausing && t.firm.state == .running && t.firm.accepted.length == 1) = true := by decide +kernel
theorem test_progUnload : after (.progUnload (pk 0 0 [])) (inState .loaded) (fun t => t.firm.state == .idle && t.prog.isNone) = true := by decide +kernel
theorem test_arrayUnfence : after (.arrayUnfence (pk 3 1 [])) (modTile (inState .loaded) 0 fun t => { t with fenced := 3 }) (fun t => (tileAt t 0).fenced == 1) = true := by decide +kernel
theorem test_marchRun : after (.marchRun (pk 0 0 ([2] ++ List.replicate 7 0 ++ [0, 0, 1]))) (inState .idle) (fun t => (tileAt t 1).march.state == 1 && (tileAt t 0).march.state == 0) = true := by
  decide +kernel

theorem witness_module_commands : acceptsB up cmdMemWrite (pk 0 0 ([8, 0, 0, 0, 0, 0, 0, 0] ++ [1, 2])) = true ∧ acceptsB up cmdMemRead (pk 0 0 [8, 0, 0, 0, 0, 0, 0, 0, 2, 0, 0, 0]) = true ∧
    acceptsB (inState .idle) cmdGroupDefine (pk 0 0 ([3] ++ List.replicate 7 0 ++ natLe 8 (unitPath up 2 0).toNat)) = true ∧ acceptsB (inState .idle) cmdTimeSet (pk 0 0 [5, 0, 0, 0, 0, 0, 0, 0]) = true ∧
    acceptsB up cmdTimeCancel (pk 0 0 [1, 0, 0, 0]) = true ∧ acceptsB (inState .idle) cmdPortRetrain (pk 0 0 [1]) = true ∧ acceptsB (inState .idle) cmdDevReset (pk 0 0 [0]) = true ∧
    acceptsB (storing .idle { state := 1, gens := [(4, { state := .local_ })] }) cmdGenPin { packet0 with path := unitPath (pair up 0) 9 0, payload := [4, 0, 0, 0] } = true ∧
    acceptsB (pair up 0) cmdQuench { packet0 with path := unitPath (pair up 0) 12 1, payload := [0] } = true ∧
    acceptsB (pair up 0) cmdUnquench { packet0 with path := unitPath (pair up 0) 12 1 } = true := by decide +kernel
theorem test_memWrite : after (.memWrite (pk 0 0 ([8, 0, 0, 0, 0, 0, 0, 0] ++ [1, 2]))) up (fun t => t.mem.dev == [(8, 1), (9, 2)]) = true ∧
    after (.memRead (pk 0 0 [8, 0, 0, 0, 0, 0, 0, 0, 2, 0, 0, 0])) { up with mem := { up.mem with dev := [(8, 1)] } } (fun t => (t.vkx.replyQ.map fun x => x.2.data) == [[1, 0]]) = true := by
  decide +kernel
theorem test_groupDefine : after (.groupDefine (pk 0 0 ([3] ++ List.replicate 7 0 ++ natLe 8 (unitPath up 2 0).toNat))) (inState .idle) (fun t => rd [] t.firm.groups 3 == [unitPath up 2 0]) = true := by
  decide +kernel
theorem test_timeSet : after (.timeSet (pk 0 0 [5, 0, 0, 0, 0, 0, 0, 0])) { inState .idle with time := { fec := 7 } } (fun t => t.time.given && t.time.fec == 5000000007) = true := by decide +kernel
theorem test_genPin : after (.genPin { packet0 with path := unitPath (pair up 0) 9 0, payload := [4, 0, 0, 0] }) (storing .idle { state := 1, gens := [(4, { state := .local_ })] })
    (fun t => t.hamper.gens.map (fun g => g.2.pinned) == [true]) = true := by decide +kernel
theorem test_quench : after (.quench { packet0 with path := unitPath (pair up 0) 12 1, payload := [0] }) (pair up 0) (fun t => t.fab.quench.on && t.fab.quench.number == 1) = true := by decide +kernel
theorem test_devReset : after (.devReset (pk 0 0 [0])) (inState .idle) (fun t => t.firm.resetTag.isSome && t.firm.state == .boot) = true := by decide +kernel
/-- A slice of one module, at which a checkpoint is armed. -/
def lone : State := let s := pair up 0; { s with fab := { s.fab with slices := [⟨1, [0, 0, 0, 0], [1, 1, 1, 1]⟩] }, hamper := { state := 1 }, prog := some { p := 1, trees := [⟨true, [1]⟩] } }
def armPacket : Packet := { packet0 with path := unitPath lone 12 1, payload := [0xFF, 0, 0, 0, 0, 0, 0, 0] }
theorem witness_slice_command : membersOf lone (tgtOf armPacket.path) = [(0, tgtOf armPacket.path)] ∧ memberHere lone 0 = true ∧ memberCheck lone cmdHamperArm armPacket (tgtOf armPacket.path) = none ∧
    addressFault lone cmdHamperArm armPacket = none ∧ elsewhere lone armPacket = false ∧ lone.firm.gathers.length = 0 := by decide +kernel

theorem witness_later : acceptedOf (commanded 0x0407 [1]) 0x0407 = some (hostCmd 0x0407 [1]) ∧ (hostCmd 0x0407 [1]).p.route ≠ .fabric (commanded 0x0407 [1]).fab.node ∧
    acceptedTag (commanded 0x0302 []) 0x0302 9 = some (hostCmd 0x0302 []) := by decide +kernel
theorem test_pauseDrainDone : after .pauseDrainDone { commanded 0x0202 [] .running with firm := { (commanded 0x0202 [] .running).firm with pausing := true } }
    (fun t => t.firm.state == .paused && !t.firm.pausing) = true := by decide +kernel
theorem test_memCopyDone : after (.memCopyDone 9) { commanded 0x0302 (natLe 8 8 ++ natLe 8 64 ++ natLe 8 2) with mem := { up.mem with dev := [(8, 1), (9, 2)] } }
    (fun t => t.mem.dev == [(8, 1), (9, 2), (64, 1), (65, 2)] && t.firm.accepted.length == 0) = true := by decide +kernel
theorem test_portRetrainComplete : after (.portRetrainComplete []) (commanded 0x0407 [1]) (fun t => (portAt t 0).state == 1 && t.firm.accepted.length == 0) = true := by decide +kernel
theorem test_ledgerDrainTimeout : after .ledgerDrainTimeout up (fun t => t.firm.state == .running) = true := by decide +kernel

/-! ### The whole machine -/

theorem witness_grade : GradeLegal State.reset ∧ step State.reset = .next (tick State.reset) ∧ State.reset.pending = [] := ⟨.inl rfl, rfl, rfl⟩
theorem test_grades : tilesOn { up with grade := 2 } = 56 ∧ clustersOn { up with grade := 2 } = 14 ∧ portsOn { up with grade := 3 } = 6 ∧ axesOn { up with grade := 3 } = 3 := by decide +kernel
theorem test_hamperArm : after (.hamperArm armPacket) lone (fun t => t.hamper.arm.map (fun a => (a.tag, a.buddy, a.mirror, a.exported, a.gen)) == some (7, 0xFF, false, false, none)) = true := by
  decide +kernel

end Sys2Proof.Tests
end

section
/-! The fuses and the grade (R1, R7): every meaning answers through `done`, which puts the fuses of the state before back, and the
passing of time writes none of them. -/

namespace Sys2Proof.Machine

/-! ### What a step does to the fuses -/

/-- Whatever a meaning makes of the state, the state that `done` answers holds the fuses of the state before. -/
theorem sameFuses_of_done {s s' t : State} (h : done s s' = .next t) : SameFuses s t := by
  cases h
  exact ⟨rfl, rfl, rfl⟩

/-- Each of the 330 meanings is, once its name unfolds, a `done` on its own state: none answers past it, faults or refuses. -/
theorem exec_eq_done (c : Instr) (s : State) : ∃ s', exec c s = done s s' := by
  cases c <;> exact ⟨_, rfl⟩

theorem exec_sameFuses {c : Instr} {s t : State} (h : exec c s = .next t) : SameFuses s t := by
  obtain ⟨s', hs'⟩ := exec_eq_done c s
  exact sameFuses_of_done (hs' ▸ h)

theorem tick_sameFuses (s : State) : SameFuses s (tick s) := ⟨rfl, rfl, rfl⟩

/-- The invariant as a step lemma; it needs nothing of the state it starts from. -/
theorem step_sameFuses {s t : State} (h : step s = .next t) : SameFuses s t := by
  unfold step at h
  split at h
  case h_1 =>
    cases h
    exact tick_sameFuses s
  case h_2 _ rest _ => exact exec_sameFuses (s := { s with pending := rest }) h

/-! ### What a grade enables (R1) -/

theorem GradeLegal.of_sameFuses {s t : State} (hs : GradeLegal s) (h : SameFuses s t) : GradeLegal t := by
  obtain ⟨hgrade, -, -⟩ := h
  rwa [GradeLegal, hgrade]

/-- The CKL-CT1-64Q: no unit is fused off. -/
theorem enabled_of_grade_one {s : State} (h : s.grade = 1) :
    tilesOn s = 64 ∧ clustersOn s = 16 ∧ portsOn s = 8 ∧ axesOn s = 4 := by
  simp [tilesOn, clustersOn, portsOn, axesOn, h]

/-- The CKL-CT1-56Q: two whole clusters of four tiles are fused off (R2). -/
theorem enabled_of_grade_two {s : State} (h : s.grade = 2) :
    tilesOn s = 56 ∧ clustersOn s = 14 ∧ portsOn s = 8 ∧ axesOn s = 4 := by
  simp [tilesOn, clustersOn, portsOn, axesOn, h]

/-- The CKL-CT1-64T: the two ports and the engine of the W axis are fused off (R3). -/
theorem enabled_of_grade_three {s : State} (h : s.grade = 3) :
    tilesOn s = 64 ∧ clustersOn s = 16 ∧ portsOn s = 6 ∧ axesOn s = 3 := by
  simp [tilesOn, clustersOn, portsOn, axesOn, h]

end Sys2Proof.Machine

open Sys2Proof.Machine in
/-- Settles O58: every step keeps the fuses, because all 330 meanings answer through `done`; the legal grade and the counts that the
table of R1 gives it go with them. -/
theorem stepKeepsTheGrade : Obligations.StepKeepsTheGrade := by
  intro s t hs hstep
  have hfuses : SameFuses s t := step_sameFuses hstep
  exact ⟨hs.of_sameFuses hfuses, hfuses, enabled_of_grade_one, enabled_of_grade_two, enabled_of_grade_three⟩
end

section
/-! The registers that show seals and sync counters (R163, R350): where each stands, what its fields read, and that no write reaches it. -/

namespace Sys2Proof.Machine

/-! ### A word of equal fields -/

/-- The number whose `n` fields of `b` bits are `f`: what `word` packs before it cuts to 64 bits. -/
def packed (b : Nat) (f : Nat → Nat) (n : Nat) : Nat :=
  ((List.range n).map fun i => (f i, b * i)).foldl (fun m x => m + x.1 * 2 ^ x.2) 0

theorem packed_succ (b : Nat) (f : Nat → Nat) (n : Nat) : packed b f (n + 1) = packed b f n + f n * 2 ^ (b * n) := by
  simp [packed, List.range_succ]

theorem packed_lt {b : Nat} {f : Nat → Nat} (hf : ∀ i, f i < 2 ^ b) (n : Nat) : packed b f n < 2 ^ (b * n) := by
  induction n with
  | zero => simp [packed]
  | succ n ih =>
    have hfn : (f n + 1) * 2 ^ (b * n) ≤ 2 ^ b * 2 ^ (b * n) := Nat.mul_le_mul_right _ (hf n)
    rw [packed_succ, Nat.mul_succ, Nat.pow_add, Nat.mul_comm (2 ^ (b * n))]
    rw [Nat.succ_mul] at hfn
    omega

theorem bitsN_packed {b : Nat} {f : Nat → Nat} (hf : ∀ i, f i < 2 ^ b) {n k : Nat} (hk : k < n) :
    bitsN (packed b f n) (b * k) b = f k := by
  unfold bitsN
  induction n with
  | zero => omega
  | succ n ih =>
    rw [packed_succ]
    rcases Nat.lt_succ_iff_lt_or_eq.mp hk with hlt | rfl
    · -- the field above lies a multiple of 2 ^ b higher
      obtain ⟨d, rfl⟩ := Nat.exists_eq_add_of_lt hlt
      have hpow : f (k + d + 1) * 2 ^ (b * (k + d + 1)) = f (k + d + 1) * 2 ^ (b * d) * 2 ^ b * 2 ^ (b * k) := by
        rw [show b * (k + d + 1) = b * d + b + b * k by ring, Nat.pow_add, Nat.pow_add]
        ring
      rw [hpow, Nat.add_mul_div_right _ _ (Nat.two_pow_pos _), Nat.add_mul_mod_self_right]
      exact ih hlt
    · rw [Nat.add_mul_div_right _ _ (Nat.two_pow_pos _), Nat.div_eq_of_lt (packed_lt hf k), Nat.zero_add,
        Nat.mod_eq_of_lt (hf k)]

/-- The fields of a register that `word` packs from `n` of `b` bits read back. -/
theorem bitsN_word {b n : Nat} (hbn : b * n = 64) {f : Nat → Nat} (hf : ∀ i, f i < 2 ^ b) {k : Nat} (hk : k < n) :
    bitsN (word ((List.range n).map fun i => (f i, b * i))).toNat (b * k) b = f k := by
  have hlt : packed b f n < 2 ^ 64 := hbn ▸ packed_lt hf n
  rw [show word ((List.range n).map fun i => (f i, b * i)) = BitVec.ofNat 64 (packed b f n) from rfl, BitVec.toNat_ofNat,
    Nat.mod_eq_of_lt hlt]
  exact bitsN_packed hf hk

theorem bitsN_fourCounters (t : Table (BitVec 16)) (m : Nat) {k : Nat} (hk : k < 4) :
    bitsN (fourCounters t m).toNat (16 * k) 16 = (rd 0 t (m + k)).toNat :=
  bitsN_word rfl (f := fun i => (rd 0 t (m + i)).toNat) (fun i => (rd 0 t (m + i)).isLt) hk

@[simp] theorem fourCounters_nil (m : Nat) : fourCounters [] m = 0 := by
  simp [fourCounters, word, rd, List.range_succ]

/-! ### The registers of R163 and R350 -/

/-- The sixteen seals that `TILE.SEALSr` shows while a context is loaded (R163). -/
def sealWord (x : Tile) (r : Nat) : Word := word ((List.range 16).map fun i => ((rd 0 x.ctx.seals (16 * r + i)).toNat, 4 * i))

theorem bitsN_sealWord (x : Tile) (r : Nat) {k : Nat} (hk : k < 16) :
    bitsN (sealWord x r).toNat (4 * k) 4 = (rd 0 x.ctx.seals (16 * r + k)).toNat :=
  bitsN_word rfl (f := fun i => (rd 0 x.ctx.seals (16 * r + i)).toNat) (fun i => (rd 0 x.ctx.seals (16 * r + i)).isLt) hk

/-- In the block of an enabled tile the tile's registers answer (R258). -/
theorem regAt_tile {s : State} {t o : Nat} (ht : t < tilesOn s) (h8 : o % 8 = 0) (ho : o < 0x10000) :
    regAt s (0x1000000 + 0x10000 * t + o) = regRes (tileReg s t o) := by
  have ht64 : t < 64 := by unfold tilesOn at ht; split at ht <;> omega
  have hdiv : (0x1000000 + 0x10000 * t + o - 0x1000000) / 0x10000 = t := by omega
  have hmod : (0x1000000 + 0x10000 * t + o) % 0x10000 = o := by omega
  unfold regAt
  iterate 15 rw [if_neg (by omega)]
  rw [if_pos (by omega), hdiv, hmod]
  exact if_neg (by omega)

theorem tileReg_seals (s : State) (t : Nat) {r : Nat} (hr : r < 64) :
    tileReg s t (0x1000 + 8 * r) = some (if (tileAt s t).loaded.isNone then 0 else sealWord (tileAt s t) r) := by
  have hoff : 2 * (0x1000 + 8 * r - 0x1000) = 16 * r := by omega
  unfold tileReg
  simp only [decide_eq_true_eq]
  iterate 9 rw [if_neg (by omega)]
  rw [if_pos (by omega), hoff]
  rfl

theorem tileReg_sync (s : State) (t : Nat) {r : Nat} (hr : r < 16) :
    tileReg s t (0x700 + 8 * r) =
      some (if (tileAt s t).loaded.isNone then 0 else fourCounters (tileAt s t).ctx.sync (4 * r)) := by
  have hoff : (0x700 + 8 * r - 0x700) / 2 = 4 * r := by omega
  unfold tileReg
  simp only [decide_eq_true_eq]
  iterate 8 rw [if_neg (by omega)]
  rw [if_pos (by omega), hoff]

theorem regAt_clusterSync (s : State) {pc r : Nat} (hpc : pc < 128) (hr : r < 8) :
    regAt s (0x960000 + 0x40 * pc + 8 * r) = .value (fourCounters s.cluster (32 * pc + 4 * r)) := by
  have hoff : (0x960000 + 0x40 * pc + 8 * r - 0x960000) / 2 = 32 * pc + 4 * r := by omega
  unfold regAt
  iterate 10 rw [if_neg (by omega)]
  rw [if_pos (by omega), hoff]

theorem regAt_dieSync (s : State) {r : Nat} (hr : r < 16) :
    regAt s (0x964000 + 8 * r) = .value (fourCounters s.dieSync (4 * r)) := by
  have hoff : (0x964000 + 8 * r - 0x964000) / 2 = 4 * r := by omega
  unfold regAt
  iterate 11 rw [if_neg (by omega)]
  rw [if_pos (by omega), hoff]

/-! ### None of them can be written (R259) -/

theorem regWrite_readOnly {s : State} {o : Nat} {v w : Word} (hr : regAt s o = .value w) (hp : putReg s o v = none) :
    (regWrite s o v).1 = s := by
  simp [regWrite, hr, hp]

theorem putReg_tile (s : State) (t : Nat) {o : Nat} (v : Word) (ho : o < 0x10000) :
    putReg s (0x1000000 + 0x10000 * t + o) v = tileWrite s t o v := by
  have hdiv : (0x1000000 + 0x10000 * t + o - 0x1000000) / 0x10000 = t := by omega
  have hmod : (0x1000000 + 0x10000 * t + o) % 0x10000 = o := by omega
  unfold putReg
  rw [if_pos (by omega), hdiv, hmod]

/-- From the counters of a tile's block on, no register of it can be written. -/
theorem tileWrite_readOnly (s : State) (t : Nat) {o : Nat} (v : Word) (ho : 0x700 ≤ o) : tileWrite s t o v = none := by
  unfold tileWrite
  iterate 6 rw [if_neg (by omega)]

/-- The counters of clusters and the die lie in a range of which nothing can be written. -/
theorem putReg_sync (s : State) {o : Nat} (v : Word) (hlo : 0x960000 ≤ o) (hhi : o < 0x970000) : putReg s o v = none := by
  unfold putReg
  iterate 4 rw [if_neg (by omega)]
  split
  case h_7 => rfl
  all_goals omega

/-! ### What a register shows -/

/-- A register whose `n` fields of `bits` bits are `f`, and which takes no write. -/
def ShowsFields (s : State) (o bits n : Nat) (f : Nat → Nat) : Prop :=
  (∃ w : BitVec 64, regAt s o = .value w ∧ ∀ k < n, bitsN w.toNat (bits * k) bits = f k) ∧ ∀ v, (regWrite s o v).1 = s

theorem ShowsFields.of_readOnly {s : State} {o bits n : Nat} {f : Nat → Nat} {w : Word} (hr : regAt s o = .value w)
    (hf : ∀ k < n, bitsN w.toNat (bits * k) bits = f k) (hp : ∀ v, putReg s o v = none) : ShowsFields s o bits n f :=
  ⟨⟨w, hr, hf⟩, fun v => regWrite_readOnly hr (hp v)⟩

/-- A register of a tile whose fields show the loaded context, and zero while there is none (R163, R350). -/
theorem tile_showsFields {s : State} {t o bits n : Nat} {f : Nat → Nat} {w : Word} (ht : t < tilesOn s) (h8 : o % 8 = 0)
    (hlo : 0x700 ≤ o) (hhi : o < 0x10000)
    (hr : tileReg s t o = some (if (tileAt s t).loaded.isNone then 0 else w))
    (hf : ∀ k < n, bitsN w.toNat (bits * k) bits = f k) :
    ShowsFields s (0x1000000 + 0x10000 * t + o) bits n fun k => if (tileAt s t).loaded.isSome then f k else 0 := by
  refine .of_readOnly (by rw [regAt_tile ht h8 hhi, hr]; rfl) (fun k hk => ?_)
    fun v => by rw [putReg_tile s t v hhi, tileWrite_readOnly s t v hlo]
  cases h : (tileAt s t).loaded with
  | none => simp [bitsN]
  | some p => simpa using hf k hk

/-- `TILE.SEALSr` (R163). -/
theorem tileSeals_showsFields {s : State} {t r : Nat} (ht : t < tilesOn s) (hr : r < 64) :
    ShowsFields s (0x1000000 + 0x10000 * t + 0x1000 + 8 * r) 4 16 fun k =>
      if (tileAt s t).loaded.isSome then (rd 0 (tileAt s t).ctx.seals (16 * r + k)).toNat else 0 := by
  rw [Nat.add_assoc]
  exact tile_showsFields ht (by omega) (by omega) (by omega) (tileReg_seals s t hr) fun _ hk => bitsN_sealWord _ r hk

/-- `TILE.SYNCr` (R350). -/
theorem tileSync_showsFields {s : State} {t r : Nat} (ht : t < tilesOn s) (hr : r < 16) :
    ShowsFields s (0x1000000 + 0x10000 * t + 0x700 + 8 * r) 16 4 fun k =>
      if (tileAt s t).loaded.isSome then (rd 0 (tileAt s t).ctx.sync (4 * r + k)).toNat else 0 := by
  rw [Nat.add_assoc]
  exact tile_showsFields ht (by omega) (by omega) (by omega) (tileReg_sync s t hr) fun _ hk => bitsN_fourCounters _ _ hk

/-- The `SYNCr` registers of a cluster (R350). -/
theorem clusterSync_showsFields (s : State) {pc r : Nat} (hpc : pc < 128) (hr : r < 8) :
    ShowsFields s (0x960000 + 0x40 * pc + 8 * r) 16 4 fun k => ctrVal s 1 pc (4 * r + k) := by
  refine .of_readOnly (regAt_clusterSync s hpc hr) (fun k hk => ?_) fun v => putReg_sync s v (by omega) (by omega)
  rw [bitsN_fourCounters _ _ hk, Nat.add_assoc]
  rfl

/-- The `SYNCr` registers of the die (R350). -/
theorem dieSync_showsFields (s : State) {r : Nat} (hr : r < 16) :
    ShowsFields s (0x964000 + 8 * r) 16 4 fun k => ctrVal s 2 0 (4 * r + k) :=
  .of_readOnly (regAt_dieSync s hr) (fun _ hk => bitsN_fourCounters _ _ hk) fun v => putReg_sync s v (by omega) (by omega)

/-- At reset no tile carries a context, so the registers of its block that show one read zero. -/
theorem regAt_reset_tile {t o : Nat} {w : Word} (ht : t < 64) (h8 : o % 8 = 0) (ho : o < 0x10000)
    (hr : tileReg .reset t o = some (if (tileAt .reset t).loaded.isNone then 0 else w)) :
    regAt .reset (0x1000000 + 0x10000 * t + o) = .value 0 := by
  rw [regAt_tile ht h8 ho, hr]
  rfl

end Sys2Proof.Machine

open Sys2Proof.Machine in
/-- Settles O46: each register's offset leads to its word, whose fields are the seals or counters in turn, and no write reaches any of
them. -/
theorem sealAndCounterRegisters : Obligations.SealAndCounterRegisters := by
  refine ⟨?tiles, fun s => ⟨fun pc hpc r hr => clusterSync_showsFields s hpc hr, fun r hr => dieSync_showsFields s hr⟩,
    ?resetTiles, ?resetClusters, ?resetDie⟩
  case tiles =>
    rintro s t ht _ rfl
    exact ⟨fun r hr => tileSeals_showsFields ht hr, fun r hr => tileSync_showsFields ht hr⟩
  case resetTiles =>
    refine fun t ht => ⟨fun r hr => ?_, fun r hr => ?_⟩
    · dsimp only
      rw [Nat.add_assoc]
      exact regAt_reset_tile ht (by omega) (by omega) (tileReg_seals _ t hr)
    · dsimp only
      rw [Nat.add_assoc]
      exact regAt_reset_tile ht (by omega) (by omega) (tileReg_sync _ t hr)
  case resetClusters =>
    intro pc hpc r hr
    exact (regAt_clusterSync _ hpc hr).trans (congrArg _ (fourCounters_nil _))
  case resetDie =>
    intro r hr
    exact (regAt_dieSync _ hr).trans (congrArg _ (fourCounters_nil _))
end

section
/-! The seal checks (R147, R148): what a page's seal and its uses in flight make of a consumer and of a producer, and how an operand that
passes joins those uses. -/

namespace Sys2Proof.Machine

/-! ### The order of seals (R18) -/

/-- Modular order at the width of a seal: 1 to 7 behind. -/
theorem precedes_four_iff {a b : Nat} (ha : a < 16) :
    precedes 4 a b = true ↔ 1 ≤ (b + 16 - a) % 16 ∧ (b + 16 - a) % 16 ≤ 7 := by
  have ha' : a % 2 ^ 4 = a := Nat.mod_eq_of_lt ha
  simp only [precedes, ha', Bool.and_eq_true, decide_eq_true_eq]
  norm_num
  omega

theorem sealOf_lt (s : State) (p page : Nat) : sealOf s p page < 16 := (rd 0 (ctxOf s p).seals page).isLt

/-- The reason for a seal `g` where `want` is due: not yet stamped when it precedes it, else overwritten. -/
def sealReason (g want : Nat) : Nat := if precedes 4 g want then 0x05 else 0x06

theorem sealReason_of_behind {g want : Nat} (hg : g < 16) (h1 : 1 ≤ (want + 16 - g) % 16) (h7 : (want + 16 - g) % 16 ≤ 7) :
    sealReason g want = 0x05 := if_pos ((precedes_four_iff hg).mpr ⟨h1, h7⟩)

theorem sealReason_of_ahead {g want : Nat} (hg : g < 16) (h8 : 8 ≤ (want + 16 - g) % 16) : sealReason g want = 0x06 :=
  if_neg fun h => by have := (precedes_four_iff hg).mp h; omega

/-! ### A consumer's check (R147) -/

theorem consumerCheck_of_eq {s : State} {p page named : Nat} (slot : Nat) (h : sealOf s p page = named) :
    (consumerCheck s p slot named page).bad = !(usesOf s p page true).isEmpty ∧
      (consumerCheck s p slot named page).reason = 0x06 := by
  simp [consumerCheck, h]

theorem consumerCheck_of_ne {s : State} {p page named : Nat} (slot : Nat) (h : sealOf s p page ≠ named) :
    (consumerCheck s p slot named page).bad = true ∧
      (consumerCheck s p slot named page).reason = sealReason (sealOf s p page) named := by
  simp [consumerCheck, h, sealReason]

theorem consumerCheck_of_behind {s : State} {p page named : Nat} (slot : Nat) (h1 : 1 ≤ (named + 16 - sealOf s p page) % 16)
    (h7 : (named + 16 - sealOf s p page) % 16 ≤ 7) :
    (consumerCheck s p slot named page).bad = true ∧ (consumerCheck s p slot named page).reason = 0x05 :=
  sealReason_of_behind (sealOf_lt s p page) h1 h7 ▸ consumerCheck_of_ne slot (by omega)

theorem consumerCheck_of_ahead {s : State} {p page named : Nat} (slot : Nat) (h8 : 8 ≤ (named + 16 - sealOf s p page) % 16) :
    (consumerCheck s p slot named page).bad = true ∧ (consumerCheck s p slot named page).reason = 0x06 :=
  sealReason_of_ahead (sealOf_lt s p page) h8 ▸ consumerCheck_of_ne slot (by omega)

/-! ### A producer's check (R148) -/

theorem producerCheck_of_consumers {s : State} {p page : Nat} (slot named : Nat) (skip : Bool) (h : usesOf s p page false ≠ []) :
    (producerCheck s p slot named skip page).bad = true ∧ (producerCheck s p slot named skip page).reason = 0x06 := by
  simp [producerCheck, h]

theorem producerCheck_of_producers {s : State} {p page : Nat} (slot named : Nat) (skip : Bool) (hc : usesOf s p page false = [])
    (hp : usesOf s p page true ≠ []) :
    (producerCheck s p slot named skip page).bad = true ∧ (producerCheck s p slot named skip page).reason = 0x05 := by
  simp [producerCheck, hc, hp]

section
variable {s : State} {p page named : Nat} (slot : Nat) (hc : usesOf s p page false = []) (hp : usesOf s p page true = [])
include hc hp

/-- On a page that nobody uses the predecessor rule decides. -/
theorem producerCheck_of_unused :
    (producerCheck s p slot named false page).bad = decide (sealOf s p page ≠ (named + 15) % 16) ∧
      (producerCheck s p slot named false page).reason = sealReason (sealOf s p page) ((named + 15) % 16) := by
  simp [producerCheck, hc, hp, sealReason]

theorem producerCheck_of_predecessor (h : sealOf s p page = (named + 15) % 16) :
    (producerCheck s p slot named false page).bad = false := by
  simp [producerCheck_of_unused slot hc hp, h]

theorem producerCheck_of_ne (h : sealOf s p page ≠ (named + 15) % 16) :
    (producerCheck s p slot named false page).bad = true ∧
      (producerCheck s p slot named false page).reason = sealReason (sealOf s p page) ((named + 15) % 16) := by
  simp [producerCheck_of_unused slot hc hp, h]

theorem producerCheck_of_behind (h1 : 1 ≤ ((named + 15) % 16 + 16 - sealOf s p page) % 16)
    (h7 : ((named + 15) % 16 + 16 - sealOf s p page) % 16 ≤ 7) :
    (producerCheck s p slot named false page).bad = true ∧ (producerCheck s p slot named false page).reason = 0x05 :=
  sealReason_of_behind (sealOf_lt s p page) h1 h7 ▸ producerCheck_of_ne slot hc hp (by omega)

theorem producerCheck_of_ahead (h8 : 8 ≤ ((named + 15) % 16 + 16 - sealOf s p page) % 16) :
    (producerCheck s p slot named false page).bad = true ∧ (producerCheck s p slot named false page).reason = 0x06 :=
  sealReason_of_ahead (sealOf_lt s p page) h8 ▸ producerCheck_of_ne slot hc hp (by omega)

end

/-! ### Uses in flight (R149) -/

/-- An operand's use of a page, by its item. -/
def useOf (s : State) (owner : Nat) (st : Stream) (seq : BitVec 32) (cend : Option Nat) (o : Operand) (page : Nat) : PageUse :=
  { ptile := o.ptile, owner := owner, page := BitVec.ofNat 10 page, producer := o.producer, sealed := BitVec.ofNat 4 o.named,
    stream := st, seq := seq, issued := s.time.cycle, until_ := if o.producer then none else cend }

/-- An operand that registers is in flight on each of its pages, a consumer as long as its end lies ahead. -/
theorem useOf_mem_usesOf_register {s : State} (owner : Nat) (st : Stream) (seq : BitVec 32) {cend : Option Nat} {o : Operand}
    {page : Nat} (hlt : page < 1024) (hpage : page ∈ pagesOf o.ranges) (hend : ∀ e ∈ cend, s.time.cycle < e) :
    useOf s owner st seq cend o page ∈ usesOf (register s owner st seq cend [o]) o.ptile page o.producer := by
  have hpages : (tileAt (register s owner st seq cend [o]) (devTile s o.ptile)).pages =
      (tileAt s (devTile s o.ptile)).pages ++ (pagesOf o.ranges).map (useOf s owner st seq cend o) := by
    rw [register, List.foldl_cons, List.foldl_nil, tileAt_modTile_same]; rfl
  have hmem : useOf s owner st seq cend o page ∈ (tileAt (register s owner st seq cend [o]) (devTile s o.ptile)).pages :=
    hpages ▸ List.mem_append_right _ (List.mem_map_of_mem hpage)
  refine List.mem_filter.mpr ⟨hmem, ?_⟩
  have hpg : page % 1024 = page := Nat.mod_eq_of_lt hlt
  have htime : (register s owner st seq cend [o]).time = s.time := rfl
  cases hp : o.producer with
  | true => simp [useOf, hpg, hp]
  | false =>
    cases cend with
    | none => simp [useOf, hpg, hp]
    | some e => simpa [useOf, hpg, hp, htime] using hend e rfl

end Sys2Proof.Machine

open Sys2Proof.Machine in
/-- Settles O8: the seal that is found and the uses in flight decide each check, a seal that is not the one due by whether it lies 1 to 7
behind it. -/
theorem pagesAreCheckedBySeals : Obligations.PagesAreCheckedBySeals := by
  intro s p slot n page _
  refine ⟨fun heq hprod => ?_, fun heq hprod => ?_, consumerCheck_of_behind slot, consumerCheck_of_ahead slot,
    producerCheck_of_consumers slot n false, producerCheck_of_producers slot n false, fun hcon hprod => ?_, ?uses⟩
  · simp [consumerCheck_of_eq slot heq, hprod]
  · simp [consumerCheck_of_eq slot heq, hprod]
  · exact ⟨producerCheck_of_predecessor slot hcon hprod, producerCheck_of_behind slot hcon hprod,
      producerCheck_of_ahead slot hcon hprod⟩
  case uses =>
    rintro owner st seq cend o rfl hlt hpage hend
    exact ⟨_, useOf_mem_usesOf_register owner st seq hlt hpage hend, rfl, rfl, rfl, BitVec.toNat_ofNat ..⟩
end

section
/-! The issue of an instruction that acts on its own stream alone: what it leaves as before. -/

namespace Sys2Proof.Machine

/-! ### Contexts without their streams -/

/-- A context but for its streams. -/
def streamless (c : Context) : Context := { c with f := {}, b := {}, u := {} }

@[simp] theorem streamless_ctxPut (c : Context) (st : Stream) (x : StreamCtx) : streamless (ctxPut c st x) = streamless c := by
  cases st <;> rfl

theorem streamless_tickTile (s : State) (d : Nat) (t : Tile) : streamless (tickTile s d t).ctx = streamless t.ctx := by
  obtain ⟨-, -, -, h | h⟩ := tickTile_keeps s d t <;> rw [h]
  rfl

/-- What neither time nor the end of a page's use touches of a tile is before an issue as it was. -/
theorem beforeIssue_keeps {α : Type} (g : Tile → α) (hpages : ∀ (t : Tile) us, g { t with pages := us } = g t)
    (htime : ∀ s d t, g (tickTile s d t) = g t) (s : State) (i : Issue) (n : Nat) :
    g (tileAt (beforeIssue s i) n) = g (tileAt s n) := by
  obtain ⟨us, h⟩ := tileAt_pruneUses (toCycle s (slotOf s i)) n
  rw [beforeIssue, h, hpages]
  unfold toCycle
  split
  · rfl
  · rw [tileAt_advance, htime]

theorem streamless_beforeIssue (s : State) (i : Issue) (n : Nat) :
    streamless (tileAt (beforeIssue s i) n).ctx = streamless (tileAt s n).ctx :=
  beforeIssue_keeps (fun t => streamless t.ctx) (fun _ _ => rfl) streamless_tickTile s i n

/-- Time leaves the halt record. -/
theorem tickTile_halt (s : State) (d : Nat) (t : Tile) : (tickTile s d t).halt = t.halt := by
  have hunits : (runUnits s.time.cycle d t).halt = t.halt :=
    runUnits_keeps (·.halt) (stepUnits_keeps (·.halt) fun _ _ _ _ _ => rfl) s.time.cycle d t
  have hwaits (run : Bool) (t : Tile) : (tickWaits d run t).halt = t.halt := by unfold tickWaits; split <;> rfl
  unfold tickTile
  dsimp only
  split
  · exact hunits
  · split
    · exact (hwaits _ _).trans hunits
    · exact (hwaits _ _).trans hunits

theorem beforeIssue_halt (s : State) (i : Issue) (n : Nat) : (tileAt (beforeIssue s i) n).halt = (tileAt s n).halt :=
  beforeIssue_keeps (·.halt) (fun _ _ => rfl) tickTile_halt s i n

/-! ### What only the stream that issues sees -/

/-- What the frames of a step that acts on one stream ask for: memory, every context but for the streams, the other streams and the shared
state are as before. -/
structure StreamFrame (s t : State) (tile : Nat) (st : Stream) : Prop where
  grade  : t.grade = s.grade
  saved  : t.saved = s.saved
  mem    : t.mem = s.mem
  shared : SameShared s t
  others : OtherStreams s t tile st
  loaded : ∀ n, (tileAt t n).loaded = (tileAt s n).loaded
  ctx    : ∀ n, streamless (tileAt t n).ctx = streamless (tileAt s n).ctx

theorem StreamFrame.sameStorage {s t : State} {tile : Nat} {st : Stream} (h : StreamFrame s t tile st) : SameStorage s t := by
  have hdev (p : Nat) : devTile t p = devTile s p := by simp only [devTile, tilesOn, h.grade]
  have hctx (p : Nat) : streamless (ctxOf t p) = streamless (ctxOf s p) := by
    simp only [ctxOf, hdev, h.loaded, h.saved]
    split
    · exact h.ctx _
    · rfl
  have hsp (p : Nat) : (ctxOf t p).sp = (ctxOf s p).sp := congrArg (·.sp) (hctx p)
  have hseals (p : Nat) : (ctxOf t p).seals = (ctxOf s p).seals := congrArg (·.seals) (hctx p)
  exact ⟨by rw [h.mem], by rw [h.mem], fun p => ⟨fun a => by rw [hsp], fun g => by rw [sealOf, hseals, sealOf]⟩⟩

theorem StreamFrame.onlyStream {s t : State} {tile : Nat} {st : Stream} (h : StreamFrame s t tile st) : OnlyStream s t tile st :=
  ⟨h.others, fun n => ⟨congrArg (·.v) (h.ctx n), congrArg (·.sync) (h.ctx n), congrArg (·.clove) (h.ctx n)⟩⟩

/-- What `done` puts back into the state that it answers is no part of the frame. -/
theorem StreamFrame.done {s u : State} {tile : Nat} {st : Stream} (h : StreamFrame s u tile st) :
    ∃ t, Machine.done s u = .next t ∧ StreamFrame s t tile st ∧ strm t tile st = strm u tile st :=
  ⟨_, rfl, ⟨rfl, h.saved, h.mem, h.shared, h.others, h.loaded, h.ctx⟩, rfl⟩

/-! ### The state at issue -/

/-- The stream of an instruction that passes its checks, as its effect finds it: the issue is counted. -/
theorem strm_atIssue (s : State) (i : Issue) : ∃ c, strm (atIssue s i) i.tile i.stream =
    { strm s i.tile i.stream with lastIssue := some c, issuedAt := some c, wait := none, bubble := false, brkOnce := false } := by
  refine ⟨(beforeIssue s i).time.cycle, ?_⟩
  have hbefore : strm (modTile (beforeIssue s i) i.tile fun x => { x with issued := upd 0 x.issued (sc i.stream) (· + 1) })
      i.tile i.stream = strm (beforeIssue s i) i.tile i.stream := by simp [strm]
  rw [atIssue, noteIssue, strm_modStrm_same, hbefore]
  rcases beforeIssue_strm s i i.tile i.stream with h | ⟨d, h⟩ <;> rw [h]
  · rfl
  · unfold tickWait
    split <;> rfl

theorem countless_tickWait (d : Nat) (x : StreamCtx) : countless (tickWait d x) = countless x := by
  unfold tickWait countless
  split
  · cases x.wait <;> rfl
  · rfl

theorem countless_beforeIssue (s : State) (i : Issue) (n : Nat) (q : Stream) :
    countless (strm (beforeIssue s i) n q) = countless (strm s n q) := by
  rcases beforeIssue_strm s i n q with h | ⟨d, h⟩ <;> rw [h]
  exact countless_tickWait d _

theorem beforeIssue_loops (s : State) (i : Issue) (n : Nat) (q : Stream) :
    (strm (beforeIssue s i) n q).loops = (strm s n q).loops := by
  have h := congrArg StreamCtx.loops (countless_beforeIssue s i n q)
  exact h

/-- A change of a stream leaves the rest of every context. -/
theorem streamFrame_modStrm {s t : State} {tile : Nat} {st : Stream} (f : StreamCtx → StreamCtx) (h : StreamFrame s t tile st) :
    StreamFrame s (modStrm t tile st f) tile st where
  grade := h.grade
  saved := h.saved
  mem := h.mem
  shared := h.shared
  others n q hne := by rw [strm_modStrm_other t f hne]; exact h.others n q hne
  loaded n := by
    rw [← h.loaded, modStrm, modCtx, tileAt_modTile]
    split
    · next hn => rw [hn]
    · rfl
  ctx n := by
    rw [← h.ctx, modStrm, modCtx, tileAt_modTile]
    split
    · next hn => rw [hn]; exact streamless_ctxPut _ _ _
    · rfl

/-- So does a change of a tile's registers. -/
theorem streamFrame_modTile {s t : State} {tile : Nat} {st : Stream} (n : Nat) {f : Tile → Tile} (hl : ∀ x, (f x).loaded = x.loaded)
    (hc : ∀ x, (f x).ctx = x.ctx) (h : StreamFrame s t tile st) : StreamFrame s (modTile t n f) tile st := by
  have hloaded (m : Nat) : (tileAt (modTile t n f) m).loaded = (tileAt t m).loaded := by
    rw [tileAt_modTile]
    split
    · next hm => rw [hm, hl]
    · rfl
  have hctx (m : Nat) : (tileAt (modTile t n f) m).ctx = (tileAt t m).ctx := by
    rw [tileAt_modTile]
    split
    · next hm => rw [hm, hc]
    · rfl
  have hstrm (m : Nat) (q : Stream) : strm (modTile t n f) m q = strm t m q := by rw [strm, hctx, strm]
  exact ⟨h.grade, h.saved, h.mem, h.shared, fun m q hne => (hstrm m q).symm ▸ h.others m q hne,
    fun m => (hloaded m).trans (h.loaded m), fun m => (hctx m).symm ▸ h.ctx m⟩

theorem streamFrame_beforeIssue (s : State) (i : Issue) : StreamFrame s (beforeIssue s i) i.tile i.stream := by
  have hstate : (beforeIssue s i).grade = s.grade ∧ (beforeIssue s i).saved = s.saved ∧ SameShared s (beforeIssue s i) := by
    unfold beforeIssue toCycle
    split <;> exact ⟨rfl, rfl, rfl, rfl, rfl, rfl, rfl, rfl, rfl⟩
  obtain ⟨hgrade, hsaved, hshared⟩ := hstate
  exact ⟨hgrade, hsaved, beforeIssue_mem s i, hshared, fun n q _ => countless_beforeIssue s i n q,
    fun n => (beforeIssue_tile s i n).1, fun n => streamless_beforeIssue s i n⟩

theorem streamFrame_atIssue (s : State) (i : Issue) : StreamFrame s (atIssue s i) i.tile i.stream := by
  have hissued := streamFrame_modTile i.tile.val (f := fun x => { x with issued := upd 0 x.issued (sc i.stream) (· + 1) })
    (fun _ => rfl) (fun _ => rfl) (streamFrame_beforeIssue s i)
  rw [atIssue, noteIssue]
  exact streamFrame_modStrm _ hissued

end Sys2Proof.Machine
end

section
/-! The halt of a tile (R108, R154, R160): its record, its stopped streams, and what an instruction that fails its checks comes to. -/

namespace Sys2Proof.Machine

/-! ### The tiles that halt -/

theorem tileAt_haltOne (s : State) (m p : Nat) (st : Stream) (addr : BitVec 48) (reason detail n : Nat) :
    tileAt (haltOne s m p st addr reason detail) n = if n = m then
      { tileAt s m with halt := haltRecord (tileAt s m) p s.time.cycle st addr reason detail,
                        ctx := haltCtx (reason = 0x10) (tileAt s m).ctx } else tileAt s n := by
  simp only [haltOne, tileAt, raiseEvent_tiles]
  exact tileAt_putTile s m n _

@[simp] theorem haltOne_time (s : State) (m p : Nat) (st : Stream) (addr : BitVec 48) (reason detail : Nat) :
    (haltOne s m p st addr reason detail).time = s.time := by
  simp [haltOne]

/-- The tiles that halt together, one after the other (R108). -/
def haltAll (s : State) (ms : List Nat) (st : Stream) (addr : BitVec 48) (reason detail : Nat) : State :=
  ms.foldl (fun s m => haltOne s m (ptileOf s m) st addr reason detail) s

theorem haltAll_time (s : State) (ms : List Nat) (st : Stream) (addr : BitVec 48) (reason detail : Nat) :
    (haltAll s ms st addr reason detail).time = s.time :=
  foldl_keeps (·.time) _ (fun _ _ => haltOne_time ..) ms s

theorem tileAt_haltAll_other (s : State) {ms : List Nat} {n : Nat} (st : Stream) (addr : BitVec 48) (reason detail : Nat)
    (hn : n ∉ ms) : tileAt (haltAll s ms st addr reason detail) n = tileAt s n := by
  induction ms generalizing s with
  | nil => rfl
  | cons m ms ih =>
    rw [List.mem_cons, not_or] at hn
    obtain ⟨hnm, hms⟩ := hn
    exact (ih _ hms).trans ((tileAt_haltOne ..).trans (if_neg hnm))

/-- Each of them holds its record and its streams have stopped. -/
theorem tileAt_haltAll_mem (s : State) {ms : List Nat} {n : Nat} (st : Stream) (addr : BitVec 48) (reason detail : Nat)
    (hd : ms.Nodup) (hn : n ∈ ms) : ∃ p, tileAt (haltAll s ms st addr reason detail) n =
      { tileAt s n with halt := haltRecord (tileAt s n) p s.time.cycle st addr reason detail,
                        ctx := haltCtx (reason = 0x10) (tileAt s n).ctx } := by
  induction ms generalizing s with
  | nil => cases hn
  | cons m ms ih =>
    obtain ⟨hm, hd⟩ := List.nodup_cons.mp hd
    rcases List.mem_cons.mp hn with rfl | hn
    · exact ⟨_, (tileAt_haltAll_other _ st addr reason detail hm).trans ((tileAt_haltOne ..).trans (if_pos rfl))⟩
    · have hne : n ≠ m := fun h => hm (h ▸ hn)
      obtain ⟨p, hp⟩ := ih (haltOne s m (ptileOf s m) st addr reason detail) hd hn
      rw [tileAt_haltOne, if_neg hne, haltOne_time] at hp
      exact ⟨p, hp⟩

theorem gangMates_nodup (s : State) (t : Nat) : (gangMates s t).Nodup := by
  unfold gangMates
  dsimp only
  split
  · exact List.nodup_range.map fun _ _ h => Nat.add_right_cancel h
  · exact List.nodup_singleton t

theorem mem_gangMates (s : State) (t : Nat) : t ∈ gangMates s t := by
  unfold gangMates
  dsimp only
  split
  · exact List.mem_map.mpr ⟨t % 4, List.mem_range.mpr (by omega), by omega⟩
  · exact List.mem_singleton_self t

theorem floodQuench_tiles_time (s : State) (except : Option Nat) (m : QuenchMsg) :
    (floodQuench s except m).tiles = s.tiles ∧ (floodQuench s except m).time = s.time := by
  constructor
  · refine foldl_keeps (fun u : State => u.tiles) _ (fun u p => ?_) _ s
    split <;> simp
  · refine foldl_keeps (fun u : State => u.time) _ (fun u p => ?_) _ s
    split <;> simp

/-- A die fault stops no tile and no clock by itself. -/
theorem dieFault_tiles_time (s : State) (cause : Nat) : (dieFault s cause).tiles = s.tiles ∧ (dieFault s cause).time = s.time := by
  unfold dieFault dieFaultQ
  split
  · simp [sendQuench, floodQuench_tiles_time]
  · split <;> exact ⟨rfl, rfl⟩

/-- A halting tile's gang item fails with it (R108). -/
def gangFailed (s : State) (t reason detail : Nat) : State :=
  if (gangMates s t).length ≤ 1 then s
  else modTile s (t / 4 * 4) fun x => { x with items := x.items.map (failGang reason detail) }

theorem gangFailed_keeps (s : State) (t reason detail n : Nat) :
    (tileAt (gangFailed s t reason detail) n).halt = (tileAt s n).halt ∧
      (tileAt (gangFailed s t reason detail) n).ctx = (tileAt s n).ctx ∧ (gangFailed s t reason detail).time = s.time := by
  unfold gangFailed
  split
  · exact ⟨rfl, rfl, rfl⟩
  · rw [tileAt_modTile]
    split
    · next hn => subst hn; exact ⟨rfl, rfl, rfl⟩
    · exact ⟨rfl, rfl, rfl⟩

/-- A halt other than a breakpoint is a die fault after the tiles have halted. -/
theorem halt_eq (s : State) (t : Nat) (st : Stream) (addr : BitVec 48) {reason : Nat} (detail : Nat) (hr : reason ≠ 0x10) :
    halt s t st addr reason detail =
      dieFault (haltAll (gangFailed s t reason detail) (gangMates s t) st addr reason detail) 0x01 := by
  simp [halt, haltTile, hr, haltAll, gangFailed]

/-- What a halt other than a breakpoint makes of its tile. -/
theorem tileAt_halt (s : State) (t : Nat) (st : Stream) (addr : BitVec 48) {reason : Nat} (detail : Nat) (hr : reason ≠ 0x10) :
    (∃ p, (tileAt (halt s t st addr reason detail) t).halt = haltRecord (tileAt s t) p s.time.cycle st addr reason detail) ∧
      (tileAt (halt s t st addr reason detail) t).ctx = haltCtx false (tileAt s t).ctx ∧
      (halt s t st addr reason detail).time = s.time := by
  obtain ⟨hhalt, hctx, htime⟩ := gangFailed_keeps s t reason detail t
  obtain ⟨p, hp⟩ := tileAt_haltAll_mem (gangFailed s t reason detail) st addr reason detail (gangMates_nodup s t) (mem_gangMates s t)
  obtain ⟨hdtiles, hdtime⟩ := dieFault_tiles_time
    (haltAll (gangFailed s t reason detail) (gangMates s t) st addr reason detail) 0x01
  rw [halt_eq s t st addr detail hr, tileAt, hdtiles, hdtime, haltAll_time, ← tileAt, hp]
  refine ⟨⟨p, ?_⟩, ?_, htime⟩
  · simp only [haltRecord, hhalt, htime]
  · simp only [hctx, hr, decide_false]

theorem haltStream_run_ne_active (brk : Bool) (x : StreamCtx) : (haltStream brk x).run ≠ .active := by
  unfold haltStream
  split
  · next h => simp [h]
  · next h => simp [h]
  · cases brk <;> simp

theorem ctxS_haltCtx (brk : Bool) (c : Context) (q : Stream) : ctxS (haltCtx brk c) q = haltStream brk (ctxS c q) := by
  cases q <;> rfl

theorem haltRecord_first {t : Tile} (p now : Nat) (st : Stream) (addr : BitVec 48) (reason detail : Nat) (h : t.halt.valid = false) :
    (haltRecord t p now st addr reason detail).valid = true ∧
      (haltRecord t p now st addr reason detail).reason = BitVec.ofNat 8 reason ∧
      (haltRecord t p now st addr reason detail).addr = addr ∧
      (haltRecord t p now st addr reason detail).stream.toNat = sc st := by
  simp only [haltRecord, h, Bool.not_false, if_true, true_and]
  cases st <;> rfl

theorem haltRecord_later {t : Tile} (p : Nat) {now : Nat} (st : Stream) (addr : BitVec 48) (reason detail : Nat)
    (h : t.halt.valid = true) (hc : t.halt.cycle ≠ now) : haltRecord t p now st addr reason detail = t.halt := by
  simp [haltRecord, h, hc]

/-- A second stream that faults in the cycle of the record sets its multi bit. -/
theorem haltRecord_multi {t : Tile} (p : Nat) {now : Nat} {st : Stream} (addr : BitVec 48) (reason detail : Nat)
    (h : t.halt.valid = true) (hc : t.halt.cycle = now) (hs : t.halt.stream.toNat ≠ sc st) :
    (haltRecord t p now st addr reason detail).multi = true := by
  rw [haltRecord, if_neg (by simp [h]), if_pos (by simp [hc, hs])]
  split <;> rfl

theorem haltRecord_valid (t : Tile) (p now : Nat) (st : Stream) (addr : BitVec 48) (reason detail : Nat) :
    (haltRecord t p now st addr reason detail).valid = true := by
  cases h : t.halt.valid with
  | false => exact (haltRecord_first p now st addr reason detail h).1
  | true =>
    rw [haltRecord, if_neg (by simp [h])]
    split
    · split
      · rfl
      · exact h
    · exact h

/-- A tile halted from a state with the same halt record has halted as `HaltedWith` says. -/
theorem haltedWith_halt {s u : State} {tile : Fin 64} {st : Stream} (addr : BitVec 48) {reason : Nat} (detail : Nat)
    (hu : (tileAt u tile).halt = (tileAt s tile).halt) (hr : reason ≠ 0x10) :
    HaltedWith s (halt u tile st addr reason detail) tile st addr (BitVec.ofNat 8 reason) := by
  obtain ⟨⟨p, hhalt⟩, hctx, htime⟩ := tileAt_halt u tile st addr detail hr
  rw [HaltedWith, hhalt, htime, ← hu]
  refine ⟨haltRecord_valid .., fun hv => (haltRecord_first _ _ _ _ _ _ hv).2, fun hv hc => haltRecord_later _ _ _ _ _ hv hc,
    fun hv hc hs => haltRecord_multi _ _ _ _ hv hc hs, fun q => ?_⟩
  rw [strm, hctx, ctxS_haltCtx]
  exact haltStream_run_ne_active _ _

/-- An instruction that is ready and fails a check halts its tile with the check's reason. -/
theorem haltedWith_issueWord {s : State} {i : Issue} {word : BitVec 256} {busy : State → Bool} {checks : State → List Check}
    {eff : State → State} {c : Check} (h : Ready s i word) (hc : firstBad (checks (beforeIssue s i)) = some c)
    (hbrk : c.order ≠ 1) (hsp : c.order ≠ 11) (habs : c.reason ≠ 0x0B) (hr : c.reason ≠ 0x10) :
    HaltedWith s (issueWord s i word busy checks eff) i.tile i.stream (strm s i.tile i.stream).pc (BitVec.ofNat 8 c.reason) := by
  have hstop : noteStop (beforeIssue s i) i.tile c = beforeIssue s i := by simp [noteStop, hsp, habs]
  rw [issueWord_halts s i word busy checks eff c h hc hbrk, hstop]
  exact haltedWith_halt _ _ (beforeIssue_halt s i i.tile) hr

end Sys2Proof.Machine
end

section
/-! Jumps (R126): their words, the checks of their targets, and what `JMP` and `BNZ` come to. -/

namespace Sys2Proof.Machine

/-! ### Their words -/

/-- Words are put together from fields by place. -/
theorem toNat_append_add {m n : Nat} (x : BitVec m) (y : BitVec n) : (x ++ y).toNat = x.toNat * 2 ^ n + y.toNat := by
  rw [BitVec.toNat_append, ← Nat.shiftLeft_add_eq_or_of_lt y.isLt, Nat.shiftLeft_eq]

theorem jmpWord_toNat (target : BitVec 48) : (jmpWord target).toNat = target.toNat * 2 ^ 144 :=
  (toNat_append_add (m := 54 + 48) (0 ++ target) (0 : BitVec 144)).trans (by
    simp only [toNat_append_add, BitVec.toNat_zero, BitVec.ofNat_eq_ofNat]
    ring)

theorem bnzWord_toNat (sn : BitVec 5) (target : BitVec 48) :
    (bnzWord sn target).toNat = sn.toNat * 2 ^ 240 + target.toNat * 2 ^ 144 :=
  (toNat_append_add ((0 : BitVec 1) ++ sn ++ (0 : BitVec 48) ++ target) (0 : BitVec 144)).trans (by
    simp only [toNat_append_add, BitVec.toNat_zero, BitVec.ofNat_eq_ofNat]
    ring)

theorem reservedRuns_jmp : reservedRuns [(191, 144)] = [(244, 192), (143, 128), (127, 64), (63, 0)] := by decide

theorem reservedRuns_bnz : reservedRuns [(244, 240), (191, 144)] = [(239, 192), (143, 128), (127, 64), (63, 0)] := by decide

/-- Every unlisted bit is zero. -/
theorem reservedChecks_good {w : BitVec 246} {used : List (Nat × Nat)}
    (h : ∀ g ∈ reservedRuns used, bitsN w.toNat g.2 (g.1 + 1 - g.2) = 0) : ∀ c ∈ reservedChecks w used, c.bad = false := by
  intro c hc
  obtain ⟨g, hg, rfl⟩ := List.mem_map.mp hc
  simp [ckRes, h g hg]

theorem reservedChecks_jmp (target : BitVec 48) : ∀ c ∈ reservedChecks (jmpWord target) [(191, 144)], c.bad = false := by
  have hlt := target.isLt
  apply reservedChecks_good
  simp only [reservedRuns_jmp, List.forall_mem_cons, bitsN, jmpWord_toNat]
  exact ⟨by omega, by omega, by omega, by omega, nofun⟩

theorem reservedChecks_bnz (sn : BitVec 5) (target : BitVec 48) :
    ∀ c ∈ reservedChecks (bnzWord sn target) [(244, 240), (191, 144)], c.bad = false := by
  have hlt := target.isLt
  have hsn := sn.isLt
  apply reservedChecks_good
  simp only [reservedRuns_bnz, List.forall_mem_cons, bitsN, bnzWord_toNat]
  exact ⟨by omega, by omega, by omega, by omega, nofun⟩

theorem fld_jmp (target : BitVec 48) : fld (jmpWord target) 191 144 = target.toNat := by
  have hlt := target.isLt
  simp only [fld, bitsN, jmpWord_toNat]
  omega

theorem fld_bnz_target (sn : BitVec 5) (target : BitVec 48) : fld (bnzWord sn target) 191 144 = target.toNat := by
  have hlt := target.isLt
  simp only [fld, bitsN, bnzWord_toNat]
  omega

theorem fld_bnz_reg (sn : BitVec 5) (target : BitVec 48) : fld (bnzWord sn target) 244 240 = sn.toNat := by
  have hlt := target.isLt
  have hsn := sn.isLt
  simp only [fld, bitsN, bnzWord_toNat]
  omega

/-! ### Their checks -/

theorem firstBad_append_good {cs : List Check} (ds : List Check) (h : ∀ c ∈ cs, c.bad = false) :
    firstBad (cs ++ ds) = firstBad ds := by
  have hcs : cs.filter (·.bad) = [] := List.filter_eq_nil_iff.mpr fun c hc => by simp [h c hc]
  simp [firstBad, hcs]

/-- A failed check decides when no later one comes before it in order; reserved fields have a rule of their own. -/
theorem firstBad_cons_bad {c : Check} {cs : List Check} (hc : c.bad = true) (h3 : c.order ≠ 3)
    (hcs : ∀ d ∈ cs, c.order ≤ d.order) : firstBad (c :: cs) = some c := by
  unfold firstBad
  rw [List.filter_cons_of_pos hc, List.foldl_cons]
  induction cs with
  | nil => rfl
  | cons d ds ih =>
    obtain ⟨hd, hds⟩ := List.forall_mem_cons.mp hcs
    by_cases hbad : d.bad = true
    · rw [List.filter_cons_of_pos hbad, List.foldl_cons]
      simpa [Nat.not_lt.mpr hd, h3] using ih hds
    · rw [List.filter_cons_of_neg hbad]
      exact ih hds

/-- Does a target lie in the innermost body, if there is one (R126)? -/
def inBody (x : StreamCtx) (t : Nat) : Bool := x.loops.head?.all fun f => f.start.toNat ≤ t && t < f.stop.toNat

theorem inBody_iff (x : StreamCtx) (t : Nat) :
    inBody x t = true ↔ ∀ f ∈ x.loops.head?, f.start.toNat ≤ t ∧ t < f.stop.toNat := by
  simp [inBody, Option.all_eq_true]

theorem jumpChecks_eq (s : State) (x : StreamCtx) (t : Nat) : jumpChecks s x t =
    [ckAlign (decide (t % 32 ≠ 0)) 1 t, ckRange (!codeAddr s t) (if llmBase ≤ t && t < llmBase + 256 * wayGroup then 0 else 1) t,
      ckRange (!inBody x t) 1 t] := by
  unfold jumpChecks inBody
  cases x.loops <;> rfl

theorem firstBad_jumpChecks_inBody {s : State} {x : StreamCtx} {t : Nat} (hal : t % 32 = 0) (hcode : codeAddr s t = true)
    (hbody : inBody x t = true) : firstBad (jumpChecks s x t) = none := by
  simp [jumpChecks_eq, firstBad, ckAlign, ckRange, hal, hcode, hbody]

/-- The alignment is looked at before the range. -/
theorem firstBad_jumpChecks_unaligned (s : State) (x : StreamCtx) {t : Nat} (hal : t % 32 ≠ 0) :
    ∃ c, firstBad (jumpChecks s x t) = some c ∧ c.order = 6 ∧ c.reason = 0x04 := by
  rw [jumpChecks_eq]
  exact ⟨_, firstBad_cons_bad (decide_eq_true hal) (by simp [ckAlign]) (by simp [ckAlign, ckRange]), rfl, rfl⟩

theorem firstBad_jumpChecks_outside {s : State} {x : StreamCtx} {t : Nat} (hal : t % 32 = 0)
    (hout : codeAddr s t = false ∨ inBody x t = false) :
    ∃ c, firstBad (jumpChecks s x t) = some c ∧ c.order = 7 ∧ c.reason = 0x03 := by
  rw [jumpChecks_eq, firstBad_cons_good _ _ (by simp [ckAlign, hal])]
  cases hcode : codeAddr s t with
  | false => exact ⟨_, firstBad_cons_bad rfl (by simp [ckRange]) (by simp [ckRange]), rfl, rfl⟩
  | true =>
    have hbody : inBody x t = false := hout.resolve_left (by simp [hcode])
    rw [firstBad_cons_good _ _ rfl, hbody]
    exact ⟨_, firstBad_cons_bad rfl (by simp [ckRange]) (by simp), rfl, rfl⟩

theorem jumpChecks_beforeIssue (s : State) (i : Issue) (t : Nat) :
    jumpChecks (beforeIssue s i) (strm (beforeIssue s i) i.tile i.stream) t = jumpChecks s (strm s i.tile i.stream) t := by
  simp only [jumpChecks, codeAddr, regionAt_mem s _ (beforeIssue_mem s i), beforeIssue_loops]

/-! ### The issue of a jump -/

/-- The issue of a jump word to a target, which acts on its stream alone. -/
def jumpIssue (s : State) (i : Issue) (op : Nat) (w : BitVec 246) (used : List (Nat × Nat)) (target : Nat)
    (eff : StreamCtx → StreamCtx) : State :=
  issueWord s i (tileWord op w) (fun _ => false)
    (fun s => reservedChecks w used ++ jumpChecks s (strm s i.tile i.stream) target) fun s => modStrm s i.tile i.stream eff

theorem execJmp_eq (i : Issue) (target : BitVec 48) (s : State) : exec (.jmp i (jmpWord target)) s =
    done s (jumpIssue s i 0x002 (jmpWord target) [(191, 144)] target.toNat fun x => { x with pc := target }) := by
  show execJmp i (jmpWord target) s = _
  simp only [execJmp, fld_jmp, BitVec.ofNat_toNat, BitVec.setWidth_eq]
  rfl

theorem execBnz_eq (i : Issue) (sn : BitVec 5) (target : BitVec 48) (s : State) : exec (.bnz i (bnzWord sn target)) s =
    done s (jumpIssue s i 0x003 (bnzWord sn target) [(244, 240), (191, 144)] target.toNat fun x =>
      if sReg x sn.toNat ≠ 0 then { x with pc := target } else advance1 x) := by
  show execBnz i (bnzWord sn target) s = _
  simp only [execBnz, fld_bnz_target, fld_bnz_reg, BitVec.ofNat_toNat, BitVec.setWidth_eq]
  rfl

/-! ### What a jump comes to -/

/-- A jump to a target: its issue with that target's checks and an effect on its stream, and no reserved bit set. -/
structure IsJump (c : Instr) (i : Issue) (op : Nat) (w : BitVec 246) (used : List (Nat × Nat)) (target : Nat)
    (eff : StreamCtx → StreamCtx) : Prop where
  exec     : ∀ s, exec c s = done s (jumpIssue s i op w used target eff)
  reserved : ∀ k ∈ reservedChecks w used, k.bad = false

theorem isJump_jmp (i : Issue) (target : BitVec 48) : IsJump (.jmp i (jmpWord target)) i 0x002 (jmpWord target) [(191, 144)]
    target.toNat fun x => { x with pc := target } := ⟨execJmp_eq i target, reservedChecks_jmp target⟩

theorem isJump_bnz (i : Issue) (sn : BitVec 5) (target : BitVec 48) : IsJump (.bnz i (bnzWord sn target)) i 0x003
    (bnzWord sn target) [(244, 240), (191, 144)] target.toNat
    fun x => if sReg x sn.toNat ≠ 0 then { x with pc := target } else advance1 x :=
  ⟨execBnz_eq i sn target, reservedChecks_bnz sn target⟩

section
variable {c : Instr} {s : State} {i : Issue} {op : Nat} {w : BitVec 246} {used : List (Nat × Nat)} {target : Nat}
  {eff : StreamCtx → StreamCtx} (hj : IsJump c i op w used target eff) (h : Ready s i (tileWord op w))
include hj

theorem IsJump.firstBad_eq : firstBad (reservedChecks w used ++
      jumpChecks (beforeIssue s i) (strm (beforeIssue s i) i.tile i.stream) target) =
    firstBad (jumpChecks s (strm s i.tile i.stream) target) := by
  rw [firstBad_append_good _ hj.reserved, jumpChecks_beforeIssue]

include h

theorem IsJump.halts {k : Check} {reason : Nat} (hk : firstBad (jumpChecks s (strm s i.tile i.stream) target) = some k)
    (hord : k.order = 6 ∨ k.order = 7) (hr : k.reason = reason) (hreason : reason < 0x0B) :
    Completes c s fun t => HaltedWith s t i.tile i.stream (strm s i.tile i.stream).pc (BitVec.ofNat 8 reason) := by
  subst hr
  exact ⟨_, hj.exec s, haltedWith_issueWord h (hj.firstBad_eq.trans hk) (by omega) (by omega) (by omega) (by omega)⟩

theorem IsJump.halts_unaligned (hal : target % 32 ≠ 0) :
    Completes c s fun t => HaltedWith s t i.tile i.stream (strm s i.tile i.stream).pc 0x04 := by
  obtain ⟨k, hk, hord, hr⟩ := firstBad_jumpChecks_unaligned s (strm s i.tile i.stream) hal
  exact hj.halts h hk (.inl hord) hr (by decide)

theorem IsJump.halts_outside (hal : target % 32 = 0)
    (hout : codeAddr s target = false ∨ inBody (strm s i.tile i.stream) target = false) :
    Completes c s fun t => HaltedWith s t i.tile i.stream (strm s i.tile i.stream).pc 0x03 := by
  obtain ⟨k, hk, hord, hr⟩ := firstBad_jumpChecks_outside hal hout
  exact hj.halts h hk (.inr hord) hr (by decide)

/-- A jump whose target passes takes effect on its stream as the issue left it, and on nothing else. -/
theorem IsJump.goes (hal : target % 32 = 0) (hcode : codeAddr s target = true)
    (hbody : inBody (strm s i.tile i.stream) target = true) :
    Completes c s fun t => StreamFrame s t i.tile i.stream ∧ ∃ n, strm t i.tile i.stream = eff { strm s i.tile i.stream with
      lastIssue := some n, issuedAt := some n, wait := none, bubble := false, brkOnce := false } := by
  have hgood := hj.firstBad_eq.trans (firstBad_jumpChecks_inBody hal hcode hbody)
  have hissue : jumpIssue s i op w used target eff = modStrm (atIssue s i) i.tile i.stream eff :=
    issueWord_ready s i _ _ _ _ h hgood
  obtain ⟨n, hn⟩ := strm_atIssue s i
  have hframe : StreamFrame s (modStrm (atIssue s i) i.tile i.stream eff) i.tile i.stream :=
    streamFrame_modStrm eff (streamFrame_atIssue s i)
  obtain ⟨t, ht, htframe, hstrm⟩ := hframe.done
  refine ⟨t, ?_, htframe, n, ?_⟩
  · rw [hj.exec, hissue, ht]
  · rw [hstrm, strm_modStrm_same, hn]

end

theorem codeAddr_iff (s : State) (a : Nat) : codeAddr s a = true ↔ regionAt s a = .hbm ∨ regionAt s a = .llm := by
  simp [codeAddr]

end Sys2Proof.Machine

open Sys2Proof.Machine in
/-- Settles O5: a `JMP` and a `BNZ` meet the same checks of their target; one that passes acts on its stream alone, and the first that fails
halts the tile. -/
theorem jumpsGoToTheirTargets : Obligations.JumpsGoToTheirTargets := by
  intro s i target
  refine ⟨fun hal hmem hbody => ⟨fun h => ?jmp, fun sn h => ?bnz⟩,
    fun hal => ⟨fun h => (isJump_jmp i target).halts_unaligned h hal, fun sn h => (isJump_bnz i sn target).halts_unaligned h hal⟩,
    fun hal hout => ?outside⟩
  case jmp =>
    obtain ⟨t, ht, hframe, n, hn⟩ :=
      (isJump_jmp i target).goes h hal ((codeAddr_iff s _).mpr hmem) ((inBody_iff _ _).mpr hbody)
    refine ⟨t, ht, ?_, ?_, ?_, ?_, hframe.sameStorage, hframe.onlyStream, hframe.shared⟩ <;> rw [hn]
  case bnz =>
    obtain ⟨t, ht, hframe, n, hn⟩ :=
      (isJump_bnz i sn target).goes h hal ((codeAddr_iff s _).mpr hmem) ((inBody_iff _ _).mpr hbody)
    refine ⟨t, ht, ?_, ?_, ?_, ?_, hframe.sameStorage, hframe.onlyStream, hframe.shared⟩ <;> rw [hn]
    · exact apply_ite StreamCtx.pc _ _ _
    · exact apply_ite StreamCtx.loops _ _ _
    · dsimp only
      split <;> rfl
    · dsimp only
      split <;> rfl
  case outside =>
    have hbad : codeAddr s target.toNat = false ∨ inBody (strm s i.tile i.stream) target.toNat = false := by
      rw [← Bool.not_eq_true, ← Bool.not_eq_true, codeAddr_iff, inBody_iff]
      exact hout
    exact ⟨fun h => (isJump_jmp i target).halts_outside h hal hbad, fun sn h => (isJump_bnz i sn target).halts_outside h hal hbad⟩
end
